-- ==== Sys2Proof/Word.lean ====
section
/-! DEFINITION. The word types of the Cagal package (00_scope.md R4): bit 0 is the least significant bit. -/

namespace Sys2Proof

/-- A 64-bit word: a scalar register, an instruction word, a CSR, a word of a memory-resident record (R4). -/
abbrev Word := BitVec 64

/-- One byte of memory. -/
abbrev Byte := BitVec 8

/-- The payload of a token: at most a vector of 32 elements of 64 bits (R155, R179). -/
abbrev Payload := BitVec 2048

end Sys2Proof
end

