-- ==== Sys2Proof/Machine/Bits.lean ====
section
/-! DEFINITION. Bit fields, extensions, byte order and the small list operations every other file uses
(R4, R8: little-endian, fields written [hi:lo]). -/

namespace Sys2Proof.Machine

/-- Field [hi:lo] of a number, as a number (R4, R8). -/
def fieldN (x hi lo : Nat) : Nat := (x >>> lo) % 2 ^ (hi + 1 - lo)

/-- Field [hi:lo] of a word, as a number (R4, R8). -/
def field (w : Word) (hi lo : Nat) : Nat := fieldN w.toNat hi lo

/-- One bit of a word (R4). -/
def flag (w : Word) (i : Nat) : Bool := w.getLsbD i

/-- The number 1 for true and 0 for false. -/
def bit (b : Bool) : Nat := if b then 1 else 0

/-- A word made of a number (a value assigned to a field keeps its low bits, R8). -/
def word (n : Nat) : Word := BitVec.ofNat 64 n

/-- `sext64` of the low `w` bits of a number (R8), as an integer. -/
def sextN (x w : Nat) : Int :=
  let y := x % 2 ^ w
  if w = 0 then 0 else if 2 ^ (w - 1) ≤ y then (y : Int) - (2 : Int) ^ w else (y : Int)

/-- An integer taken modulo 2^w (two's complement). -/
def wrapN (x : Int) (w : Nat) : Nat := (x % (2 : Int) ^ w).toNat

/-- An integer as a word, modulo 2^64. -/
def wordOfInt (x : Int) : Word := word (wrapN x 64)

/-- ⌊log2 n⌋, and 0 for 0. -/
def ilog2 (n : Nat) : Nat := Nat.log2 n

/-- ⌈log2 n⌉, and 0 for 0 and 1. -/
def clog2 (n : Nat) : Nat := if n ≤ 1 then 0 else Nat.log2 (n - 1) + 1

/-- ⌈a / b⌉ of natural numbers. -/
def cdiv (a b : Nat) : Nat := (a + b - 1) / b

/-- The bytes of a number, byte 0 first (R4). -/
def leBytes (n : Nat) : Nat → List Byte
  | 0 => []
  | k + 1 => BitVec.ofNat 8 n :: leBytes (n / 256) k

/-- The number whose bytes are given, byte 0 first (R4). -/
def leNat : List Byte → Nat
  | [] => 0
  | b :: r => b.toNat + 256 * leNat r

/-- The number held by 64-bit words, word 0 first. -/
def leWords : List Word → Nat
  | [] => 0
  | w :: r => w.toNat + 2 ^ 64 * leWords r

/-- A list with position `i` replaced; a position past the end changes nothing. -/
def listSet {α : Type} : List α → Nat → α → List α
  | [], _, _ => []
  | _ :: r, 0, a => a :: r
  | x :: r, i + 1, a => x :: listSet r i a

/-- A list with position `i` changed by a function. -/
def listModify {α : Type} : List α → Nat → (α → α) → List α
  | [], _, _ => []
  | x :: r, 0, f => f x :: r
  | x :: r, i + 1, f => x :: listModify r i f

/-- The members of a bit set below `n`, ascending. -/
def bitsOf (x n : Nat) : List Nat := (List.range n).filter fun i => x.testBit i

/-- The lowest set bit of `x` below `n`. -/
def lowestBit (x n : Nat) : Option Nat := (bitsOf x n).head?

/-- A sparse table: the value of a key is that of its first entry. -/
abbrev Table (α : Type) := List (Nat × α)

/-- The value of a key, if the table lists it. -/
def Table.find {α : Type} : Table α → Nat → Option α
  | [], _ => none
  | (k, a) :: r, i => if k = i then some a else Table.find r i

/-- The value of a key, or a default. -/
def Table.get {α : Type} (t : Table α) (i : Nat) (d : α) : α := (t.find i).getD d

/-- A table in which a key has a new value; other keys keep theirs. -/
def Table.put {α : Type} : Table α → Nat → α → Table α
  | [], i, a => [(i, a)]
  | (k, b) :: r, i, a => if k = i then (i, a) :: r else (k, b) :: Table.put r i a

/-- A table without a key. -/
def Table.drop {α : Type} (t : Table α) (i : Nat) : Table α := t.filter fun e => e.1 != i

/-- A value changed at one key, starting from a default where the key is not listed. -/
def Table.modify {α : Type} (t : Table α) (i : Nat) (d : α) (f : α → α) : Table α :=
  t.put i (f (t.get i d))

/-- Insert a number into an ascending list without repeats (a set of numbers). -/
def setAdd : List Nat → Nat → List Nat
  | [], a => [a]
  | x :: r, a => if a < x then a :: x :: r else if a = x then x :: r else x :: setAdd r a

/-- Remove a number from a set of numbers. -/
def setDel (l : List Nat) (a : Nat) : List Nat := l.filter (· != a)

/-- The first index at which a predicate holds. -/
def firstIdx {α : Type} (p : α → Bool) : List α → Option Nat
  | [] => none
  | a :: r => if p a then some 0 else (firstIdx p r).map (· + 1)

/-- A predicate applied to an optional value; false for none. -/
def optB {α : Type} (o : Option α) (p : α → Bool) : Bool := match o with | some a => p a | none => false

/-- All the values a computation gives, or none if one fails. -/
def allSome {α β : Type} (f : α → Option β) : List α → Option (List β)
  | [] => some []
  | a :: r => match f a, allSome f r with
    | some b, some bs => some (b :: bs)
    | _, _ => none

/-- A bit for each number of a list. -/
def bitSet (l : List Nat) : Nat := l.foldl (fun m i => m ||| 2 ^ i) 0

end Sys2Proof.Machine
end

