-- ==== Sys2Proof/Machine/Fields.lean ====
section
/-! DEFINITION. The operand fields of an instruction word and of the steps of the table: element types,
shapes, predication, rounding modes, scopes, orderings, targets and the six formats (R178, R184, R213-R221). -/

namespace Sys2Proof.Machine

/-- The sixteen element types, in the order of their TY codes 0x0-0xF (R178, R233). -/
inductive Ty where
  | i8 | n8 | i16 | n16 | i32 | n32 | i64 | n64
  | e4m3 | e5m2 | e2m1 | bf16 | f16 | f32 | e8m0 | pred
deriving DecidableEq, Repr

/-- The TY code (R178). -/
def Ty.code : Ty → Nat
  | .i8 => 0 | .n8 => 1 | .i16 => 2 | .n16 => 3 | .i32 => 4 | .n32 => 5 | .i64 => 6 | .n64 => 7
  | .e4m3 => 8 | .e5m2 => 9 | .e2m1 => 10 | .bf16 => 11 | .f16 => 12 | .f32 => 13 | .e8m0 => 14 | .pred => 15

/-- The type of a TY code (R178). -/
def Ty.ofCode (n : Nat) : Ty :=
  match n % 16 with
  | 0 => .i8 | 1 => .n8 | 2 => .i16 | 3 => .n16 | 4 => .i32 | 5 => .n32 | 6 => .i64 | 7 => .n64
  | 8 => .e4m3 | 9 => .e5m2 | 10 => .e2m1 | 11 => .bf16 | 12 => .f16 | 13 => .f32 | 14 => .e8m0 | _ => .pred

/-- Element width in bits (R178). -/
def Ty.width : Ty → Nat
  | .i8 | .n8 | .e4m3 | .e5m2 | .e8m0 | .pred => 8
  | .i16 | .n16 | .bf16 | .f16 => 16
  | .i32 | .n32 | .f32 => 32
  | .i64 | .n64 => 64
  | .e2m1 => 4

/-- I and N types (R178). -/
def Ty.isInt (t : Ty) : Bool := t.code < 8
/-- I types: two's complement (R178). -/
def Ty.isSigned (t : Ty) : Bool := t.code < 8 && t.code % 2 == 0
/-- The floating-point types of R275: E4M3 to FP32. -/
def Ty.isFloat (t : Ty) : Bool := 8 ≤ t.code && t.code ≤ 13

/-- Shape SH (R216). -/
inductive Sh where | scalar | vector | digit
deriving DecidableEq, Repr
/-- The SH code (R216). -/
def Sh.code : Sh → Nat | .scalar => 0 | .vector => 1 | .digit => 2
/-- The shape of an SH code; 11 is reserved (R216). -/
def Sh.ofCode (n : Nat) : Option Sh := match n with | 0 => some .scalar | 1 => some .vector | 2 => some .digit | _ => none

/-- Predication PR (R213). -/
inductive Pr where | always | onTrue | onFalse
deriving DecidableEq, Repr
/-- The PR code (R213). -/
def Pr.code : Pr → Nat | .always => 0 | .onTrue => 1 | .onFalse => 2
/-- The predication of a PR code; 11 is rejected (R213). -/
def Pr.ofCode (n : Nat) : Option Pr := match n with | 0 => some .always | 1 => some .onTrue | 2 => some .onFalse | _ => none

/-- Rounding mode RM (R184). -/
inductive Rm where | rne | rtz | rup | rdn | rna | rod | sto | dyn
deriving DecidableEq, Repr
/-- The RM code (R184). -/
def Rm.code : Rm → Nat
  | .rne => 0 | .rtz => 1 | .rup => 2 | .rdn => 3 | .rna => 4 | .rod => 5 | .sto => 6 | .dyn => 7
/-- The rounding mode of an RM code (R184). -/
def Rm.ofCode (n : Nat) : Rm :=
  match n % 8 with
  | 0 => .rne | 1 => .rtz | 2 => .rup | 3 => .rdn | 4 => .rna | 5 => .rod | 6 => .sto | _ => .dyn

/-- Scope SC (R13). -/
inductive Sc where | lane | cell | quad | die | pkg | pod
deriving DecidableEq, Repr
/-- The SC code (R13). -/
def Sc.code : Sc → Nat | .lane => 0 | .cell => 1 | .quad => 2 | .die => 3 | .pkg => 4 | .pod => 5
/-- The scope of an SC code; 6 and 7 are rejected (R218). -/
def Sc.ofCode (n : Nat) : Option Sc :=
  match n with | 0 => some .lane | 1 => some .cell | 2 => some .quad | 3 => some .die | 4 => some .pkg | 5 => some .pod | _ => none

/-- Ordering OR (R218). -/
inductive Ord where | rlx | acq | rel | ar | sc
deriving DecidableEq, Repr
/-- The OR code (R218). -/
def Ord.code : Ord → Nat | .rlx => 0 | .acq => 1 | .rel => 2 | .ar => 3 | .sc => 4
/-- The ordering of an OR code; 101-111 are rejected (R218). -/
def Ord.ofCode (n : Nat) : Option Ord :=
  match n with | 0 => some .rlx | 1 => some .acq | 2 => some .rel | 3 => some .ar | 4 => some .sc | _ => none

/-- Immediate placement IPOS (R217). -/
inductive Ipos where | low | high | fp32
deriving DecidableEq, Repr
/-- The IPOS code (R217). -/
def Ipos.code : Ipos → Nat | .low => 0 | .high => 1 | .fp32 => 2
/-- The placement of an IPOS code; 11 is rejected (R188). -/
def Ipos.ofCode (n : Nat) : Option Ipos := match n with | 0 => some .low | 1 => some .high | 2 => some .fp32 | _ => none

/-- An operand field of a slot (R214). -/
inductive Fld where | l | r | p | x
deriving DecidableEq, Repr
/-- The FLD code of an operand field (R214). -/
def Fld.code : Fld → Nat | .l => 0 | .r => 1 | .p => 2 | .x => 3
/-- The operand field of an FLD code (R214). -/
def Fld.ofCode (n : Nat) : Fld := match n % 4 with | 0 => .l | 1 => .r | 2 => .p | _ => .x

/-- A target (R214): what receives a result. -/
inductive Target where
  | none
  | slot (n : Fin 128) (f : Fld)
  | sreg (n : Fin 32)
  | vreg (n : Fin 8)
  | chan (n : Fin 16) (fromX : Bool)
deriving DecidableEq, Repr

/-- The 11 bits of a target (R214). -/
def Target.code : Target → Nat
  | .none => 0
  | .slot n f => 2 ^ 9 + 4 * n.val + f.code
  | .sreg n => 2 ^ 10 + 4 * n.val
  | .vreg n => 2 ^ 10 + 4 * (32 + n.val)
  | .chan n x => 2 ^ 10 + 2 ^ 9 + 4 * n.val + (if x then 1 else 0)

/-- The target of 11 bits; none for a reserved code (R214). -/
def Target.ofCode (c : Nat) : Option Target :=
  let kind := c / 512 % 4
  let num := c / 4 % 128
  let fld := c % 4
  if kind = 0 then (if c % 512 = 0 then some .none else Option.none)
  else if kind = 1 then
    (if h : num < 128 then some (.slot ⟨num, h⟩ (Fld.ofCode fld)) else Option.none)
  else if kind = 2 then
    (if fld ≠ 0 then Option.none
     else if h : num < 32 then some (.sreg ⟨num, h⟩)
     else if h2 : num - 32 < 8 then some (.vreg ⟨num - 32, h2⟩)
     else Option.none)
  else
    (if h : num < 16 then
       (if fld = 0 then some (.chan ⟨num, h⟩ false)
        else if fld = 1 then some (.chan ⟨num, h⟩ true) else Option.none)
     else Option.none)

/-- Format G (R216). -/
structure FmtG where
  pr : Pr
  ty : Ty
  sh : Sh
  rm : Rm
  sat : Bool
  kg : BitVec 3
  pd : BitVec 6
  aux : BitVec 13
  ta : Target
  tb : Target
deriving DecidableEq, Repr

/-- Format I (R217). -/
structure FmtI where
  pr : Pr
  ty : Ty
  sh : Sh
  imm : BitVec 32
  ipos : Ipos
  ta : Target
deriving DecidableEq, Repr

/-- Format M (R218). -/
structure FmtM where
  pr : Pr
  ty : Ty
  sh : Sh
  wv : BitVec 5
  pv : BitVec 5
  nx : BitVec 5
  sc : Sc
  ord : Ord
  loc : Bool
  off : BitVec 14
  ta : Target
deriving DecidableEq, Repr

/-- Format C (R219). -/
structure FmtC where
  pr : Pr
  ex : BitVec 3
  ck : BitVec 3
  off : BitVec 32
  aux : BitVec 5
  ta : Target
deriving DecidableEq, Repr

/-- Format T (R220). -/
structure FmtT where
  pr : Pr
  ty : Ty
  sh : Sh
  sr : BitVec 8
  pt : BitVec 6
  aux : BitVec 12
  ta : Target
  tb : Target
deriving DecidableEq, Repr

/-- Format S (R221). -/
structure FmtS where
  pr : Pr
  sel : BitVec 14
  aux : BitVec 18
  ta : Target
  tb : Target
deriving DecidableEq, Repr

/-- Who issues: a task context of a cell, or a helm core (R104, R177). Helm cores are numbered as the ready
bits of R435 number them: 4d + k on a compute die, 256 + 2i + k on I/O die i. -/
inductive Agent where
  | task (die pcell t : Nat)
  | helm (core : Nat)
deriving DecidableEq, Repr

end Sys2Proof.Machine
end

