-- ==== Sys2Proof/Syntax.lean ====
section
/-! DEFINITION. The steps of the part, one constructor for each row of spec/opcode_table.json.

An instruction of a block carries the fields of its format (R216-R221). A row that is an event of the hardware
carries the place where it happens: `cell` is 256 times the die id plus the physical cell id, `port` is 64
times the die id plus the memory-port number, `region` is a region handle (R361), `acc` the number of an access
in flight and `unit` the part of it, `session` a debug session; a frame carries its bytes. -/

namespace Sys2Proof

inductive Instr where
  /-- MOV (R243, opcode 0x01). Sends the L token unchanged to both targets; with SH 10 it forwards one digit element group. -/
  | mov (f : Machine.FmtG)
  /-- MOVI (R244, opcode 0x02). Sends the immediate formed by R188 to its target. -/
  | movi (f : Machine.FmtI)
  /-- NULL (R245, opcode 0x03). Sends a NULL token to both targets, closing the wave of an unfired memory operation. -/
  | nullTok (f : Machine.FmtG)
  /-- READ (R246, opcode 0x04). Sends the value a register held when the block became the firing block. -/
  | readReg (f : Machine.FmtG)
  /-- SEL (R247, opcode 0x05). Sends L when X is true and R when it is false. -/
  | sel (f : Machine.FmtG)
  /-- IN (R248, opcode 0x06). Takes the oldest token of the task's colour from an input channel and sends it. -/
  | inTok (f : Machine.FmtG)
  /-- STOP (R249, opcode 0x07). Sends a stop token Sk to both targets. -/
  | stopTok (f : Machine.FmtG)
  /-- TOKT (R250, opcode 0x08). Sends a PRED word testing the kind of L to TA and the L token to TB. -/
  | tokt (f : Machine.FmtG)
  /-- COLOR (R251, opcode 0x09). Sends CTX.COLOR as an I64 word. -/
  | color (f : Machine.FmtG)
  /-- ADD (R254, opcode 0x10). Integer addition, wrapping or saturating. -/
  | add (f : Machine.FmtG)
  /-- SUB (R254, opcode 0x11). Integer subtraction, wrapping or saturating. -/
  | sub (f : Machine.FmtG)
  /-- MUL (R254, opcode 0x12). Integer multiplication, wrapping or saturating. -/
  | mul (f : Machine.FmtG)
  /-- MULH (R254, opcode 0x13). High half of the integer product. -/
  | mulh (f : Machine.FmtG)
  /-- DIV (R255, opcode 0x14). Integer quotient truncated toward zero, with division by zero giving all ones and DZ. -/
  | div (f : Machine.FmtG)
  /-- REM (R255, opcode 0x15). Integer remainder with the sign of the dividend. -/
  | rem (f : Machine.FmtG)
  /-- MIN (R254, opcode 0x16). Smaller of two integers. -/
  | min (f : Machine.FmtG)
  /-- MAX (R254, opcode 0x17). Larger of two integers. -/
  | max (f : Machine.FmtG)
  /-- ABS (R254, opcode 0x18). Integer absolute value. -/
  | abs (f : Machine.FmtG)
  /-- NEG (R254, opcode 0x19). Integer negation. -/
  | neg (f : Machine.FmtG)
  /-- AND (R253, opcode 0x1A). Bitwise and of two operands. -/
  | and (f : Machine.FmtG)
  /-- OR (R253, opcode 0x1B). Bitwise or of two operands. -/
  | or (f : Machine.FmtG)
  /-- XOR (R253, opcode 0x1C). Bitwise exclusive or of two operands. -/
  | xor (f : Machine.FmtG)
  /-- NOT (R253, opcode 0x1D). Bitwise complement. -/
  | not (f : Machine.FmtG)
  /-- SHL (R256, opcode 0x1E). Left shift, wrapping or saturating. -/
  | shl (f : Machine.FmtG)
  /-- SHR (R256, opcode 0x1F). Logical right shift. -/
  | shr (f : Machine.FmtG)
  /-- SRA (R256, opcode 0x20). Arithmetic right shift. -/
  | sra (f : Machine.FmtG)
  /-- ROT (R256, opcode 0x21). Left rotation. -/
  | rot (f : Machine.FmtG)
  /-- CLZ (R253, opcode 0x22). Counts leading zero bits. -/
  | clz (f : Machine.FmtG)
  /-- POPC (R253, opcode 0x23). Counts one bits. -/
  | popc (f : Machine.FmtG)
  /-- BREV (R253, opcode 0x24). Reverses the bits of the element. -/
  | brev (f : Machine.FmtG)
  /-- BEXT (R257, opcode 0x25). Extracts a bit field. -/
  | bext (f : Machine.FmtG)
  /-- BINS (R257, opcode 0x26). Inserts a bit field. -/
  | bins (f : Machine.FmtG)
  /-- MADD (R254, opcode 0x27). Integer multiply-add, wrapped once. -/
  | madd (f : Machine.FmtG)
  /-- LEA (R259, opcode 0x28). Forms an address lv + rv times 2^s modulo 2^64. -/
  | lea (f : Machine.FmtG)
  /-- CMP (R258, opcode 0x29). Integer comparison delivering PRED. -/
  | cmp (f : Machine.FmtG)
  /-- ADDI (R261, opcode 0x2A). Adds an immediate, wrapping. -/
  | addi (f : Machine.FmtI)
  /-- ANDI (R261, opcode 0x2B). Bitwise and with an immediate. -/
  | andi (f : Machine.FmtI)
  /-- ORI (R261, opcode 0x2C). Bitwise or with an immediate. -/
  | ori (f : Machine.FmtI)
  /-- XORI (R261, opcode 0x2D). Bitwise exclusive or with an immediate. -/
  | xori (f : Machine.FmtI)
  /-- CMPI (R261, opcode 0x2E). Tests lv below an immediate, delivering PRED. -/
  | cmpi (f : Machine.FmtI)
  /-- SHFL (R260, opcode 0x2F). Permutes lanes of L by the lane indices in R. -/
  | shfl (f : Machine.FmtG)
  /-- FADD (R276, opcode 0x30). Float addition rounded once. -/
  | fadd (f : Machine.FmtG)
  /-- FSUB (R276, opcode 0x31). Float subtraction rounded once. -/
  | fsub (f : Machine.FmtG)
  /-- FMUL (R276, opcode 0x32). Float multiplication rounded once. -/
  | fmul (f : Machine.FmtG)
  /-- FFMA (R276, opcode 0x33). Fused multiply-add rounded once. -/
  | ffma (f : Machine.FmtG)
  /-- FDIV (R277, opcode 0x34). Float division with the invalid and divide-by-zero cases of R277. -/
  | fdiv (f : Machine.FmtG)
  /-- FSQRT (R277, opcode 0x35). Float square root rounded once. -/
  | fsqrt (f : Machine.FmtG)
  /-- FMIN (R278, opcode 0x36). Exact float minimum. -/
  | fmin (f : Machine.FmtG)
  /-- FMAX (R278, opcode 0x37). Exact float maximum. -/
  | fmax (f : Machine.FmtG)
  /-- FABS (R278, opcode 0x38). Clears the sign bit. -/
  | fabs (f : Machine.FmtG)
  /-- FNEG (R278, opcode 0x39). Inverts the sign bit. -/
  | fneg (f : Machine.FmtG)
  /-- FCMP (R279, opcode 0x3A). Float comparison delivering PRED. -/
  | fcmp (f : Machine.FmtG)
  /-- FCLASS (R280, opcode 0x3B). Delivers an N16 class mask. -/
  | fclass (f : Machine.FmtG)
  /-- CVT (R281, opcode 0x3C). Converts an element from type STY to type TY. -/
  | cvt (f : Machine.FmtG)
  /-- FRINT (R282, opcode 0x3D). Rounds to an integral value of the type. -/
  | frint (f : Machine.FmtG)
  /-- FSCALE (R282, opcode 0x3E). Multiplies by 2^n and rounds. -/
  | fscale (f : Machine.FmtG)
  /-- FADDI (R283, opcode 0x3F). Adds an immediate, rounding under DYN. -/
  | faddi (f : Machine.FmtI)
  /-- FMULI (R283, opcode 0x40). Multiplies by an immediate, rounding under DYN. -/
  | fmuli (f : Machine.FmtI)
  /-- FEXP2 (R284, opcode 0x46). Delivers what DSINK of DEXP2 of DSRC would deliver. -/
  | fexp2 (f : Machine.FmtG)
  /-- RED (R286, opcode 0x41). Combines the 32 lanes in the fixed tree. -/
  | red (f : Machine.FmtG)
  /-- PFX (R286, opcode 0x42). Delivers inclusive prefixes of the lanes in a chain. -/
  | pfx (f : Machine.FmtG)
  /-- LANE (R287, opcode 0x43). Delivers one lane of a vector as a word. -/
  | lane (f : Machine.FmtG)
  /-- VINS (R287, opcode 0x44). Replaces one lane of a vector. -/
  | vins (f : Machine.FmtG)
  /-- VIDX (R287, opcode 0x45). Builds an index vector from a start and stride. -/
  | vidx (f : Machine.FmtG)
  /-- DSRC (R293, opcode 0x50). Converts word elements to a digit element group. -/
  | dsrc (f : Machine.FmtG)
  /-- DSINK (R294, opcode 0x51). Converts a digit element group to a word or vector by rounding. -/
  | dsink (f : Machine.FmtG)
  /-- DADD (R295, opcode 0x52). Online digit addition. -/
  | dadd (f : Machine.FmtG)
  /-- DSUB (R295, opcode 0x53). Online digit subtraction. -/
  | dsub (f : Machine.FmtG)
  /-- DMUL (R295, opcode 0x54). Online digit multiplication. -/
  | dmul (f : Machine.FmtG)
  /-- DDIV (R295, opcode 0x55). Online digit division by a word divisor. -/
  | ddiv (f : Machine.FmtG)
  /-- DSQRT (R295, opcode 0x56). Online digit square root. -/
  | dsqrt (f : Machine.FmtG)
  /-- DFMA (R295, opcode 0x57). Online digit fused multiply-add. -/
  | dfma (f : Machine.FmtG)
  /-- DRELU (R297, opcode 0x58). Online rectifier that kills negative lanes. -/
  | drelu (f : Machine.FmtG)
  /-- DMAX (R297, opcode 0x59). Online maximum that kills the loser. -/
  | dmax (f : Machine.FmtG)
  /-- DMIN (R297, opcode 0x5A). Online minimum that kills the loser. -/
  | dmin (f : Machine.FmtG)
  /-- DTHR (R297, opcode 0x5B). Online threshold that fills lanes below theta. -/
  | dthr (f : Machine.FmtG)
  /-- DEXP2 (R196, opcode 0x5C). Online base-2 exponential. -/
  | dexp2 (f : Machine.FmtG)
  /-- DACC (R298, opcode 0x5D). Sums the element groups of one fibre lane by lane. -/
  | dacc (f : Machine.FmtG)
  /-- DRED (R299, opcode 0x5E). Reduces one fibre to one value in every lane. -/
  | dred (f : Machine.FmtG)
  /-- DSCL (R296, opcode 0x5F). Scales a digit stream by 2^s. -/
  | dscl (f : Machine.FmtG)
  /-- TLOAD (R338, opcode 0x60). Fills T1 from an AFFINE rank-2 record as a class-tagged read. -/
  | tload (f : Machine.FmtT)
  /-- TSWAP (R339, opcode 0x61). Exchanges T0 and T1 with their tags once earlier loads and rows are done. -/
  | tswap (f : Machine.FmtT)
  /-- MMROW (R340, opcode 0x62). Adds one A row against T0 into an accumulator, elided where R98 allows. -/
  | mmrow (f : Machine.FmtT)
  /-- MMOUT (R341, opcode 0x63). Converts an accumulator's column records to two vectors. -/
  | mmout (f : Machine.FmtT)
  /-- MMZERO (R342, opcode 0x64). Zeroes the accumulators selected by MASK. -/
  | mmzero (f : Machine.FmtT)
  /-- TDIR (R94, opcode 0x65). Returns the directory entry of a tile. -/
  | tdir (f : Machine.FmtT)
  /-- TCLASS (R93, opcode 0x66). Judges a tile and sets its tightest directory entry. -/
  | tclass (f : Machine.FmtT)
  /-- TFILL (R92, opcode 0x67). Writes one value to every element of a directory tile and sets its entry. -/
  | tfill (f : Machine.FmtT)
  /-- SHAPE (R333, opcode 0x68). Writes one word of a shape record at commit. -/
  | shape (f : Machine.FmtT)
  /-- SHAPEQ (R333, opcode 0x69). Reads one word of a shape record. -/
  | shapeq (f : Machine.FmtT)
  /-- SBIND (R347, opcode 0x70). Binds a stream-port read or write pattern to a memory port. -/
  | sbind (f : Machine.FmtT)
  /-- SBAR (R348, opcode 0x71). Completes when every earlier command at its port has completed. -/
  | sbar (f : Machine.FmtT)
  /-- SCAN (R349, opcode 0x72). Expands each coordinate token into one fibre. -/
  | scan (f : Machine.FmtT)
  /-- ISECT (R350, opcode 0x73). Intersects two coordinate streams. -/
  | isect (f : Machine.FmtT)
  /-- UNION (R350, opcode 0x74). Unites two coordinate streams. -/
  | unionS (f : Machine.FmtT)
  /-- REPEAT (R351, opcode 0x75). Repeats a value for every token of a fibre. -/
  | repeatS (f : Machine.FmtT)
  /-- SACC (R351, opcode 0x76). Accumulates coordinate-value pairs in a sparse workspace and flushes it. -/
  | sacc (f : Machine.FmtT)
  /-- GATHER (R351, opcode 0x77). Reads an element for each coordinate. -/
  | gather (f : Machine.FmtT)
  /-- SCATTER (R351, opcode 0x78). Writes each value to its coordinate. -/
  | scatter (f : Machine.FmtT)
  /-- SCATA (R351, opcode 0x79). Performs an atomic at each coordinate. -/
  | scata (f : Machine.FmtT)
  /-- LD (R310, opcode 0x80). Loads one element. -/
  | ld (f : Machine.FmtM)
  /-- ST (R310, opcode 0x81). Stores one element, performing at commit. -/
  | st (f : Machine.FmtM)
  /-- LDV (R310, opcode 0x82). Loads 32 consecutive elements as a vector. -/
  | ldv (f : Machine.FmtM)
  /-- STV (R310, opcode 0x83). Stores 32 elements. -/
  | stv (f : Machine.FmtM)
  /-- LDW (R311, opcode 0x84). Loads, waiting on FILLTRK words until full. -/
  | ldw (f : Machine.FmtM)
  /-- STF (R311, opcode 0x85). Stores 8 bytes and fills presence. -/
  | stf (f : Machine.FmtM)
  /-- CLR (R312, opcode 0x86). Empties the presence bits of a range at commit. -/
  | clr (f : Machine.FmtM)
  /-- AADD (R313, opcode 0x87). Atomic add returning the old value. -/
  | aadd (f : Machine.FmtM)
  /-- AMIN (R313, opcode 0x88). Atomic minimum. -/
  | amin (f : Machine.FmtM)
  /-- AMAX (R313, opcode 0x89). Atomic maximum. -/
  | amax (f : Machine.FmtM)
  /-- AAND (R313, opcode 0x8A). Atomic and. -/
  | aand (f : Machine.FmtM)
  /-- AOR (R313, opcode 0x8B). Atomic or. -/
  | aor (f : Machine.FmtM)
  /-- AXOR (R313, opcode 0x8C). Atomic exclusive or. -/
  | axor (f : Machine.FmtM)
  /-- ASWP (R313, opcode 0x8D). Atomic swap. -/
  | aswp (f : Machine.FmtM)
  /-- ACAS (R313, opcode 0x8E). Atomic compare-and-swap on encodings. -/
  | acas (f : Machine.FmtM)
  /-- AFADD (R314, opcode 0x8F). Atomic float add rounded under CTX.RMODE. -/
  | afadd (f : Machine.FmtM)
  /-- FENCE (R315, opcode 0x90). Orders the task's accesses, optionally passing its L token. -/
  | fence (f : Machine.FmtM)
  /-- MWAIT (R316, opcode 0x91). Waits until a memory element is at least a bound. -/
  | mwait (f : Machine.FmtM)
  /-- PREF (R317, opcode 0x92). Brings a line toward the die, dropped on any failure. -/
  | pref (f : Machine.FmtM)
  /-- WBACK (R318, opcode 0x93). Writes back dirty banked bytes of a range. -/
  | wback (f : Machine.FmtM)
  /-- INVAL (R318, opcode 0x94). Writes back and invalidates banked and remote copies of a range. -/
  | inval (f : Machine.FmtM)
  /-- RPUT (R61, opcode 0x95). Writes data to the tail slot of a ring, waiting while FREE is 0. -/
  | rput (f : Machine.FmtM)
  /-- RGET (R61, opcode 0x96). Returns the head slot of a ring, waiting while FILLED is 0. -/
  | rget (f : Machine.FmtM)
  /-- RFREE (R62, opcode 0x97). Frees held ring slots and sends a notice. -/
  | rfree (f : Machine.FmtM)
  /-- RSTAT (R63, opcode 0x98). Returns a ring's status word. -/
  | rstat (f : Machine.FmtM)
  /-- BR (R264, opcode 0xA0). Exit to the successor block at OFF. -/
  | br (f : Machine.FmtC)
  /-- BRI (R265, opcode 0xA1). Exit to the block address in L. -/
  | bri (f : Machine.FmtC)
  /-- CALL (R266, opcode 0xA2). Exit to a callee, moving the register window. -/
  | call (f : Machine.FmtC)
  /-- CALLI (R266, opcode 0xA3). Indirect call to the block address in L. -/
  | calli (f : Machine.FmtC)
  /-- RET (R267, opcode 0xA4). Exit that moves the window back and runs the block at L. -/
  | ret (f : Machine.FmtC)
  /-- SPAWN (R271, opcode 0xA5). Takes a colour from the region's pool and sends its number. -/
  | spawn (f : Machine.FmtC)
  /-- RETC (R272, opcode 0xA6). Sends a return token, ends the task and frees its colour at commit. -/
  | retc (f : Machine.FmtC)
  /-- HALT (R268, opcode 0xA7). Exit that ends the activation and makes the task IDLE. -/
  | halt (f : Machine.FmtC)
  /-- YIELD (R264, opcode 0xA8). Exit to OFF that gives the issue turn to another colour. -/
  | yield (f : Machine.FmtC)
  /-- WAYPT (R269, opcode 0xA9). Exit that takes a waypoint in a logged context. -/
  | waypt (f : Machine.FmtC)
  /-- TRAP (R270, opcode 0xAA). Exit that commits and then halts the task with a TRAP fault. -/
  | trap (f : Machine.FmtC)
  /-- BRK (R270, opcode 0xAB). Stops the task with class BRK, keeping its window. -/
  | brk (f : Machine.FmtC)
  /-- BARW (R325, opcode 0xB0). Arrives at a barrier and waits for the phase, receiving the combined value. -/
  | barw (f : Machine.FmtS)
  /-- BARA (R326, opcode 0xB1). Arrives at a barrier without waiting and returns a ticket. -/
  | bara (f : Machine.FmtS)
  /-- BART (R326, opcode 0xB2). Tests or waits for completion of a ticket's phase. -/
  | bart (f : Machine.FmtS)
  /-- SEMW (R328, opcode 0xB3). Waits until a semaphore word is at least a value. -/
  | semw (f : Machine.FmtS)
  /-- SEMA (R328, opcode 0xB4). Adds to a semaphore as a release RMW. -/
  | sema (f : Machine.FmtS)
  /-- SEMR (R328, opcode 0xB5). Reads a semaphore with acquire. -/
  | semr (f : Machine.FmtS)
  /-- EVT (R329, opcode 0xB6). Delivers a code and payload to the host or helm cores at commit. -/
  | evt (f : Machine.FmtS)
  /-- COPY (R356, opcode 0xC0). Captures a copy descriptor into a copy queue's open batch at commit. -/
  | copy (f : Machine.FmtT)
  /-- BATCH (R359, opcode 0xC1). Closes a queue's open batch. -/
  | batch (f : Machine.FmtT)
  /-- WAITB (R359, opcode 0xC2). Waits for every copy of the covered batches and returns a status. -/
  | waitb (f : Machine.FmtT)
  /-- LAUNCH (R366, opcode 0xC3). Reads, checks and captures a launch record at commit. -/
  | launch (f : Machine.FmtT)
  /-- SPLICE (R377, opcode 0xC4). Loads a successor chart into a region's cells for splicing. -/
  | splice (f : Machine.FmtT)
  /-- CANCEL_LAUNCH (R360, opcode 0xC5). CANCEL with KIND 0 withdraws an unadmitted launch record. -/
  | cancelLaunch (f : Machine.FmtT)
  /-- CANCEL_COPIES (R360, opcode 0xC5). CANCEL with KIND 1 withdraws every unstarted copy of a queue. -/
  | cancelCopies (f : Machine.FmtT)
  /-- QSTAT (R380, opcode 0xC6). Returns the status of a launch queue. -/
  | qstat (f : Machine.FmtT)
  /-- CSTAT (R359, opcode 0xC7). Returns a copy queue's status word and clears its ERR bit. -/
  | cstat (f : Machine.FmtT)
  /-- CSRR (R362, opcode 0xD0). Reads a CSR when it fires. -/
  | csrr (f : Machine.FmtS)
  /-- CSRW (R362, opcode 0xD1). Writes a CSR at commit, including CSRs without a row of their own. -/
  | csrw (f : Machine.FmtS)
  /-- MAILR (R391, opcode 0xD2). Reads one word of a region's mailbox. -/
  | mailr (f : Machine.FmtS)
  /-- RESUME (R396, opcode 0xD3). Clears a mailbox and retries the recorded and latched faults. -/
  | resume (f : Machine.FmtS)
  /-- ABORT (R397, opcode 0xD4). Ends a region in one step. -/
  | abort (f : Machine.FmtS)
  /-- CHLOAD (R376, opcode 0xD5). Performs phase one of a load for a single-die record, leaving it LOADED. -/
  | chload (f : Machine.FmtS)
  /-- CHACT (R376, opcode 0xD6). Performs phase two of the load on a LOADED region. -/
  | chact (f : Machine.FmtS)
  /-- PREEMPT (R399, opcode 0xD7). Source-gates a region's inputs at its gate level. -/
  | preempt (f : Machine.FmtS)
  /-- CKSAVE (R404, opcode 0xD8). Writes the save area and releases the region's cells. -/
  | cksave (f : Machine.FmtS)
  /-- CKREST (R405, opcode 0xD9). Restores a save area into a LOADED region and activates it. -/
  | ckrest (f : Machine.FmtS)
  /-- TLBI (R51, opcode 0xDA). Invalidates translations at die or pkg scope by mode. -/
  | tlbi (f : Machine.FmtS)
  /-- ALMR (R453, opcode 0xDB). Reads one word of an almanac entry. -/
  | almr (f : Machine.FmtS)
  /-- ALMW (R453, opcode 0xDC). Appends one almanac entry at commit. -/
  | almw (f : Machine.FmtS)
  /-- RECK_RDBUDGET (R383, opcode 0xDD). Reads COMMITTED and BUDGET. -/
  | reckRdbudget (f : Machine.FmtS)
  /-- RECK_WRBUDGET (R383, opcode 0xDD). Writes BUDGET at commit. -/
  | reckWrbudget (f : Machine.FmtS)
  /-- RECK_RDCTR (R383, opcode 0xDD). Reads one time-account counter of a region. -/
  | reckRdctr (f : Machine.FmtS)
  /-- SOUND (R433, opcode 0xDE). Starts a SOUNDING to the host. -/
  | sound (f : Machine.FmtS)
  /-- IDLE (R379, opcode 0xDF). Helm core waits for and delivers its oldest scheduler event. -/
  | idle (f : Machine.FmtS)
  /-- ATTEST (R443, opcode 0xE0). Writes a signed attestation report. -/
  | attest (f : Machine.FmtS)
  /-- TOKEN_ARRIVAL_ACTIVATE (R156). A token of a mapped colour reaches an IDLE task, which becomes ACTIVE and fetches its entry block. -/
  | tokenArrivalActivate (cell t : Nat)
  /-- BLOCK_COMMIT (R159). A quiescent firing block commits its registers, stores, channel tokens and exit, or faults. -/
  | blockCommit (a : Machine.Agent)
  /-- CIRCUIT_FORWARD (R166). A router forwards a token along a circuit, including multicast. -/
  | circuitForward (cell cctx cid : Nat)
  /-- ROUTER_STEER (R166). A steer pairs data with a predicate and sends it to one arm. -/
  | routerSteer (cell cctx cid : Nat)
  /-- ROUTER_MERGE (R166). A merge forwards the head of the arm its predicate selects. -/
  | routerMerge (cell cctx cid : Nat)
  /-- ROUTER_NDMERGE (R166). An ndmerge forwards whichever arm's head arrives first. -/
  | routerNdmerge (cell cctx cid : Nat) (right : Bool)
  /-- ROUTER_CARRY (R166). A carry forwards its initial or back-edge token by its control. -/
  | routerCarry (cell cctx cid : Nat)
  /-- DIGIT_STEP (R193). A digit operator takes an input digit and emits its next output digit. -/
  | digitStep (a : Machine.Agent) (slot : Nat)
  /-- KILL_MESSAGE (R201). A kill or terminate reaches a producer, which may stop the lane and forward a message. -/
  | killMessage (n : Nat)
  /-- STREAM_TOKEN (R345). A token reaches a running stream instruction's field and is processed. -/
  | streamToken (a : Machine.Agent) (slot : Nat)
  /-- STREAM_COMMAND_START (R168). A queued stream command enters the scoreboard and begins once its overlaps and barriers clear. -/
  | streamCommandStart (port cmd : Nat)
  /-- STREAM_COMMAND_ELEMENT (R347). A running stream-port command reads or writes its next element. -/
  | streamCommandElement (port cmd : Nat)
  /-- HELM_SBIND_ACTIVATION (R471). A helm SBIND waiting for a chart enters the scoreboard when a chart is activated in its context. -/
  | helmSbindActivation (port cmd : Nat)
  /-- MATRIX_ROW_ADD (R340). The matrix unit adds a row block into an accumulator. -/
  | matrixRowAdd (a : Machine.Agent) (slot : Nat)
  /-- TLOAD_COMPLETE (R338). The background fetch of a TLOAD finishes loading T1. -/
  | tloadComplete (cell : Nat)
  /-- HOME_ACCESS (R70). An access arrives at its home slice, bank or tile and is performed in arrival order. -/
  | homeAccess (acc unit : Nat)
  /-- CLAIM_RESOLVE (R125). A claim resolves and the waiting claims are judged again. -/
  | claimResolve (w : Nat)
  /-- HELD_READ_RELEASE (R74). A read held on an ONCE or FILLTRK word returns once the word is full. -/
  | heldReadRelease (acc unit : Nat)
  /-- MWAIT_EVALUATE (R316). A held MWAIT or SEMW is evaluated again after a write to its bytes. -/
  | mwaitEvaluate (acc : Nat)
  /-- SLICE_RETRY (R74). A request returned by a full slice table is sent again after 64 cycles. -/
  | sliceRetry (acc unit : Nat)
  /-- RING_WAIT_RESUME (R61). A waiting RPUT or RGET proceeds once its ring has room or data. -/
  | ringWaitResume (acc : Nat)
  /-- LOG_HELD_WRITE (R138). A write held for a full sub-log appends and performs once room exists. -/
  | logHeldWrite (acc unit : Nat)
  /-- BANK_FILL (R69). A fill from home arrives at a cell cache bank and releases waiting loads. -/
  | bankFill (cell tile line : Nat)
  /-- RDC_FILL (R123). A remote-data cache fill arrives with pending writes laid over it. -/
  | rdcFill (die line : Nat)
  /-- WALK_COMPLETE (R39). A table walk finishes and installs or faults the translation. -/
  | walkComplete (acc unit : Nat)
  /-- TLBI_COMPLETE (R52). TLBI's completion condition holds and it sends its token. -/
  | tlbiComplete (a : Machine.Agent) (slot : Nat)
  /-- SPAWN_GRANT (R271). The pool grants a colour to a waiting SPAWN. -/
  | spawnGrant (region : Nat)
  /-- BARRIER_PHASE_COMPLETE (R324). A barrier phase completes at its N-th arrival and releases its waiters. -/
  | barrierPhaseComplete (n : Nat)
  /-- EVT_DELIVER (R329). A commit waiting for an EVT destination delivers once it can accept. -/
  | evtDeliver (a : Machine.Agent)
  /-- QUEUE_ROOM_CAPTURE (R366). A LAUNCH or COPY waiting on a full queue is captured once room exists. -/
  | queueRoomCapture (a : Machine.Agent)
  /-- COPY_START (R356). An engine starts the next copy of a queue. -/
  | copyStart (q : Nat)
  /-- COPY_CHUNK (R358). A 4 KiB chunk performs and EXPECT is advanced. -/
  | copyChunk (q n : Nat)
  /-- COPY_STAMP (R358). A copy writes its stamp last, or ends failed. -/
  | copyStamp (q n : Nat)
  /-- CONDITION_SATISFIED (R369). A launch condition's held read is satisfied; the record may become READY. -/
  | conditionSatisfied (rec cond : Nat)
  /-- ADMISSION_DECISION (R370). The die scheduler makes one admission decision every 64 cycles. -/
  | admissionDecision (sched : Nat)
  /-- GANG_RESERVATION (R373). The package scheduler requests or receives a die reservation for a gang. -/
  | gangReservation (die : Nat)
  /-- LOAD_COMMIT (R375). Phase one of a load completes its checks and activation commits on every cell. -/
  | loadCommit (rec : Nat)
  /-- REGION_COMPLETE (R378). A complete region writes back banks, adds its semaphore, releases resources and posts DONE. -/
  | regionComplete (region : Nat)
  /-- REGION_STALLED (R175). Tokens present and no movement for the stall limit raise REGION_STALLED. -/
  | regionStalled (region : Nat)
  /-- ENERGY_WINDOW (R382). At the end of a 1 ms window the throttle level may change and THROTTLE is posted. -/
  | energyWindow (region : Nat)
  /-- SPLICE_SWITCHOVER (R171). A cell switches from predecessor to successor once its conditions hold. -/
  | spliceSwitchover (cell cctx : Nat)
  /-- GATED_QUIESCENCE (R400). After gating the region reaches quiescence and the save form is settled as quiescent. -/
  | gatedQuiescence (region : Nat)
  /-- QBOUND_EXPIRY (R400). The quiescence bound expires and the full-save form is taken. -/
  | qboundExpiry (region : Nat)
  /-- WAYPOINT_QUIESCENCE (R136). A gated logged context reaches quiescence and the waypoint is written. -/
  | waypointQuiescence (region : Nat)
  /-- HANDLER_NOTIFY (R393). A notification is delivered to the handler entry or rank-7 firmware once its queue has room. -/
  | handlerNotify (region : Nat)
  /-- CELL_CLOCK_GATE (R408). A cell's units stop their clock after 16 idle cycles. -/
  | cellClockGate (cell : Nat)
  /-- CELL_WAKE (R408). A token arriving at a gated cell wakes its units. -/
  | cellWake (cell : Nat)
  /-- RESET (R449). At reset io0 verifies its firmware, reads the almanac and each die applies retirements. -/
  | reset
  /-- FUNCTION_READY (R449). A function passes its self-test and reports ready. -/
  | functionReady (fn : Nat) (pass : Bool)
  /-- HELM_START (R177). A helm core whose ready bit is set becomes ACTIVE on its entry block. -/
  | helmStart (core : Nat)
  /-- FUNCTION_FAILURE (R450). A function fails after ready and clears its ready bit until reset. -/
  | functionFailure (fn : Nat)
  /-- ALMW_DURABLE (R453). An appended almanac entry becomes durable and ALMW sends DONE. -/
  | almwDurable
  /-- HOST_MSG_FRAME (R429). The io0 agent judges a MSG frame and writes its messages to the ring, answering ACK or NAK. -/
  | hostMsgFrame (bytes : List Byte)
  /-- SNDREQ (R433). A host SNDREQ frame starts or joins a SOUNDING. -/
  | sndreq (bytes : List Byte)
  /-- DBG_FRAME (R432). A DBG frame's operations run on a debug session's registers and a DBGRSP is returned. -/
  | dbgFrame (bytes : List Byte)
  /-- DBG_WAIT_OP (R432). A DBG operation with WAIT runs once BUSY clears. -/
  | dbgWaitOp (session : Nat)
  /-- IRQ_FRAME (R431). The agent sends one IRQ frame for a queued interrupt. -/
  | irqFrame
  /-- MSG_LAUNCH (R430). The command program performs a LAUNCH message. -/
  | msgLaunch
  /-- MSG_COPY (R430). The command program performs a COPY message. -/
  | msgCopy
  /-- MSG_WAITB (R430). The command program performs a WAITB message. -/
  | msgWaitb
  /-- MSG_WRITE (R430). The command program performs physical writes. -/
  | msgWrite
  /-- MSG_READ (R430). The command program performs physical reads and returns the bytes. -/
  | msgRead
  /-- KEYLOAD (R444). Decapsulates a key blob and loads a key table entry. -/
  | keyload
  /-- KEYREL (R444). Erases a key table entry. -/
  | keyrel
  /-- PODCFG (R438). Reads a new pod table of plane masks. -/
  | podcfg
  /-- MSG_ATTEST (R430). The command program performs an ATTEST message. -/
  | msgAttest
  /-- POD_ACCESS_RECEIVE (R437). The pod-port agent performs a received remote access and acknowledges it. -/
  | podAccessReceive (kind pa size data : Nat)
  /-- POD_ACK (R437). An acknowledgement arrives and the remote access performs at the sending pod port. -/
  | podAck (acc unit data : Nat)
  /-- PLANE_TIMEOUT (R437). A plane without acknowledgement for 2^20 cycles is removed and the access resent. -/
  | planeTimeout (plane : Nat)
  /-- ULCMD_EXTEND (R139). PKG.ULCMD EXTEND rereads a die's NSEG for a log. -/
  | ulcmdExtend (w : Word)
  /-- ULCMD_DISCARD (R139). PKG.ULCMD DISCARD discards windows older than WP. -/
  | ulcmdDiscard (w : Word)
  /-- ACCREG (R419). Binnacle reads or writes one register of a halted region. -/
  | accreg (session : Nat)
  /-- ACCMEM (R412). Binnacle reads or writes one aligned memory word. -/
  | accmem (session : Nat)
  /-- HALTR (R414). Sets the debug halt and stops every block engine of the region. -/
  | haltr (session : Nat)
  /-- HALTR_QUIESCENT (R414). HALTR completes when the quiescence tree reports no movement. -/
  | haltrQuiescent (session : Nat)
  /-- FWD (R143). Resumes a halted context, replaying where replay is active. -/
  | fwd (session : Nat)
  /-- FSTEP (R415). Runs forward to a precise stop k firings later. -/
  | fstep (session : Nat)
  /-- BACK (R141). Restores a halted logged context to waypoint n. -/
  | back (session : Nat)
  /-- BSTEP (R142). Returns the context to just before a firing k in the past. -/
  | bstep (session : Nat)
  /-- UNSEAL (R424). Compares a debug token with the owner's digest to unseal a region. -/
  | unseal (session : Nat)
  /-- SEAL (R424). Seals a region again for the session. -/
  | seal (session : Nat)
  /-- STATR (R414). Returns the region's debug status word. -/
  | statr (session : Nat)
  /-- CMDERR_CLEAR (R410). Writing 1s to ABSTRACTCS clears CMDERR. -/
  | cmderrClear (session : Nat) (v : Word)
  /-- DEBUG_REGISTER_WRITE (R410). A write to a debug register without a row of its own. -/
  | debugRegisterWrite (session reg : Nat) (v : Word)
  /-- TRACE_WINDOW (R421). At the end of each 1,024-cycle window KILL and ELIDE records are written. -/
  | traceWindow (region : Nat)
  /-- TRACE_SAMPLE (R420). Every 2^SPER cycles a SAMPLE record is written. -/
  | traceSample (region : Nat)
  /-- CELL_POWER_GATE (R408). A cell that holds no configuration context is power-gated, losing its tile bytes and clearing its tile tags. -/
  | cellPowerGate (cell : Nat)
deriving DecidableEq, Repr

end Sys2Proof
end

