-- ==== Sys2Proof/Machine/State.lean ====
section
/-! DEFINITION. The state of the package as plain data: everything the spec gives the machine, the accesses, walks,
copies and launches in progress, and the model's own agenda of what happens next. INVENTORY.md lists each piece with
the rule that names it. Cells are keyed by 256 * die + physical cell, ports by 64 * die + port number, regions by
65536 * die + RID, tiles of memory by PA / 4096, lines by PA / 128 and words by PA / 8. -/

namespace Sys2Proof.Machine

/-- Why the machine stops. -/
inductive Fault where
  /-- Raised by the issue step when the block store of the agent holds, in the slot chosen, a word that the checker
  of R229 rejects. No loader puts such a word there (R228), so no run from a checked store reaches it. Safe: the
  spec says that no rejected word ever executes. -/
  | rejectedWord
deriving DecidableEq, Repr

/-- Why the model gives no meaning. -/
inductive Refusal where
  /-- The instruction of this mnemonic has no meaning in the model yet. Safe: nothing can be proved of it. -/
  | notModelled (mnemonic : String)
deriving DecidableEq, Repr

/-! ## Tokens and windows -/

/-- TKIND of a token's tag (R155). -/
inductive TKind where | word | vector | digit | head | scale | null | splice
deriving DecidableEq, Repr

/-- A token: its tag and its payload (R155). `stop` is 0 for no stop token and k for Sk. A head that a digit producer sent on a channel
carries its reverse wire (R201), as the agent, block number and slot of that producer: no instruction reads it. -/
structure Token where
  kind : TKind
  stop : Nat
  color : Nat
  payload : Payload
  origin : Option (Agent × Nat × Nat) := none
  /-- Width of a vector token's lanes in bits, 0 for 64 (R155). -/
  width : Nat := 0
deriving DecidableEq, Repr

/-- A token at an operand field, usable from the cycle `at0` on (R241); `src` is one more than the slot that sent it, 0
where no slot did. -/
structure Arrival where
  tok : Token
  at0 : Nat
  src : Nat := 0
deriving DecidableEq, Repr

/-- An operand field in a block attempt: whether it has received its token, and the tokens it holds, oldest first;
more than one only in a digit or stream field (R158, R289, R345). `skip` counts tokens that a stream field consumed in
an earlier attempt and that its block's other instructions make again (R353); in a CHL digit field it counts the tokens that the field
had kept when the attempt began (R301). -/
structure FieldSt where
  got : Bool
  q : List Arrival
  skip : Nat
deriving DecidableEq, Repr

/-- How far an instruction of a block attempt has come (R158, R239, R289, R345): waiting to fire; fired; fired as a
null; fired as a stop pass-through; unable to fire after a predicate mismatch; waiting for an answer of memory, of
a network or of another unit; running in an engine. -/
inductive SlotSt where | waiting | fired | nulled | passed | dead | pending | running
deriving DecidableEq, Repr

/-- A 128-bit accumulator record (R206), also kept per lane by DACC and DRED (R298). -/
abbrev AccRec := BitVec 128

/-- A digit operator at work (R191, R193, R201, R288-R301), or a MOV of a group (R243). The lists `heads`, `digs` and
`endIn` go by the fields L, R and X: the head, the digit tokens read, and the lanes the operator has ended; `endOut`
and `killOut` go by the targets TA and TB: the lanes a target has ended, and those it ended by a kill of the
operator's own group. `word` is a word operand, `outHead` the head sent, `sent` the digits sent, `decided` the lanes
decided. DACC and DRED keep their records, DRED's exact extremum (class, significand, exponent), whether a group has
come, and the level of the stop token that ended the fibre. `srcs` names the sender of each field's group. -/
structure DigEng where
  heads : List (Option Payload)
  digs : List (List Payload)
  word : Option Token
  endIn : List Nat
  endOut : List Nat
  killOut : List Nat
  outHead : Option Payload
  sent : Nat
  decided : Nat
  recs : List AccRec
  best : Option (Nat × Int × Int)
  begun : Bool
  stop : Nat
  pos : Nat
  srcs : List Nat
deriving DecidableEq, Repr

/-- A stream engine or a row of the matrix unit at work (R340, R345-R351): the record read at the firing, a value or
scale token held, whether a fibre is pending, position and end of an expansion and its reference, the ordinal, the
occupied workspace elements, the level of a flush under way, lanes gathered, the fields that have consumed their last
stop, the access it waits for, whether it holds at a failing element or for log room, and the row's tag so far. -/
structure StrEng where
  pat : List Word
  cur : Option Token
  pend : Bool
  i : Nat
  hi : Nat
  ref : Nat
  ord : Nat
  occ : List Nat
  flush : Option Nat
  vals : List Nat
  acc : Option Nat
  held : Bool
  logHeld : Bool
  tag : Option Word
  special : Bool
  again : Bool
  /-- A GATHER has met an ONCE page, and is an acquire from then on (R109). -/
  once : Bool := false
deriving DecidableEq, Repr

/-- The unit an instruction holds while it runs. -/
inductive Engine where
  | none
  | digit (e : DigEng)
  | stream (e : StrEng)
  | row (d : DigEng) (e : StrEng)
deriving DecidableEq, Repr

/-- A slot of a block attempt. -/
structure Slot where
  l : FieldSt
  r : FieldSt
  p : FieldSt
  x : FieldSt
  st : SlotSt
  eng : Engine
  ord : Nat
deriving DecidableEq, Repr

/-- A channel token that leaves at commit: the channel, the token, when its instruction fired and its slot (R159). -/
structure OutTok where
  chan : Nat
  tok : Token
  fired : Nat
  slot : Nat
  /-- The pool colour that returns when the token leaves: a RETC's (R163). -/
  frees : Option Nat := none
deriving DecidableEq, Repr

/-- The exit that fired (R262-R270): its slot and opcode, the successor's block address and, for TRAP, its code. -/
structure ExitRec where
  slot : Nat
  op : Nat
  next : Nat
  code : Nat
deriving DecidableEq, Repr

/-- The record of a fault (R385-R390), apart from what the region adds. -/
structure FaultRec where
  fclass : Nat
  detail : Nat
  strm : Bool
  spl : Bool
  cctx : Nat
  task : Nat
  slot : Nat
  baddr : Nat
  die : Nat
  pcell : Nat
  color : Nat
  config : Word
  addr : Word
  node : Nat
  nidx : Nat
  idx : List Nat
  fx : List (Option Token)
  bseq : Nat
  cyc : Nat
  xinfo : Nat
  acc : Option Nat
  chart : Word
deriving DecidableEq, Repr

/-- What an instruction that takes effect at commit has reached (R334, R363, R395). -/
inductive OpSt where
  | waiting
  | begun (a b : Nat)
  | done (result : Word)
deriving DecidableEq, Repr

/-- A block in the window (R157-R161): the attempt's slots, register deliveries (none for a null), flags, channel
tokens, exit, tokens taken by IN for re-execution, results that stay performed (R108, R327, R335), operations that act
at commit, RMODE and G0 as they were at its start (R184, R185), and whether it executes again after a fault. -/
structure Win where
  baddr : Nat
  seq : Nat
  slots : List Slot
  regs : Table (Option Payload)
  flags : Nat
  outs : List OutTok
  exit : Option ExitRec
  taken : List (Nat × Token)
  kept : Table (List Token)
  keptFl : Table Nat
  ops : Table OpSt
  count : Nat
  rmode : Nat
  gen0 : Nat
  pnr : Bool
  stopped : Bool
  again : Bool
  /-- The records that operations at commit have read and found without fault (R366, R376, R377). -/
  recs : Table (List Word) := []
deriving DecidableEq, Repr

/-- States of a task context (R156). -/
inductive TaskSt where | unbound | idle | active | halted
deriving DecidableEq, Repr

/-- A task context (R156, R169, R170, R226, R240); a helm core has one (R177). -/
structure TaskCtx where
  st : TaskSt
  cctx : Nat
  entry : Nat
  regs : Vector Word 128
  vregs : Vector Payload 8
  depth : Nat
  spilled : Nat
  spill : Word
  rmode : Nat
  fflags : Nat
  color : Nat
  gen : Nat
  seed : Nat
  shapeb : Nat
  fired : Nat
  ich : List Nat
  och : List Nat
  win : Option Win
  succ : Option Nat
  after : Option Nat
  fault : Option FaultRec
  stopAt : Option Nat
  skip : Option Nat
deriving DecidableEq, Repr

/-! ## Cells -/

/-- State of a configuration context of a cell: free, loaded but inactive, or active (R151, R375). -/
inductive CctxSt where | free | loaded | active
deriving DecidableEq, Repr

/-- A configuration context of a cell (R34, R130, R151): its region, its CSRs, its block-store image, its router
entries, its task descriptors, tile descriptors and shape indices, the state of its router operators (R166, keyed
by CID: 1 for a carry in LOOP), the splice tokens its inputs have delivered, and whether one of its blocks fired. -/
structure CfgCtx where
  st : CctxSt
  region : Nat
  asid : Nat
  troot : Word
  dset : Word
  keyid : Nat
  ulog : Word
  blocks : List Word
  routes : List Word
  tiles : List Word
  colours : List Nat
  tdescs : List (List Word)
  shapes : List Nat
  opst : Table Nat
  splices : List Nat
  usesMat : Bool
  firedOnce : Bool
deriving DecidableEq, Repr

/-- A line of a cell cache bank (R67, R69): data, valid bytes, dirty bytes, poison, whether a fill is due, the access that
fetches it from another package, and the class and cause with which that package refused the fill. -/
structure BankLine where
  data : BitVec 1024
  valid : BitVec 128
  dirty : BitVec 128
  poison : Bool
  filling : Bool
  acc : Option Nat
  bad : Option (Nat × Nat) := none
deriving DecidableEq, Repr

/-- A memory tile (R56-R63): its descriptor while a chart owns it, its owner, its bytes, the tags of its last owner,
its ring counters, its bank lines keyed by VA / 128, its last-task tag (R145), and its poisoned lines as offset / 128
(R82). -/
structure Tile where
  desc : Word
  owner : Option Nat
  mem : List Host.Cell
  wasBuf : Bool
  tagged : Bool
  tagAsid : Nat
  tagKey : Nat
  filled : Nat
  held : Nat
  head : Nat
  lines : Table BankLine
  lastTask : Option Nat
  poison : List Nat
deriving DecidableEq, Repr

/-- One register of the matrix unit, T0 or T1 (R203, R205, R336): K, TY, tag (R86 layout), aligned elements keyed by
64 * k + c, the 2-bit class beside each in the same order (0 finite, 1 +inf, 2 -inf, 3 NaN), and
block exponents and NaN marks keyed by 64 * b + c. -/
structure MatReg where
  k : Nat
  ty : Ty
  tag : Word
  elems : Table Int
  cls : Table Nat
  bexp : Table Int
  bnan : List Nat
deriving DecidableEq, Repr

/-- A TLOAD whose fetch runs in the background (R336, R338), with the access to another package it waits for. -/
structure TloadRec where
  task : Nat
  slot : Nat
  seq : Nat
  f : FmtT
  pat : List Word
  off : Nat
  acc : Option Nat
  /-- A read of it that no link reaches, until a RESUME sends it again (R387). -/
  down : Bool := false
deriving DecidableEq, Repr

/-- The matrix unit (R336): owner context, T0, T1, a0-a3 (64 column records each, keyed by 64 n + c), the fetch under
way and the task whose row is being added. -/
structure Matrix where
  owner : Option Nat
  t0 : MatReg
  t1 : MatReg
  acc : Table AccRec
  load : Option TloadRec
  row : Option Nat
deriving DecidableEq, Repr

/-- A cell: four configuration contexts, colour map bytes keyed by colour, eight task contexts, six tiles, the router
input latches keyed by 64 * port + circuit with the cycle in which each token arrived (R166), the circuits delivered to the block engine keyed by circuit, the shape
table, the matrix unit, block numbering and issue state (R157, R162), ndmerge records (R145), and its clock and
power state (R408). -/
structure Cell where
  cctxs : Table CfgCtx
  cmap : Table Nat
  tasks : Table TaskCtx
  tiles : Table Tile
  latch : Table (List Token)
  latchAt : Table (List Nat)
  inbox : Table (List Arrival)
  chanOpen : List Nat
  shapes : Table (List Word)
  mat : Matrix
  seq : Nat
  turn : Nat
  run : Nat
  issues : Nat
  inCycle : Nat
  unitsUsed : List Nat
  ndm : Table (List Bool)
  lastBusy : Nat
  gated : Bool
  powered : Bool
deriving DecidableEq, Repr

/-- A helm core (R177): ready bit, block store, task context, scratch memory, HELM CSRs, issue state and entry block
with its CTX.SPILL, as the firmware image gives them; the report of its last rejected fill of a cell (R228, R231). -/
structure Helm where
  ready : Bool
  blocks : List Word
  entry : Nat
  spill : Word
  task : TaskCtx
  scratch : List Host.Cell
  csel : Word
  seq : Nat
  run : Nat
  issues : Nat
  inCycle : Nat
  unitsUsed : List Nat
  rejection : Option (Word × Word)
deriving DecidableEq, Repr

/-! ## Memory ports, translation and accesses -/

/-- Attributes a translation supplies (R37, R41). -/
structure Attr where
  conf : Nat
  tty : Nat
  track : Bool
  log : Bool
  bank : Bool
  kind : Nat
deriving DecidableEq, Repr

/-- A TLB entry (R45): page base VA / 2^size, log2 of the page size, ASID, G, the leaf. -/
structure TlbEntry where
  vpage : Nat
  size : Nat
  asid : Nat
  leaf : Word
deriving DecidableEq, Repr

/-- A stream command at a memory port (R168, R347, R348): SBIND or SBAR, for whom (`agent` issued it; cell, task and
context give colour, record and translation), its record, byte offset, footprint, state (0 in the scoreboard, 1
running, 2 stopped at a gate's boundary, 3 waiting for a chart), pattern counters, lanes done so far, the scale and stop
tokens due, the tiles that a class-tagged read has taken, each with its bytes and entry as they were then (R95), the fault or log room it holds for, and the access it waits for. -/
structure StreamCmd where
  id : Nat
  agent : Agent
  cell : Nat
  task : Nat
  cctx : Nat
  region : Nat
  slot : Nat
  seq : Nat
  baddr : Nat
  log : Bool
  isBar : Bool
  write : Bool
  circ : Nat
  color : Nat
  ty : Ty
  pat : List Word
  off : Nat
  lo : Int
  hi : Int
  st : Nat
  i0 : Nat
  i1 : Nat
  i2 : Nat
  buf : List Nat
  tag : Option Word
  tiles : Table (BitVec 32768 × Word)
  pendStop : Nat
  fault : Option FaultRec
  logHeld : Bool
  acc : Option Nat
  /-- The colour of the command's completion token, as it was when the command fired (R155). -/
  outCol : Nat := 0
  /-- The scale byte of the next row, where another package has answered it (R347). -/
  scale : Option Nat := none
deriving DecidableEq, Repr

/-- A memory port (R45, R168): TLB entries with the most recently used first, stream commands in arrival order, those
that wait for room, and the tokens that circuits have brought, keyed by circuit. -/
structure Port where
  tlb : List TlbEntry
  cmds : List StreamCmd
  waiting : List StreamCmd
  inq : Table (List Token)
deriving DecidableEq, Repr

/-- What a memory access does (R303, R328, R346): a read, a write, a read-modify-write, the release part of a FENCE, a
wait for a value, a ring operation, a change of presence bits, WBACK or INVAL over a range, or one element of an engine
that goes to another package. -/
inductive AKind where | read | write | rmw | fence | mwait | ring | presence | range | elem
deriving DecidableEq, Repr

/-- Where a part of an access stands: not issued; waiting for a walk; issued to its place; held there until a word is
full, a claim resolves or a condition holds; returned by a full table until a cycle; waiting for the pod on a plane
since a cycle; waiting for log room; performed; failed with a class and detail. -/
inductive UnitSt where
  | waiting | walking | issued | held | retry (until0 : Nat) | pod (plane since : Nat) | logHeld
  | performed | faulted (fclass detail : Nat)
deriving DecidableEq, Repr

/-- A part of an access that performs at one point: its first address, its size in bytes, how far it is, its physical
address and attributes, the value to write, the value read, and the port and TLB entry it was translated through (R52). -/
structure AUnit where
  va : Nat
  size : Nat
  st : UnitSt
  pa : Nat
  attr : Attr
  val : Nat
  old : Nat
  via : Option (Nat × TlbEntry)
deriving DecidableEq, Repr

/-- A memory access of a block in flight (R305-R328): who made it, its block, wave, slot, opcode, fields, operands
and parts. `wave` is none for an operation at the start of its block (R323, R334); `log` is the block's LOG bit;
`committed` says that a write may perform; `outs` are channel tokens that leave when a fence performs (R315); `born` is the cycle in
which its instruction fired. -/
structure Access where
  id : Nat
  agent : Agent
  seq : Nat
  baddr : Nat
  log : Bool
  wave : Option Nat
  slot : Nat
  op : Nat
  kind : AKind
  ty : Ty
  vec : Bool
  sc : Nat
  ord : Ord
  loc : Bool
  addr : Nat
  data : Payload
  exp : Nat
  committed : Bool
  outs : List OutTok
  units : List AUnit
  born : Nat := 0
deriving DecidableEq, Repr

/-- A claim on an ONCE word (R73): its holder's agent, block and access. -/
structure Claim where
  word : Nat
  agent : Agent
  seq : Nat
  acc : Nat
deriving DecidableEq, Repr

/-- A line of a remote-data cache (R71, R82, R123): generation of the request, data, whether the fill is still due, the
bytes the die has stored since the request, and whether the line came with a poison mark. -/
structure RdcLine where
  gen : Nat
  data : BitVec 1024
  filling : Bool
  laid : BitVec 128
  poison : Bool
deriving DecidableEq, Repr

/-- A kill or terminate on the reverse wire (R201): its producer with block number and slot, which name one element group as the sequence
number of R201 does, the producer's target it travels for (0 TA, 1 TB), lanes, the kill group (none for a terminate), and, where it
returns along a channel, the cell and circuit that received the group, which lead it to its target when it arrives. -/
structure KillMsg where
  agent : Agent
  slot : Nat
  seq : Nat
  target : Nat
  lanes : Nat
  kg : Option Nat
  rcv : Option (Nat × Nat)
deriving DecidableEq, Repr

/-- The arrivals of another package at an instance of pod scope: how many, and the result of the valued ones with its flags (R23,
R208). -/
structure PodArr where
  pkg : Nat
  count : Nat
  val : Option (Nat × Nat)
deriving DecidableEq, Repr

/-- A barrier instance (R324-R327): scope, scope instance, ASID, BID, phase counter, the N and operation of the phase,
its arrivals with the tokens of the valued ones, those of other packages, and the last completed phase's value and flags. -/
structure Barrier where
  sc : Nat
  inst : Nat
  asid : Nat
  bid : Nat
  ctr : Nat
  n : Nat
  rop : Nat
  vty : Nat
  arrivals : List (Agent × Option Token)
  others : List PodArr
  lastVal : Option Nat
  lastFlags : Nat
deriving DecidableEq, Repr

/-! ## Regions, schedulers and engines -/

/-- States of a record and of the region it becomes (R368), with those of ended ones (R378, R397). -/
inductive RegSt where
  | waiting | ready | reserved | loading | loaded | active | gating | saved | done | refused | cancelled | aborted
deriving DecidableEq, Repr

/-- Time-account counters (R384), index 0 to 15. -/
abbrev Counters := List Nat

/-- CFG values captured when a command is issued (R50); `phys` for a helm core. -/
structure Cfg where
  phys : Bool
  asid : Nat
  troot : Word
  dset : Word
  keyid : Nat
  priv : Bool
deriving DecidableEq, Repr

/-- A launch record (R365-R370) in or out of a queue: number, queue, sequence number, its 16 words, state, launcher's
CFG, conditions that have held, the regions made for it, the places granted (256 * die + 16 * row + column),
the predecessor of a splice, whether it comes back from SAVED, when it was admitted, the rejection report of its blocks
(R231), the detail of a fetch that failed (R42), and the access that fetches a remote image. -/
structure LRec where
  id : Nat
  qdie : Nat
  queue : Nat
  seq : Nat
  words : List Word
  st : RegSt
  cfg : Cfg
  held : List Nat
  regions : List Nat
  granted : List Nat
  stat : Nat
  pred : Option Nat
  fromSave : Bool
  admitted : Nat
  report : List Word
  detail : Nat
  acc : Option Nat
deriving DecidableEq, Repr

/-- The binnacle's cause of a halt (R414). -/
structure HitRec where
  kind : Nat
  num : Nat
  x : Nat
  y : Nat
  task : Nat
  fnum : Nat
  rk : Nat
deriving DecidableEq, Repr

/-- Trace control registers and the writer's position (R420, R421). -/
structure TraceSt where
  ctl : Word
  base : Word
  size : Word
  nf : Word
  wptr : Nat
  stat : Word
  lastCyc : Nat
  lastPos : Option Nat
  sampled : Option Nat
  kills : List Nat
  elided : Nat
  lost : Nat
deriving DecidableEq, Repr

/-- A pinned granule of a bank range (R65): the cell and tile of its bank, its VA and PA in 64 KiB units, its leaf's
attributes. -/
structure Pin where
  cell : Nat
  tile : Nat
  va : Nat
  pa : Nat
  attr : Attr
deriving DecidableEq, Repr

/-- A region (R151, R361, R368, R384-R401, R413-R420): its chart and rectangle, its launch parameters, its colour
pool with the requests of SPAWNs and the first cycle in which it may grant again, the start of its energy window, whether the scheduler pre-empts it, its mailbox and latched faults, its gate, its
debug and trace state, its time account; `energy` and `windowE` count in pJ. -/
structure Region where
  st : RegSt
  lrec : Nat
  rank : Nat
  rect : Nat
  col0 : Nat
  row0 : Nat
  w : Nat
  h : Nat
  cells : List (Nat × Nat)
  gang : List Nat
  chart : Word
  phys : Bool
  cfg : Cfg
  ulog : Word
  sg : Nat
  stall : Nat
  qbound : Nat
  cksize : Nat
  fedge : Nat
  pool : Nat
  poolHeld : Nat
  spawnQ : List (Agent × Nat × Nat)
  spawnAt : Nat
  prio : Nat
  pe : Bool
  share : Bool
  erate : Nat
  admitted : Nat
  activated : Nat
  savedCyc : Nat
  /-- When the time account of a complete region froze that waits for its semaphore's add (R378). -/
  closedAt : Option Nat
  everFired : Bool
  windowAt : Nat
  victim : Bool
  moved : Nat
  mail : Option FaultRec
  mailRst : Bool
  latched : List FaultRec
  fseq : Nat
  notifyWait : Bool
  gate : Bool
  gateStart : Nat
  settled : Bool
  full : Bool
  dh : Bool
  hit : HitRec
  bps : Table Word
  wps : Table Word
  trace : TraceSt
  cur : Counters
  prev : Counters
  fillCells : List Nat
  fillDone : Option Nat
  lastIn : Nat
  level : Nat
  energy : Nat
  windowE : Nat
  banks : Table Word
  pins : List Pin
  nodes : Table (List Word)
  digest : Nat
  unsealed : List Nat
  misses : Nat
  succ : Option Nat
  switched : List Nat
  saved : List Word
  /-- The cycle in which the mailbox took its record (R393). -/
  mailAt : Nat := 0
  /-- The agent whose CKSAVE or CKREST of the region is under way (R361). -/
  opBy : Option Agent := none
deriving DecidableEq, Repr

/-- A checkpoint or the part of a save area whose layout the spec does not give (R137, R403; log entry 13): whether it
is a full save; cells by rectangle, column and row, each with its configuration context; stream commands with their
ports; accesses of open blocks; kill messages; the regions. -/
structure Snap where
  full : Bool
  cells : List (Nat × Nat × Nat × Cell × CfgCtx)
  cmds : List (Nat × StreamCmd)
  accs : List Access
  kills : List KillMsg
  regions : List Region
deriving DecidableEq, Repr

/-- An entry of a die's handler table (R392, R393). -/
structure HEntry where
  region : Nat
  ncol : Nat
  queue : List Word
deriving DecidableEq, Repr

/-- A launch queue (R364, R380): next sequence number, status and number of the last record refused after capture. -/
structure LQueue where
  next : Nat
  lstat : Nat
  lseq : Nat
deriving DecidableEq, Repr

/-- A compute die (R49, R71, R80, R364, R370, R376, R379, R392): live and failed channels, retired cells and rows as
applied at bring-up, remote-data cache, handler table, event queue, scheduler state: next RID, passes and head of each
level (keys P and 64 + P), the cycle after the last decision, records that block their level, the gang whose reservation
is requested. Die 64 stands for io0. -/
structure Die where
  chans : Nat
  failed : Nat
  holes : List Nat
  rows : List Nat
  gen : Nat
  rdc : Table RdcLine
  handlers : Table HEntry
  lqs : Table LQueue
  events : List (Word × Word)
  evHeld : List (Word × Word)
  nextRid : Nat
  pass : Table Nat
  lastDecision : Nat
  /-- One above the cycle of the last CANCEL of a record in its queues (R374). -/
  cancelAt : Nat := 0
  blocked : List Nat
  request : Option Nat
deriving DecidableEq, Repr

/-- A copy of a copy queue (R356-R360): number in the queue, batch, issuer's CFG and log, descriptor words (none when it
could not be read), state (0 waiting, 1 running, 2 its stamp due, 3 ended), engine, destination bytes done, the stage
of its chunk (0 read, 1 write, 3 add to EXPECT), bytes of the chunk, bytes due to EXPECT, writes left, the
access to another package it waits for, the log it is held for, generator, the failure's detail, whether it was
withdrawn, whether replay stands for it, its result, the region whose task issued it (0 for none), and the LINK_DOWN it has raised
there (R389). -/
structure Copy where
  num : Nat
  batch : Nat
  cfg : Cfg
  ln : Nat
  desc : Option (List Word)
  st : Nat
  eng : Nat
  pos : Nat
  stage : Nat
  size : Nat
  due : Nat
  todo : List (Nat × Nat × Nat)
  acc : Option Nat
  held : Nat
  gen : Nat
  fail : Option Nat
  cancelled : Bool
  ghost : Bool
  result : Word
  region : Nat := 0
  down : Option FaultRec := none
deriving DecidableEq, Repr

/-- A copy queue (R356, R359): open batch, next number, copies in queue order, the ERR bit. -/
structure CopyQ where
  batch : Nat
  num : Nat
  copies : List Copy
  err : Bool
deriving DecidableEq, Repr

/-- A sub-log of one slice (R135, R139): head, tail, live entries, capacity in entries, the end of replay, and the capacity
that an EXTEND has made due. -/
structure SubLog where
  head : Nat
  tail : Nat
  count : Nat
  cap : Nat
  replayEnd : Nat
  stopped : Bool
  due : Nat
deriving DecidableEq, Repr

/-- An active log (R130-R148): its root, the key its areas lie under, policy, regions, sub-logs keyed by 64 * die + slice,
header values, replay state, the sub-logs whose room STALL waits for, and, beside the SYNC entries of the sub-logs, the flags and NULLs
that replay reproduces (R146; log entry 108). -/
structure ULog where
  root : Nat
  key : Nat
  policy : Nat
  regions : List Nat
  subs : Table SubLog
  newest : Nat
  oldest : Nat
  none0 : Bool
  hzv : Bool
  hzcause : Nat
  hzwp : Nat
  replay : Bool
  replayWp : Nat
  target : Option (Agent × Nat)
  wayWait : List Agent
  fulls : List Nat
  diverged : Bool
  notes : Table Nat
deriving DecidableEq, Repr

/-- A loaded key (R444). -/
structure KeyEntry where
  owner : Word
  xts : BitVec 512
  sealKey : BitVec 256
  digest : BitVec 256
  sctr : Nat
deriving DecidableEq, Repr

/-- A debug session of the hub (R409, R410, R432): BSEL and the data registers, ABSTRACTCS, COMMAND with the BSEL it was written
under, how far the command is, the access to another package it waits for, the operator word last read (R419), the stored FSEQ and
DBGRSP, the operations of the frame that is being run with what they have answered, and the frames behind it. -/
structure Session where
  bsel : Word
  data : List Word
  rstat : Nat
  busy : Bool
  cmderr : Nat
  command : Word
  sel : Word
  phase : Nat
  acc : Option Nat
  lastOp : Option (Nat × Word)
  fseq : Nat
  fseqOut : Nat
  rsp : List Byte
  ops : List (Word × Word)
  out : List Word
  frames : List (Nat × List (Word × Word))
  open0 : Bool
deriving DecidableEq, Repr

/-- An acknowledgement that a pod port has sent (R437): the access's kind and address, its result, its fault class or 0. -/
structure PodAck where
  kind : Nat
  pa : Nat
  data : Nat
  fclass : Nat
deriving DecidableEq, Repr

/-- The host port as the io0 agent keeps it (R425-R433): the interrupts that wait, the SOUNDING that is being sent with the
ring status it carries and those that wait for it, the access to another package that a message waits for, and the
frames sent to the host. -/
structure HostPort where
  ready : Bool
  fseqOut : Nat
  irqs : List (List Word)
  iseq : Nat
  snum : Nat
  sounding : Bool
  sndParts : List (List Byte)
  sndWait : List (Agent × Nat)
  carried : Nat
  msgAcc : Option Nat
  sent : List (List Byte)
deriving DecidableEq, Repr

/-- What the signed firmware image and the fuses hold (R440-R442): whether verification passes,
signing keys, REQSIGN, the helm programs (blocks, entry, CTX.SPILL), and the ring size. It is an input of the
package, kept across resets. -/
structure Image where
  verified : Bool
  keys : List Nat
  reqsign : Bool
  progs : Table (List Word × Nat × Word)
  clg2 : Nat
  digest : BitVec 256
  siteDigest : BitVec 256
  pkgNum : Nat
deriving DecidableEq, Repr

/-! ## The whole state -/

/-- Something that happens (the model's own, DESIGN CHOICE, log entry 1): a clock cycle passes, an agent issues an
instruction, an event of the hardware takes place, a soft error strikes a home line or a line of a memory tile, which the
ECC corrects or not (R82; log entry 97), or the arrivals of another package reach a barrier of pod scope, with ROP, VTY, result and
flags of the valued ones (R23; log entry 51). -/
inductive Happening where
  | tick
  | issue (a : Agent)
  | event (i : Instr)
  | homeError (pa : Nat) (corrected : Bool)
  | tileError (cell tile off : Nat) (corrected : Bool)
  | podArrival (pkg asid bid n count : Nat) (val : Option (Nat × Nat × Nat × Nat))
  | helmFill (core cell cctx : Nat) (blocks : List Word)
deriving DecidableEq, Repr, Inhabited

/-- For whom an instruction executes. -/
structure Locus where
  agent : Agent
  slot : Nat
deriving DecidableEq, Repr

/-- The whole machine: what the spec gives the package, its dies, cells, helm cores, ports and regions, and the model's own fields
`cycle`, `agenda`, `free`, `here`, `nextAcc`, `nextRec`, `lineRun` and `ringDone`. INVENTORY.md lists each with its rule. -/
structure State where
  cycle : Nat
  agenda : List Happening
  free : Nat
  here : Locus
  mem : List Host.Cell
  presence : List Nat
  poison : List Nat
  ktag : Table Nat
  entries : Table Word
  logown : Table Nat
  lineAgent : Table Nat
  cells : Table Cell
  helms : Table Helm
  ports : Table Port
  dies : Table Die
  regions : Table Region
  accs : List Access
  nextAcc : Nat
  claims : List Claim
  kills : List KillMsg
  barriers : List Barrier
  recs : List LRec
  nextRec : Nat
  copyqs : Table CopyQ
  logs : Table ULog
  images : Table Snap
  ulcmd : Word
  budget : Nat
  budgetDue : Option Nat
  pkgNum : Nat
  almanac : List (Word × Word)
  almPend : List (Agent × Nat × Word × Word)
  readyBits : List Nat
  failedBits : List Nat
  links : List Nat
  keys : Table KeyEntry
  podTable : List Nat
  planesOut : List Nat
  lastPlane : Nat
  podAcks : List PodAck
  sessions : Table Session
  host : HostPort
  image : Image
  leaf : Nat
  ekey : Nat
  softCount : Nat
  /-- How many accesses of logged contexts a line has had since its last ORDER, beside the records (R145; log entry 98). -/
  lineRun : Table Nat
  /-- The cycle in which an operation on a global ring's header last performed, and the rank of its agent (R321). -/
  ringDone : Table (Nat × Nat)
deriving DecidableEq, Repr

/-! ## Reset values -/

/-- A field that has received nothing. -/
def FieldSt.none : FieldSt := { got := false, q := [], skip := 0 }

/-- A register file of zeros (R177, R240). -/
def zeroRegs : Vector Word 128 := Vector.replicate 128 0
/-- Vector registers of zeros (R240). -/
def zeroVregs : Vector Payload 8 := Vector.replicate 8 0

/-- An unbound task context (R156); its registers and CSRs at their chart-load values (R226, R240). -/
def TaskCtx.fresh : TaskCtx :=
  { st := .unbound, cctx := 0, entry := 0, regs := zeroRegs, vregs := zeroVregs, depth := 0, spilled := 0, spill := 0
    rmode := 0, fflags := 0, color := 0, gen := 1, seed := 0, shapeb := 0, fired := 0, ich := [], och := []
    win := none, succ := none, after := none, fault := none, stopAt := none, skip := none }

/-- A free configuration context (R34, R130, R151). -/
def CfgCtx.fresh : CfgCtx :=
  { st := .free, region := 0, asid := 0, troot := 0, dset := 0, keyid := 0, ulog := 0, blocks := [], routes := []
    tiles := [], colours := [], tdescs := [], shapes := [], opst := [], splices := [], usesMat := false
    firedOnce := false }

/-- A tile in role NONE whose tags are cleared (R58). -/
def Tile.fresh : Tile :=
  { desc := 0, owner := none, mem := [], wasBuf := false, tagged := false, tagAsid := 0, tagKey := 0, filled := 0
    held := 0, head := 0, lines := [], lastTask := none, poison := [] }

/-- T0 and T1 at activation: zeros, K = 0, TY 0, tag GENERAL with NF 1 (R336). -/
def MatReg.fresh : MatReg :=
  { k := 0, ty := .i8, tag := 0xE000000000000000, elems := [], cls := [], bexp := [], bnan := [] }

/-- The matrix unit with no owner (R336). -/
def Matrix.fresh : Matrix :=
  { owner := none, t0 := .fresh, t1 := .fresh, acc := [], load := none, row := none }

/-- A cell that holds no chart (R151, R157, R162). -/
def Cell.fresh : Cell :=
  { cctxs := [], cmap := [], tasks := [], tiles := [], latch := [], latchAt := [], inbox := [], chanOpen := [], shapes := [], mat := .fresh, seq := 0
    turn := 0, run := 0, issues := 0, inCycle := 0, unitsUsed := [], ndm := [], lastBusy := 0, gated := false
    powered := true }

/-- A helm core before its ready bit is set (R177, R226). -/
def Helm.fresh : Helm :=
  { ready := false, blocks := [], entry := 0, spill := 0, task := .fresh, scratch := [], csel := 0, seq := 0, run := 0
    issues := 0, inCycle := 0, unitsUsed := [], rejection := none }

/-- A memory port with an empty TLB and scoreboard (R45, R168). -/
def Port.fresh : Port := { tlb := [], cmds := [], waiting := [], inq := [] }

/-- A compute die of an intact package before its fabric is ready (R79, R80, R376). -/
def Die.fresh : Die :=
  { chans := 0xFFFFFFFF, failed := 0, holes := [], rows := [], gen := 0, rdc := [], handlers := [], lqs := []
    events := [], evHeld := [], nextRid := 1, pass := [], lastDecision := 0, blocked := [], request := none }

/-- A launch queue at bring-up (R366, R380). -/
def LQueue.fresh : LQueue := { next := 0, lstat := 0, lseq := 0 }

/-- A copy queue at bring-up (R359). -/
def CopyQ.fresh : CopyQ := { batch := 0, num := 0, copies := [], err := false }

/-- A sub-log that holds no entry (R135). -/
def SubLog.fresh : SubLog := { head := 0, tail := 0, count := 0, cap := 0, replayEnd := 0, stopped := false, due := 0 }

/-- A debug session at bring-up (R410, R432). -/
def Session.fresh : Session :=
  { bsel := 0, data := [0, 0, 0, 0], rstat := 0, busy := false, cmderr := 0, command := 0, sel := 0, phase := 0
    acc := none, lastOp := none, fseq := 0xFFFFFFFF, fseqOut := 0, rsp := [], ops := [], out := [], frames := [], open0 := false }

/-- The host port at reset (R427, R431). -/
def HostPort.fresh : HostPort :=
  { ready := false, fseqOut := 0, irqs := [], iseq := 0, snum := 0, sounding := false, sndParts := [], sndWait := [], carried := 0, msgAcc := none
    sent := [] }

/-- An image with no helm program and no site record entries (DESIGN CHOICE, log entry 6): what a package is fed is
an input, and the reset state names none. -/
def Image.blank : Image :=
  { verified := true, keys := [], reqsign := false, progs := [], clg2 := 6, digest := 0, siteDigest := 0
    pkgNum := 0 }

/-- Live lanes of the UCIe links 0 to 115 and of the pod ports 0 to 31 behind them, with nothing retired (R15, R434). -/
def fullLinks : List Nat := List.replicate 116 512 ++ List.replicate 32 8

/-- The package right after reset (R31, R72, R87, R381, R438, R445, R449): no function has reported ready, no chart is
resident, every table is empty, presence bits are empty, every other package is absent. -/
def State.reset : State :=
  { cycle := 0, agenda := [], free := 0, here := { agent := .helm 256, slot := 0 }, mem := [], presence := [], poison := []
    ktag := [], entries := [], logown := [], lineAgent := [], cells := [], helms := [], ports := []
    dies := [], regions := [], accs := [], nextAcc := 0, claims := [], kills := [], barriers := [], recs := []
    nextRec := 0, copyqs := [], logs := [], images := [], ulcmd := 0, budget := 11000, budgetDue := none, pkgNum := 0, almanac := []
    almPend := [], readyBits := [], failedBits := [], links := fullLinks, keys := [], podTable := [], planesOut := []
    lastPlane := 0, podAcks := [], sessions := [], host := .fresh, image := .blank, leaf := 0, ekey := 0, softCount := 0
    lineRun := [], ringDone := [] }

end Sys2Proof.Machine
end

