-- ==== Sys2Proof/Config.lean ====
section
/-! DEFINITION. What an implementation fixes and what the spec leaves open: constants without a body, so that nothing
can be proved of their values. Each is named in an assumption-log entry. -/

namespace Sys2Proof.Machine

/-- What happens next when the model's agenda is empty: which agent moves, and when, is timing, which the spec leaves
to the implementation (R1, R173). The argument is the counter `State.free` (log entry 1). -/
opaque Config.freeHappening : Nat → Happening

/-- The 32-byte SHAKE256 digest of a byte string, as a number (R439): named by the spec, not defined in it (log entry
4). -/
opaque Config.shake256 : List Byte → Nat

/-- Does an XMSS signature verify (R439, R441): key number of the site record, digest, signature (log entry 4)? -/
opaque Config.xmssVerify : Nat → Nat → List Byte → Bool

/-- The XMSS signature of a digest with a leaf of the package's attestation key (R442, R443; log entry 4). -/
opaque Config.xmssSign : Nat → Nat → List Byte

/-- The secret of an ML-KEM-1024 ciphertext and an AES-256-GCM part under the boot's key (R444): none where
decapsulation or the tag fails (log entry 4). -/
opaque Config.openBlob : Nat → List Byte → List Byte → Option (List Byte)

/-- The boot's ML-KEM-1024 encapsulation key (R443), from the boot's number (log entry 4). -/
opaque Config.encapKey : Nat → List Byte

/-- AES-256-GCM under a seal key: counter, header, plaintext, to ciphertext and tag (R448; log entry 4). -/
opaque Config.gcmSeal : BitVec 256 → Nat → List Byte → List Byte → List Byte

/-- The stored ciphertext of a byte of a keyed line: key, line number and the line's plaintext, to 128 bytes as a
number (R445; log entry 4). -/
opaque Config.xtsEncrypt : BitVec 512 → Nat → Nat → Nat

/-- The energy in pJ that one event costs (0 firing, 1 digit token, 2 array cycle, 3 memory access, 4 link beat): the cost
table is fixed per package at manufacture (R382; log entry 5). -/
opaque Config.energyCost : Nat → Nat

/-- A word that the spec leaves unstated: a place number and an index in it (log entry 5). -/
opaque Config.freeWord : Nat → Nat → Word

end Sys2Proof.Machine
end

