-- ==== Sys2Proof/Machine/Arith.lean ====
section
/-! DEFINITION. Numbers and the one rounding procedure (08_arithmetic.md R178-R188, R208): the value an encoding
holds, exact results, rounding with its flags and stochastic draws, integer saturation, the fixed tree. -/

namespace Sys2Proof.Machine

/-- Flag bits of CTX.FFLAGS (R186). -/
def fNX : Nat := 1
/-- Underflow flag (R186). -/
def fUF : Nat := 2
/-- Overflow flag (R186). -/
def fOF : Nat := 4
/-- Division-by-zero flag (R186). -/
def fDZ : Nat := 8
/-- Invalid flag (R186). -/
def fNV : Nat := 16
/-- Saturation flag (R186). -/
def fSAT : Nat := 32

/-- A value: NaN, an infinity, or the finite number (m + rest) * 2^e with its sign, where `rest` lies strictly
between 0 and 1 when `stk` is set and is 0 otherwise. -/
inductive Num where
  | nan
  | inf (neg : Bool)
  | fin (neg : Bool) (m : Nat) (e : Int) (stk : Bool)
deriving DecidableEq, Repr

/-- A result with the flags it raises and the generator state after its draws (R185, R186). -/
structure Res where
  bits : Nat
  flags : Nat
  gen : Nat
deriving DecidableEq, Repr

/-- Fraction field width of a float type (R178). -/
def Ty.fracBits : Ty → Nat
  | .e4m3 => 3 | .e5m2 => 2 | .e2m1 => 1 | .bf16 => 7 | .f16 => 10 | .f32 => 23 | _ => 0
/-- Exponent field width of a float type (R178). -/
def Ty.expBits : Ty → Nat
  | .e4m3 => 4 | .e5m2 => 5 | .e2m1 => 2 | .bf16 => 8 | .f16 => 5 | .f32 => 8 | .e8m0 => 8 | _ => 0
/-- Exponent bias (R178). -/
def Ty.bias : Ty → Nat
  | .e4m3 => 7 | .e5m2 => 15 | .e2m1 => 1 | .bf16 => 127 | .f16 => 15 | .f32 => 127 | .e8m0 => 127 | _ => 0
/-- Significand precision p with the hidden bit (R178). -/
def Ty.prec (t : Ty) : Nat := t.fracBits + 1
/-- The exponent of the smallest normal value (R178). -/
def Ty.emin (t : Ty) : Int := if t = .e8m0 then -127 else 1 - (t.bias : Int)
/-- The encoding of the largest finite value (R178). -/
def Ty.maxEnc : Ty → Nat
  | .e4m3 => 0x7E | .e5m2 => 0x7B | .e2m1 => 0x7 | .bf16 => 0x7F7F | .f16 => 0x7BFF | .f32 => 0x7F7FFFFF | .e8m0 => 0xFE
  | _ => 0
/-- Types that have infinities (R178). -/
def Ty.hasInf : Ty → Bool | .e5m2 | .bf16 | .f16 | .f32 => true | _ => false
/-- The encoding of +infinity in a type that has one (R178). -/
def Ty.infEnc : Ty → Nat | .e5m2 => 0x7C | .bf16 => 0x7F80 | .f16 => 0x7C00 | .f32 => 0x7F800000 | _ => 0
/-- The canonical NaN; E2M1 has none (R178). -/
def Ty.nanEnc : Ty → Nat
  | .e4m3 => 0x7F | .e5m2 => 0x7E | .bf16 => 0x7FC0 | .f16 => 0x7E00 | .f32 => 0x7FC00000 | .e8m0 => 0xFF | _ => 0
/-- The encoding of one (R85). -/
def Ty.oneEnc : Ty → Nat
  | .e4m3 => 0x38 | .e5m2 => 0x3C | .e2m1 => 0x2 | .bf16 => 0x3F80 | .f16 => 0x3C00 | .f32 => 0x3F800000 | .e8m0 => 0x7F
  | _ => 1
/-- The sign bit of a float encoding, as a number to add. -/
def Ty.signBit (t : Ty) (neg : Bool) : Nat := if neg then 2 ^ (t.width - 1) else 0
/-- The least value of an integer type (R178). -/
def Ty.lo (t : Ty) : Int := if t.isSigned then -((2 : Int) ^ (t.width - 1)) else 0
/-- The greatest value of an integer type (R178). -/
def Ty.hi (t : Ty) : Int := if t.isSigned then (2 : Int) ^ (t.width - 1) - 1 else (2 : Int) ^ t.width - 1

/-- The integer an element of an integer type holds (R178). -/
def Ty.intVal (t : Ty) (b : Nat) : Int := if t.isSigned then sextN b t.width else ((b % 2 ^ t.width : Nat) : Int)

/-- The integer n as an exact value. -/
def Num.ofInt (n : Int) : Num := .fin (n < 0) n.natAbs 0 false

/-- The value an encoding holds (R178). -/
def Num.decode (t : Ty) (b0 : Nat) : Num :=
  let b := b0 % 2 ^ t.width
  if t.isInt then Num.ofInt (t.intVal b)
  else if t = .pred then .fin false (b % 2) 0 false
  else if t = .e8m0 then (if b = 0xFF then .nan else .fin false 1 ((b : Int) - 127) false)
  else
    let neg := b / 2 ^ (t.width - 1) % 2 == 1
    let f := b % 2 ^ t.fracBits
    let x := b / 2 ^ t.fracBits % 2 ^ t.expBits
    let top := x == 2 ^ t.expBits - 1
    if top && t.hasInf then (if f = 0 then .inf neg else .nan)
    else if top && t == .e4m3 && f == 7 then .nan
    else if x = 0 then .fin neg f (t.emin - t.fracBits) false
    else .fin neg (2 ^ t.fracBits + f) ((x : Int) - t.bias - t.fracBits) false

/-- Is the encoding a NaN of its type (R178)? -/
def Num.isNan : Num → Bool | .nan => true | _ => false
/-- Is the value zero? -/
def Num.isZero : Num → Bool | .fin _ 0 _ false => true | _ => false
/-- The sign of a value that is no NaN. -/
def Num.neg : Num → Bool | .nan => false | .inf n => n | .fin n _ _ _ => n
/-- The value with its sign inverted. -/
def Num.negate : Num → Num | .nan => .nan | .inf n => .inf (!n) | .fin n m e s => .fin (!n) m e s

/-- Non-finite encodings, as R85 lists them (an E8M0 0xFF, an E4M3 NaN, infinities and NaNs). -/
def nonFinite (t : Ty) (b : Nat) : Bool :=
  match Num.decode t b with | .nan => true | .inf _ => true | _ => false

/-- One step of the stochastic generator (R185). -/
def genStep (s : Nat) : Nat := if s % 2 = 1 then (s / 2) ^^^ 0x80200003 else s / 2

/-- The generator of the instruction in slot i of a block that began with state g0 (R185). -/
def genInst (g0 i : Nat) : Nat :=
  let l := g0 ^^^ (0x9E3779B9 * (i + 1) % 2 ^ 32)
  if l = 0 then 1 else l

/-- A magnitude split at the unit 2^eu: the whole units, whether a rest remains, the rest against one half
(0 below, 1 equal, 2 above) and its first 32 bits. -/
structure Split where
  n : Nat
  inexact : Bool
  half : Nat
  bits32 : Nat
deriving DecidableEq, Repr

/-- Split (m + rest) * 2^e at the unit 2^eu (the n and fr of R181). -/
def splitAt2 (m : Nat) (e : Int) (stk : Bool) (eu : Int) : Split :=
  let k := eu - e
  if k ≤ 0 then { n := m * 2 ^ (-k).toNat, inexact := stk, half := 0, bits32 := 0 }
  else
    let k := min k.toNat (Nat.log2 m + 40)
    let r := m % 2 ^ k
    let h := 2 ^ (k - 1)
    { n := m / 2 ^ k
      inexact := r != 0 || stk
      half := if r < h then 0 else if r = h && !stk then 1 else 2
      bits32 := r * 2 ^ 32 / 2 ^ k }

/-- Does rounding go to the next unit away from zero (R181)? `d` is the draw of R185. -/
def roundUp (rm : Rm) (neg : Bool) (s : Split) (d : Nat) : Bool :=
  match rm with
  | .rne | .dyn => s.half == 2 || (s.half == 1 && s.n % 2 == 1)
  | .rna => s.half != 0
  | .rtz => false
  | .rup => s.inexact && !neg
  | .rdn => s.inexact && neg
  | .rod => s.inexact && s.n % 2 == 0
  | .sto => 2 ^ 32 ≤ s.bits32 + d

/-- What an overflowing float result is replaced by, with its flags (R182). -/
def overflowEnc (t : Ty) (rm : Rm) (sat neg : Bool) : Nat × Nat :=
  let big := t.signBit neg + t.maxEnc
  if t = .e2m1 then (big, fOF ||| fNX ||| fSAT)
  else
    let toMax : Bool := match rm with
      | .rtz | .rod => true
      | .rup => neg
      | .rdn => !neg
      | _ => false
    if toMax then (big, fOF ||| fNX)
    else if sat then (big, fOF ||| fNX ||| fSAT)
    else if t.hasInf then (t.signBit neg + t.infEnc, fOF ||| fNX)
    else (t.nanEnc, fOF ||| fNX)

/-- An infinite exact result delivered to a type, with its flags (R182, R183). -/
def infiniteEnc (t : Ty) (sat neg : Bool) : Nat × Nat :=
  if t.isInt then (wrapN (if neg then t.lo else t.hi) t.width, fNV)
  else if t.hasInf then (t.signBit neg + t.infEnc, 0)
  else if t = .e2m1 then (t.signBit neg + t.maxEnc, fNV)
  else if t = .e8m0 && neg then (t.nanEnc, fNV)
  else if sat then (t.signBit neg + t.maxEnc, fSAT)
  else (t.nanEnc, fNV)

/-- The encoding of n units of 2^eu in a float type, for a value within its range. -/
def encodeFloat (t : Ty) (neg : Bool) (n : Nat) (eu : Int) : Nat :=
  if n = 0 then t.signBit neg
  else if t = .e8m0 then ((Nat.log2 n : Int) + eu + 127).toNat
  else if n < 2 ^ t.fracBits then t.signBit neg + n
  else
    let up := n == 2 ^ t.prec
    let f := if up then 0 else n - 2 ^ t.fracBits
    let x := eu + t.fracBits + t.bias + (if up then 1 else 0)
    t.signBit neg + x.toNat * 2 ^ t.fracBits + f

/-- `round(x, TY, RM, SAT)` of R181, with R182 and R183 for the values that do not fit; `gen` is the instance
generator, which takes exactly one draw under STO (R185). RM must be resolved; DYN is read as RNE. -/
def roundNum (t : Ty) (rm : Rm) (sat : Bool) (gen : Nat) (x : Num) : Res :=
  let g := if rm = .sto then genStep gen else gen
  match x with
  | .nan =>
    if t.isInt then ⟨0, fNV, g⟩ else if t = .e2m1 then ⟨0, fNV, g⟩ else ⟨t.nanEnc, 0, g⟩
  | .inf neg => let r := infiniteEnc t sat neg; ⟨r.1, r.2, g⟩
  | .fin neg m e stk =>
    if m = 0 && !stk then
      (if t = .e8m0 then ⟨t.nanEnc, fNV, g⟩ else if t.isInt then ⟨0, 0, g⟩ else ⟨t.signBit neg, 0, g⟩)
    else if t = .e8m0 && neg then ⟨t.nanEnc, fNV, g⟩
    else
      let lg : Int := (Nat.log2 m : Int) + e
      if t = .e8m0 && decide (lg < -127) then ⟨0, fUF ||| fNX, g⟩
      else
      let eu : Int := if t.isInt then 0 else max lg t.emin - t.prec + 1
      let s := splitAt2 m e stk eu
      let n := s.n + bit (roundUp rm neg s g)
      if t.isInt then
        let y : Int := if neg then -(n : Int) else n
        if y < t.lo then ⟨wrapN t.lo t.width, fNV, g⟩
        else if t.hi < y then ⟨wrapN t.hi t.width, fNV, g⟩
        else ⟨wrapN y t.width, if s.inexact then fNX else 0, g⟩
      else
        let mx := Num.decode t t.maxEnc
        let exceeds : Bool := match mx with
          | .fin _ mm me _ => if me ≤ eu then decide (mm < n * 2 ^ (eu - me).toNat) else decide (mm * 2 ^ (me - eu).toNat < n)
          | _ => false
        if exceeds then (let r := overflowEnc t rm sat neg; ⟨r.1, r.2, g⟩)
        else
          let fl := (if s.inexact then fNX else 0) ||| (if s.inexact && decide (lg < t.emin) then fUF else 0)
          ⟨encodeFloat t neg n eu, fl, g⟩

/-- ⌊√n⌋ found bit by bit from bit `k - 1` down, `r` being the part found. -/
def isqrtGo (n : Nat) : Nat → Nat → Nat
  | 0, r => r
  | k + 1, r => let c := r + 2 ^ k; isqrtGo n k (if c * c ≤ n then c else r)

/-- ⌊√n⌋. -/
def isqrt (n : Nat) : Nat := isqrtGo n (Nat.log2 n / 2 + 1) 0

/-- A value with the flags that forming it raises. -/
structure NumF where
  num : Num
  flags : Nat
deriving DecidableEq, Repr

/-- Signed significand of a finite value. -/
def signedM (neg : Bool) (m : Nat) : Int := if neg then -(m : Int) else m

/-- The exact sum of two values, with the zero sign of R275 under the mode `rm` and the invalid case of R277. -/
def addNum (rm : Rm) (a b : Num) : NumF :=
  match a, b with
  | .nan, _ => ⟨.nan, 0⟩
  | _, .nan => ⟨.nan, 0⟩
  | .inf n, .inf n' => if n = n' then ⟨.inf n, 0⟩ else ⟨.nan, fNV⟩
  | .inf n, _ => ⟨.inf n, 0⟩
  | _, .inf n => ⟨.inf n, 0⟩
  | .fin n m e s, .fin n' m' e' s' =>
    if m = 0 && m' = 0 && !s && !s' then ⟨.fin (if n = n' then n else rm == .rdn) 0 0 false, 0⟩
    else
      let lo := min e e'
      let y := signedM n m * (2 : Int) ^ (e - lo).toNat + signedM n' m' * (2 : Int) ^ (e' - lo).toNat
      if y = 0 then ⟨.fin (rm == .rdn) 0 0 false, 0⟩
      else ⟨.fin (y < 0) y.natAbs lo (s || s'), 0⟩

/-- The exact product, with the invalid case of R277. -/
def mulNum (a b : Num) : NumF :=
  match a, b with
  | .nan, _ => ⟨.nan, 0⟩
  | _, .nan => ⟨.nan, 0⟩
  | .inf n, b => if b.isZero then ⟨.nan, fNV⟩ else ⟨.inf (n != b.neg), 0⟩
  | a, .inf n => if a.isZero then ⟨.nan, fNV⟩ else ⟨.inf (n != a.neg), 0⟩
  | .fin n m e _, .fin n' m' e' _ => ⟨.fin (n != n') (m * m') (e + e') false, 0⟩

/-- The exact quotient to at least 64 bits and a rest, with the cases of R277. -/
def divNum (a b : Num) : NumF :=
  match a, b with
  | .nan, _ => ⟨.nan, 0⟩
  | _, .nan => ⟨.nan, 0⟩
  | .inf _, .inf _ => ⟨.nan, fNV⟩
  | .inf n, b => ⟨.inf (n != b.neg), 0⟩
  | a, .inf n => ⟨.fin (n != a.neg) 0 0 false, 0⟩
  | .fin n m e _, .fin n' m' e' _ =>
    if m' = 0 then (if m = 0 then ⟨.nan, fNV⟩ else ⟨.inf (n != n'), fDZ⟩)
    else if m = 0 then ⟨.fin (n != n') 0 0 false, 0⟩
    else
      let k := 66 + Nat.log2 m'
      ⟨.fin (n != n') (m * 2 ^ k / m') (e - e' - k) (m * 2 ^ k % m' != 0), 0⟩

/-- The exact square root to at least 64 bits and a rest, with the cases of R277. -/
def sqrtNum (a : Num) : NumF :=
  match a with
  | .nan => ⟨.nan, 0⟩
  | .inf n => if n then ⟨.nan, fNV⟩ else ⟨.inf false, 0⟩
  | .fin n m e _ =>
    if m = 0 then ⟨.fin n 0 0 false, 0⟩
    else if n then ⟨.nan, fNV⟩
    else
      let odd := e % 2 != 0
      let m1 := if odd then m * 2 else m
      let e1 := if odd then e - 1 else e
      let k : Nat := 68
      let r := isqrt (m1 * 2 ^ (2 * k))
      ⟨.fin false r (e1 / 2 - (k : Int)) (r * r != m1 * 2 ^ (2 * k)), 0⟩

/-- The value times 2^n (R282); beyond 4,096 in magnitude every type has the same result. -/
def scaleNum (a : Num) (n : Int) : Num :=
  match a with
  | .fin s m e k => .fin s m (e + max (-4096) (min 4096 n)) k
  | x => x

/-- Comparison of two values that are no NaN, -0 equal to +0: the sign of a - b (R279). -/
def cmpNum (a b : Num) : Int :=
  match a, b with
  | .inf n, .inf n' => if n = n' then 0 else if n then -1 else 1
  | .inf n, _ => if n then -1 else 1
  | _, .inf n => if n then 1 else -1
  | .fin n m e _, .fin n' m' e' _ =>
    let lo := min e e'
    let x := signedM n m * (2 : Int) ^ (e - lo).toNat
    let y := signedM n' m' * (2 : Int) ^ (e' - lo).toNat
    if x < y then -1 else if y < x then 1 else 0
  | _, _ => 0

/-- `res(y)` of R254: an exact integer delivered to an integer type, wrapped, or saturated with SAT. -/
def resInt (t : Ty) (sat : Bool) (y : Int) : Nat × Nat :=
  if t.lo ≤ y && y ≤ t.hi then (wrapN y t.width, 0)
  else if sat then (wrapN (if y < t.lo then t.lo else t.hi) t.width, fSAT)
  else (wrapN y t.width, 0)

/-- FMIN and FMAX of R278: exact, -0 below +0, NaN canonical. -/
def fminmax (isMax : Bool) (t : Ty) (a b : Nat) : Nat :=
  let x := Num.decode t a
  let y := Num.decode t b
  if x.isNan || y.isNan then t.nanEnc
  else
    let c := cmpNum x y
    let aLess := c < 0 || (c = 0 && x.neg && !y.neg)
    if aLess then (if isMax then b else a) else (if isMax then a else b)

/-- The combining operations of RED, PFX, BARW, SACC and REDUCE copies (R285, R286, R322). -/
inductive Rop where | add | min | max | and | or | xor
deriving DecidableEq, Repr

/-- The combine of R286 for one pair of elements. -/
def combineElem (op : Rop) (t : Ty) (rm : Rm) (sat : Bool) (gen : Nat) (a b : Nat) : Res :=
  match op with
  | .add =>
    if t.isInt then (let r := resInt t sat (t.intVal a + t.intVal b); ⟨r.1, r.2, gen⟩)
    else
      let s := addNum rm (Num.decode t a) (Num.decode t b)
      let r := roundNum t rm sat gen s.num
      ⟨r.bits, r.flags ||| s.flags, r.gen⟩
  | .min => ⟨if t.isInt then (if t.intVal a ≤ t.intVal b then a else b) else fminmax false t a b, 0, gen⟩
  | .max => ⟨if t.isInt then (if t.intVal a ≤ t.intVal b then b else a) else fminmax true t a b, 0, gen⟩
  | .and => ⟨if t = .pred then (a &&& b) % 2 else a &&& b, 0, gen⟩
  | .or => ⟨if t = .pred then (a ||| b) % 2 else a ||| b, 0, gen⟩
  | .xor => ⟨if t = .pred then (a ^^^ b) % 2 else a ^^^ b, 0, gen⟩

/-- One level of the fixed tree: pairs combined in order, an odd last member carried (R208). -/
def treeLevel (f : Nat → Nat → Nat → Res) : List Nat → Nat → Nat → List Nat × Nat × Nat
  | a :: b :: r, fl, g =>
    let c := f g a b
    let rest := treeLevel f r (fl ||| c.flags) c.gen
    (c.bits :: rest.1, rest.2)
  | l, fl, g => (l, fl, g)

/-- The fixed tree of R208 over a list, level by level; `fuel` bounds the number of levels. -/
def treeReduce (f : Nat → Nat → Nat → Res) : Nat → List Nat → Nat → Nat → Res
  | 0, l, fl, g => ⟨l.headD 0, fl, g⟩
  | k + 1, l, fl, g =>
    match l with
    | [] => ⟨0, fl, g⟩
    | [a] => ⟨a, fl, g⟩
    | l => let t := treeLevel f l fl g; treeReduce f k t.1 t.2.1 t.2.2

/-- The fixed tree over elements of one type (R208, R286). -/
def reduceElems (op : Rop) (t : Ty) (rm : Rm) (sat : Bool) (gen : Nat) (l : List Nat) : Res :=
  treeReduce (fun g a b => combineElem op t rm sat g a b) l.length l 0 gen

/-- CVT of one element from type `st` to type `t` (R281). -/
def convertElem (st t : Ty) (rm : Rm) (sat : Bool) (gen : Nat) (b : Nat) : Res :=
  let g := if rm = .sto then genStep gen else gen
  let x := Num.decode st b
  if st = t then
    ⟨if !t.isInt && x.isNan then t.nanEnc else b % 2 ^ t.width, 0, g⟩
  else if st.isInt && t.isInt then
    (let r := resInt t sat (st.intVal b); ⟨r.1, r.2, g⟩)
  else roundNum t rm sat gen x

/-- The immediate of format I formed when its block enters a block store; none where R188 rejects it. -/
def immediate (t : Ty) (imm : Nat) (ip : Ipos) : Option Nat :=
  match t with
  | .i64 => match ip with
    | .low => some (wrapN (sextN imm 32) 64) | .high => some (imm * 2 ^ 32) | .fp32 => none
  | .n64 => match ip with
    | .low => some imm | .high => some (imm * 2 ^ 32) | .fp32 => none
  | _ =>
    if t.isInt then
      match ip with
      | .low =>
        let v : Int := if t.isSigned then sextN imm 32 else (imm : Int)
        if t.lo ≤ v && v ≤ t.hi then some (wrapN v t.width) else none
      | _ => none
    else if t = .pred then (if ip = .low && imm < 2 then some imm else none)
    else if t = .e8m0 then (if ip = .low && imm < 256 then some imm else none)
    else match ip with
      | .low => if imm < 2 ^ t.width then some imm else none
      | .high => none
      | .fp32 =>
        let v := Num.decode .f32 imm
        if v.isNan && t == .e2m1 then none
        else some (roundNum t .rne false 1 v).bits

end Sys2Proof.Machine
end

