-- ==== Sys2Proof/Machine/Rules.lean ====
section
/-! DEFINITION. What each opcode accepts, word by word: the shapes, types, field uses, limits and operand fields of
R213-R225 with the tables of the instruction chapters (R242-R287, R288-R292, R302-R303, R315, R322, R330-R363, R383,
R51). Everything here is judged on one word alone; BlockCheck judges what needs the block. -/

namespace Sys2Proof.Machine

/-- The fields of a word, in its format (R216-R221). -/
inductive Fmt where
  | g (f : FmtG) | i (f : FmtI) | m (f : FmtM) | c (f : FmtC) | t (f : FmtT) | s (f : FmtS)
deriving DecidableEq, Repr

/-- The six formats by name (R216-R221). -/
inductive Format where | g | i | m | c | t | s
deriving DecidableEq, Repr

/-- The format of an assigned opcode; none for an unassigned one (R223, R224). -/
def formatOf (op : Nat) : Option Format :=
  if op = 0x02 || (0x2A ≤ op && op ≤ 0x2E) || op = 0x3F || op = 0x40 then some .i
  else if (0x01 ≤ op && op ≤ 0x09) || (0x10 ≤ op && op ≤ 0x46) || (0x50 ≤ op && op ≤ 0x5F) then some .g
  else if (0x60 ≤ op && op ≤ 0x69) || (0x70 ≤ op && op ≤ 0x79) || (0xC0 ≤ op && op ≤ 0xC7) then some .t
  else if 0x80 ≤ op && op ≤ 0x98 then some .m
  else if 0xA0 ≤ op && op ≤ 0xAB then some .c
  else if (0xB0 ≤ op && op ≤ 0xB6) || (0xD0 ≤ op && op ≤ 0xE0) then some .s
  else none

/-- Reason codes of the block checker (R230). -/
inductive Reason where
  | magic | hdrrsvd | hdrcount | pad | oprsvd | opfree | rsvdbit | rsvdval | shape | type | unused | immrange
  | target | targetslot | field | regmask | wave | exit | branch | priv | csr | opval
deriving DecidableEq, Repr

/-- The number of a reason code (R230). -/
def Reason.code : Reason → Nat
  | .magic => 0x01 | .hdrrsvd => 0x02 | .hdrcount => 0x03 | .pad => 0x04 | .oprsvd => 0x05 | .opfree => 0x06
  | .rsvdbit => 0x07 | .rsvdval => 0x08 | .shape => 0x09 | .type => 0x0A | .unused => 0x0B | .immrange => 0x0C
  | .target => 0x0D | .targetslot => 0x0E | .field => 0x0F | .regmask => 0x10 | .wave => 0x11 | .exit => 0x12
  | .branch => 0x13 | .priv => 0x14 | .csr => 0x15 | .opval => 0x16

/-! ## Format G -/

/-- The types the matrix unit takes (R337). -/
def Ty.isMatrix : Ty → Bool
  | .i8 | .n8 | .i16 | .n16 | .e4m3 | .e5m2 | .e2m1 | .bf16 | .f16 => true
  | _ => false

/-- BF16, FP16 and FP32: the float types of atomics, sums and barriers (R303, R322, R351). -/
def Ty.isWide : Ty → Bool | .bf16 | .f16 | .f32 => true | _ => false

/-- Shapes of format G (R222). -/
def shOkG (op : Nat) (sh : Sh) : Bool :=
  if op = 0x04 || op = 0x09 then sh != .digit
  else if op ≤ 0x08 then true
  else if 0x41 ≤ op && op ≤ 0x45 then sh == .vector
  else if 0x50 ≤ op then sh == .digit
  else sh != .digit

/-- Types of format G (R242, R252, R259, R275, R276, R281, R285, R274, R288). -/
def tyOkG (op : Nat) (f : FmtG) : Bool :=
  if op ≤ 0x09 then f.ty == .i8
  else if 0x1A ≤ op && op ≤ 0x1D then f.ty.isInt || f.ty == .pred
  else if op = 0x28 then f.ty == .i64 || f.ty == .n64
  else if op ≤ 0x2F then f.ty.isInt
  else if op = 0x3B then f.ty.isFloat || f.ty == .e8m0
  else if op = 0x3C then f.ty != .pred && f.aux.toNat % 16 != 15
  else if op = 0x41 || op = 0x42 then
    (if f.aux.toNat % 8 ≤ 2 then f.ty.isInt || f.ty.isFloat else f.ty.isInt || f.ty == .pred)
  else if op = 0x43 || op = 0x44 || op = 0x51 then true
  else if op = 0x45 then f.ty.isInt
  else if op ≤ 0x46 then f.ty.isFloat
  else if op = 0x50 || op = 0x55 || op = 0x5B then f.ty != .pred
  else f.ty == .i8

/-- Is RM used (R242, R252, R276, R285, R288)? -/
def rmUsedG (op : Nat) (f : FmtG) : Bool :=
  (0x30 ≤ op && op ≤ 0x35) || (0x3C ≤ op && op ≤ 0x3E) || op = 0x46 || op = 0x51
  || ((op = 0x41 || op = 0x42) && f.aux.toNat % 8 == 0 && f.ty.isFloat)

/-- Is SAT used (R242, R253, R276, R285, R288)? -/
def satUsedG (op : Nat) (f : FmtG) : Bool :=
  (0x10 ≤ op && op ≤ 0x12) || op = 0x14 || op = 0x18 || op = 0x19 || op = 0x1E || op = 0x27
  || (0x30 ≤ op && op ≤ 0x35) || (0x3C ≤ op && op ≤ 0x3E) || op = 0x46 || op = 0x51
  || ((op = 0x41 || op = 0x42) && f.aux.toNat % 8 == 0)

/-- Is KG used (R243, R288)? -/
def kgUsedG (op : Nat) (f : FmtG) : Bool := (0x50 ≤ op && op ≤ 0x5F) || (op = 0x01 && f.sh == .digit)

/-- Is PD used (R288)? -/
def pdUsedG (op : Nat) : Bool :=
  op = 0x51 || op = 0x59 || op = 0x5A || op = 0x5B || op = 0x5D || op = 0x5E

/-- Does the description use AUX at all (R242, R253, R276, R285, R288)? -/
def auxUsedG (op : Nat) : Bool :=
  op = 0x04 || op = 0x06 || op = 0x07 || op = 0x08 || op = 0x25 || op = 0x26 || op = 0x28 || op = 0x29
  || op = 0x3A || op = 0x3C || (0x41 ≤ op && op ≤ 0x45) || 0x50 ≤ op

/-- Is an AUX in use within its limit (R242, R257-R259, R279, R281, R285, R288, R292)? LANE and VINS whose immediate-index bit is clear
take any lane bits: whether these then count as without use R222 does not say (DESIGN CHOICE, log entry 131). -/
def auxOkG (op : Nat) (f : FmtG) : Bool :=
  let a := f.aux.toNat
  match op with
  | 0x04 => a < 40
  | 0x06 => a < 16
  | 0x07 => 1 ≤ a && a ≤ 7
  | 0x08 => a ≤ 7
  | 0x25 | 0x26 => 1 ≤ a && a ≤ f.ty.width
  | 0x28 => a ≤ 7
  | 0x29 => a ≤ 5
  | 0x3A => a ≤ 6
  | 0x3C => a ≤ 15
  | 0x41 | 0x42 => a ≤ 5
  | 0x43 | 0x44 => a < 64
  | 0x45 => true
  | 0x50 => a == 0
  | _ =>
    if 0x51 ≤ op then
      let opa := a % 256
      (a / 4096 == 1 || a / 256 % 16 == 0) &&
      (match op with
       | 0x51 => opa ≤ 1
       | 0x5B => opa ≤ 3
       | 0x5D => opa ≤ 1
       | 0x5E => opa ≤ 7 && opa % 4 != 3
       | 0x5F => true
       | _ => opa == 0)
    else true

/-- The judgement of a G word's fields, in the order of the reason table (R230). -/
def ruleG (op : Nat) (f : FmtG) : Option Reason :=
  if auxUsedG op && !auxOkG op f then some .rsvdval
  else if !shOkG op f.sh then some .shape
  else if !tyOkG op f then some .type
  else if (!rmUsedG op f && f.rm != .rne) || (!satUsedG op f && f.sat) || (!kgUsedG op f && f.kg != 0)
      || (!pdUsedG op && f.pd != 0) || (!auxUsedG op && f.aux != 0) then some .unused
  else none

/-! ## Format I -/

/-- Types of format I (R244, R261, R283). -/
def tyOkI (op : Nat) (ty : Ty) : Bool :=
  if op = 0x02 then true
  else if op = 0x2A || op = 0x2E then ty.isInt
  else if op ≤ 0x2D then ty.isInt || ty == .pred
  else ty.isFloat

/-- The judgement of an I word's fields (R217, R188, R230). -/
def ruleI (op : Nat) (f : FmtI) : Option Reason :=
  if f.sh == .digit then some .shape
  else if !tyOkI op f.ty then some .type
  else if (immediate f.ty f.imm.toNat f.ipos).isNone then some .immrange
  else none

/-! ## Format M -/

/-- Orderings accepted (R109). -/
def ordOkM (op : Nat) (o : Ord) : Bool :=
  match op with
  | 0x80 | 0x82 | 0x84 | 0x91 | 0x98 => o == .rlx || o == .acq || o == .sc
  | 0x81 | 0x83 | 0x85 | 0x86 => o == .rlx || o == .rel || o == .sc
  | 0x90 => o != .rlx
  | 0x92 | 0x93 | 0x94 => o == .rlx
  | 0x95 | 0x97 => o != .acq
  | 0x96 => o != .rel
  | _ => true

/-- Shapes of format M (R222). -/
def shOkM (op : Nat) (sh : Sh) : Bool :=
  match op with
  | 0x82 | 0x83 => sh == .vector
  | 0x95 | 0x96 => sh != .digit
  | _ => sh == .scalar

/-- Types of format M (R302, R303). -/
def tyOkM (op : Nat) (f : FmtM) : Bool :=
  if f.ty == .e2m1 && f.sh == .scalar then false
  else match op with
  | 0x80 | 0x81 | 0x82 | 0x83 | 0x84 | 0x8D | 0x8E | 0x95 | 0x96 => true
  | 0x85 => f.ty == .i64 || f.ty == .n64
  | 0x87 | 0x88 | 0x89 | 0x8A | 0x8B | 0x8C | 0x91 => f.ty.isInt
  | 0x8F => f.ty.isWide
  | _ => f.ty == .i8

/-- Does TA receive anything (R303)? FENCE's TA is judged with its block (R315). -/
def taUsedM (op : Nat) : Bool :=
  !(op = 0x81 || op = 0x83 || op = 0x85 || op = 0x86 || op = 0x92)

/-- The judgement of an M word's fields (R218, R222, R230). -/
def ruleM (op : Nat) (f : FmtM) : Option Reason :=
  if !ordOkM op f.ord then some .rsvdval
  else if !shOkM op f.sh then some .shape
  else if !tyOkM op f then some .type
  else if (op = 0x90 && (f.loc || f.off != 0)) || (!taUsedM op && f.ta != .none) then some .unused
  else none

/-! ## Format C -/

/-- Is OFF used (R263)? -/
def offUsedC (op : Nat) : Bool := op = 0xA0 || op = 0xA2 || op = 0xA8 || op = 0xA9 || op = 0xAA
/-- Are CK and AUX used (R262, R270)? -/
def codeUsedC (op : Nat) : Bool := op = 0xAA || op = 0xAB
/-- Is TA used (R263)? -/
def taUsedC (op : Nat) : Bool := op = 0xA2 || op = 0xA3 || op = 0xA5 || op = 0xA6

/-- The judgement of a C word's fields (R219, R222, R263). -/
def ruleC (op : Nat) (f : FmtC) : Option Reason :=
  if (!offUsedC op && f.off != 0) || (!codeUsedC op && (f.ck != 0 || f.aux != 0)) || (!taUsedC op && f.ta != .none)
  then some .unused else none

/-! ## Format T -/

/-- Shapes of format T (R222). -/
def shOkT (op : Nat) (sh : Sh) : Bool :=
  if op = 0x62 then sh != .scalar
  else if 0x72 ≤ op && op ≤ 0x79 then sh != .digit
  else sh == .scalar

/-- Types of format T (R333, R337, R343, R346, R351, R355). -/
def tyOkT (op : Nat) (f : FmtT) : Bool :=
  match op with
  | 0x60 | 0x62 => f.ty.isMatrix
  | 0x63 => f.ty != .e8m0 && f.ty != .pred
  | 0x66 | 0x67 | 0x70 => f.ty != .pred
  | 0x72 => f.ty == .n16 || f.ty == .n32
  | 0x76 => f.ty == .i32 || f.ty == .n32 || f.ty == .i64 || f.ty == .n64 || f.ty.isWide
  | 0x77 | 0x78 => f.ty != .e2m1 && f.ty != .pred
  | 0x79 => if f.aux.toNat % 8 = 3 then f.ty.isWide else f.ty.isInt
  | _ => f.ty == .i8

/-- Is SR used (R333, R337, R346)? -/
def srUsedT (op : Nat) : Bool :=
  op = 0x60 || op = 0x62 || op = 0x68 || op = 0x69 || op = 0x70 || op = 0x72 || (0x76 ≤ op && op ≤ 0x79)
/-- Is PT used (R337, R346, R348)? -/
def ptUsedT (op : Nat) : Bool := op = 0x60 || op = 0x70 || op = 0x71
/-- Is AUX used (R333, R337, R346, R355)? -/
def auxUsedT (op : Nat) : Bool :=
  (0x62 ≤ op && op ≤ 0x64) || op = 0x68 || op = 0x69 || op = 0x70 || (0x72 ≤ op && op ≤ 0x79)
  || op = 0xC0 || op = 0xC1 || op = 0xC2 || op = 0xC5 || op = 0xC7
/-- Is TA used (R337, R346)? -/
def taUsedT (op : Nat) : Bool := op != 0x78 && op != 0x79
/-- Is TB used: the assembly form writes two targets (R333, R337, R343, R346)? -/
def tbUsedT (op : Nat) : Bool :=
  op = 0x62 || op = 0x63 || (0x65 ≤ op && op ≤ 0x67) || op = 0x69 || (0x72 ≤ op && op ≤ 0x77)

/-- The rank RK of a stream instruction (R346). -/
def rkT (op aux : Nat) : Nat := if 0x77 ≤ op then fieldN aux 5 3 else fieldN aux 6 4

/-- Is an AUX in use within its limit (R333, R337, R342, R346, R351, R355)? -/
def auxOkT (op : Nat) (f : FmtT) : Bool :=
  let a := f.aux.toNat
  let chOk := a / 2048 == 1 || fieldN a 10 7 == 0
  match op with
  | 0x62 => a ≤ 3
  | 0x63 => a < 64
  | 0x64 => 1 ≤ a && a ≤ 15
  | 0x68 | 0x69 => a ≤ 3
  | 0x70 => a % 32 == 0
  | 0x72 => chOk && 1 ≤ rkT op a && rkT op a ≤ 6 && a % 16 == 0
  | 0x73 | 0x74 | 0x75 => chOk && 1 ≤ rkT op a && a % 16 == 0
  | 0x76 => chOk && 1 ≤ rkT op a && a / 8 % 2 == 0 && 1 ≤ a % 8 && a % 8 ≤ rkT op a
  | 0x77 | 0x78 | 0x79 =>
    let o := fieldN a 8 6
    fieldN a 11 9 ≤ 5 && 1 ≤ rkT op a &&
    (match op with
     | 0x77 => (o == 0 || o == 1 || o == 4) && a % 8 == 0
     | 0x78 => (o == 0 || o == 2 || o == 4) && a % 8 == 0
     | _ => o ≤ 4 && a % 8 != 7)
  | 0xC0 | 0xC1 | 0xC2 | 0xC7 => a < 64
  | 0xC5 => a < 128
  | _ => true

/-- The judgement of a T word's fields (R220, R222, R230). -/
def ruleT (op : Nat) (f : FmtT) : Option Reason :=
  if auxUsedT op && !auxOkT op f then some .rsvdval
  else if !shOkT op f.sh then some .shape
  else if !tyOkT op f then some .type
  else if (!srUsedT op && f.sr != 0) || (!ptUsedT op && f.pt != 0) || (!auxUsedT op && f.aux != 0)
      || (!taUsedT op && f.ta != .none) || (!tbUsedT op && f.tb != .none) then some .unused
  else none

/-! ## Format S -/

/-- The scope code in SEL [53:51] of the synchronisation instructions and TLBI (R322, R51). -/
def selSc (sel : Nat) : Nat := fieldN sel 13 11
/-- ROP in SEL [46:44] (R322). -/
def selRop (sel : Nat) : Nat := fieldN sel 6 4

/-- Limited values of format S (R322, R51, R363, R383). -/
def limitOkS (op : Nat) (f : FmtS) : Bool :=
  let s := f.sel.toNat
  let a := f.aux.toNat
  match op with
  | 0xB0 => selSc s ≤ 5 && selRop s != 7 && (selSc s != 0 || a == 0)
  | 0xB1 => selSc s ≤ 5 && (selSc s != 0 || a == 0)
  | 0xB2 | 0xB3 | 0xB4 | 0xB5 => selSc s ≤ 5
  | 0xB6 => fieldN s 13 12 != 3 && a < 256
  | 0xD2 => a < 16
  | 0xDA => selSc s == 3 || selSc s == 4
  | 0xDB => a ≤ 1
  | 0xDD => fieldN s 13 12 != 3
  | _ => true

/-- VTY and ROP agree (R322). -/
def tyOkS (op : Nat) (f : FmtS) : Bool :=
  if op = 0xB0 then
    let s := f.sel.toNat
    let t := Ty.ofCode s
    if selRop s = 0 then s % 16 == 0
    else if t.isInt then true
    else t.isWide && selRop s ≤ 3
  else true

/-- The SEL bits an opcode uses (R51, R322, R362, R383). -/
def selUsedS (op : Nat) : Nat :=
  match op with
  | 0xB0 | 0xD0 | 0xD1 => 0x3FFF
  | 0xB1 => 0x3F80
  | 0xB2 => 0x3FC0
  | 0xB3 | 0xB4 | 0xB5 => 0x3800
  | 0xB6 | 0xDD => 0x3000
  | 0xDA => 0x3E00
  | _ => 0
/-- Is AUX used (R322, R363)? -/
def auxUsedS (op : Nat) : Bool := op = 0xB0 || op = 0xB1 || op = 0xB6 || op = 0xD2 || op = 0xDB
/-- Is TA used (R322, R362)? -/
def taUsedS (op : Nat) : Bool := op != 0xB6 && op != 0xD1
/-- Is TB used (R322, R362, R363, R383, R51)? -/
def tbUsedS (op : Nat) (f : FmtS) : Bool :=
  (0xB0 ≤ op && op ≤ 0xB5) || op = 0xD0 || op = 0xD2 || op = 0xDB || op = 0xDF
  || (op = 0xDD && fieldN f.sel.toNat 13 12 != 1)

/-- The judgement of an S word's fields (R221, R222, R230). -/
def ruleS (op : Nat) (f : FmtS) : Option Reason :=
  if !limitOkS op f then some .rsvdval
  else if !tyOkS op f then some .type
  else if f.sel.toNat &&& selUsedS op != f.sel.toNat || (!auxUsedS op && f.aux != 0)
      || (!taUsedS op && f.ta != .none) || (!tbUsedS op f && f.tb != .none) then some .unused
  else none

/-- The judgement of a word's fields on the word alone, in the order of R230. -/
def ruleOf (op : Nat) : Fmt → Option Reason
  | .g f => ruleG op f | .i f => ruleI op f | .m f => ruleM op f
  | .c f => ruleC op f | .t f => ruleT op f | .s f => ruleS op f

/-! ## Operand fields -/

/-- Predication of a word (R213). -/
def Fmt.pr : Fmt → Pr
  | .g f => f.pr | .i f => f.pr | .m f => f.pr | .c f => f.pr | .t f => f.pr | .s f => f.pr
/-- First target of a word. -/
def Fmt.ta : Fmt → Target
  | .g f => f.ta | .i f => f.ta | .m f => f.ta | .c f => f.ta | .t f => f.ta | .s f => f.ta
/-- Second target of a word; formats I, M and C have none. -/
def Fmt.tb : Fmt → Target
  | .g f => f.tb | .t f => f.tb | .s f => f.tb | _ => .none
/-- Both targets, TA first. -/
def Fmt.targets (f : Fmt) : List Target := [f.ta, f.tb]
/-- The shape of a word; formats C and S count as scalar (R222). -/
def Fmt.sh : Fmt → Sh
  | .g f => f.sh | .i f => f.sh | .m f => f.sh | .t f => f.sh | _ => .scalar
/-- The element type of a word; formats C and S have none and count as I64. -/
def Fmt.ty : Fmt → Ty
  | .g f => f.ty | .i f => f.ty | .m f => f.ty | .t f => f.ty | _ => .i64
/-- AUX as a number; 0 for formats I and M. -/
def Fmt.aux : Fmt → Nat
  | .g f => f.aux.toNat | .c f => f.aux.toNat | .t f => f.aux.toNat | .s f => f.aux.toNat | _ => 0

/-- Does the L stream or element group arrive on an input channel (R288, R346)? -/
def chlOf (op : Nat) (f : Fmt) : Option Nat :=
  if 0x51 ≤ op && op ≤ 0x5F then (if fieldN f.aux 12 12 = 1 then some (fieldN f.aux 11 8) else none)
  else if 0x72 ≤ op && op ≤ 0x76 then (if fieldN f.aux 11 11 = 1 then some (fieldN f.aux 10 7) else none)
  else none

/-- Does the description take L (R242, R253, R261, R263, R276, R285, R292, R303, R322, R333, R337, R343, R346, R355,
R362, R363, R51)? -/
def takesL (op : Nat) (f : Fmt) : Bool :=
  if op = 0x02 || op = 0x03 || op = 0x04 || op = 0x06 || op = 0x07 || op = 0x09 then false
  else if (0x51 ≤ op && op ≤ 0x5F) || (0x72 ≤ op && op ≤ 0x76) then (chlOf op f).isNone
  else if op = 0x64 || op = 0x69 || op = 0x71 || op = 0xC1 || op = 0xC7 then false
  else if 0xA0 ≤ op && op ≤ 0xAB then op = 0xA1 || op = 0xA3 || op = 0xA4 || op = 0xA6
  else match f with
  | .s g =>
    if op = 0xB0 then selRop g.sel.toNat != 0
    else if op = 0xDA then (let m := fieldN g.sel.toNat 10 9; m == 0 || m == 2)
    else !(op = 0xB1 || op = 0xD0 || op = 0xDE || op = 0xDF)
  | _ => true

/-- Does the description take R? -/
def takesR (op : Nat) (f : Fmt) : Bool :=
  if op ≤ 0x09 then op = 0x05
  else if op ≤ 0x2F then !(op = 0x18 || op = 0x19 || op = 0x1D || (0x22 ≤ op && op ≤ 0x24) || (0x2A ≤ op && op ≤ 0x2E))
  else if op ≤ 0x46 then
    (0x30 ≤ op && op ≤ 0x34) || op = 0x36 || op = 0x37 || op = 0x3A || op = 0x3E || op = 0x44
    || (op = 0x43 && fieldN f.aux 5 5 = 0)
  else if op ≤ 0x5F then
    op = 0x52 || op = 0x53 || op = 0x54 || op = 0x55 || op = 0x57 || op = 0x59 || op = 0x5A || op = 0x5B
  else if op ≤ 0x69 then op = 0x67
  else if op ≤ 0x79 then (0x73 ≤ op && op ≤ 0x76) || op = 0x78 || op = 0x79
  else if op ≤ 0x98 then
    op = 0x81 || op = 0x83 || (0x85 ≤ op && op ≤ 0x8F) || op = 0x91 || (0x93 ≤ op && op ≤ 0x95) || op = 0x97
  else match f with
  | .s g =>
    if op = 0xDA then (let m := fieldN g.sel.toNat 10 9; m == 0 || m == 1)
    else if op = 0xDD then fieldN g.sel.toNat 13 12 = 1
    else op = 0xB3 || op = 0xB4 || op = 0xD5 || op = 0xD8 || op = 0xD9 || op = 0xDC || op = 0xE0
  | _ => op = 0xC4

/-- Does the description use X (R247, R253, R257, R276, R285, R292, R303)? -/
def takesX (op : Nat) (f : Fmt) : Bool :=
  op = 0x05 || op = 0x26 || op = 0x27 || op = 0x33 || op = 0x57 || op = 0x8E
  || (op = 0x44 && fieldN f.aux 5 5 = 0)

/-- Does a channel target take its colour from X (R214)? -/
def Fmt.colourX (f : Fmt) : Bool :=
  f.targets.any fun t => match t with | .chan _ x => x | _ => false

/-- The operand fields a word takes, apart from the L of a FENCE (R215, R237). -/
def takes (op : Nat) (f : Fmt) : Fld → Bool
  | .l => takesL op f
  | .r => takesR op f
  | .x => takesX op f || f.colourX
  | .p => f.pr != .always

/-- The operand fields a destination takes for the block checker (R158, R215): those its word awaits, and those its
opcode awaits in another mode (TLBI, LANE, VINS, BARW, RECK, a digit or stream L that arrives on a channel). -/
def takesAny (op : Nat) (f : Fmt) (fld : Fld) : Bool :=
  takes op f fld ||
  (match fld with
   | .l => op = 0xDA || op = 0xB0 || (chlOf op f).isSome
   | .r => op = 0xDA || op = 0x43 || op = 0xDD
   | .x => op = 0x44
   | .p => false)

/-- The digit fields (R289, R292, R340). -/
def digitField (op : Nat) (f : Fmt) : Fld → Bool
  | .l => (0x51 ≤ op && op ≤ 0x5F) || (op = 0x62 && f.sh == .digit)
  | .r => op = 0x52 || op = 0x53 || op = 0x54 || op = 0x57 || op = 0x59 || op = 0x5A
  | .x => op = 0x57
  | .p => false

/-- The digit producers (R290). -/
def digitProducer (op : Nat) (f : Fmt) : Bool :=
  op = 0x50 || (0x52 ≤ op && op ≤ 0x5F) || (op = 0x01 && f.sh == .digit)

/-- The stream fields (R340, R346). -/
def streamField (op : Nat) : Fld → Bool
  | .l => op = 0x62 || (0x72 ≤ op && op ≤ 0x79)
  | .r => (0x73 ≤ op && op ≤ 0x76) || op = 0x78 || op = 0x79
  | _ => false

/-- The exit instructions (R212). -/
def isExit (op : Nat) : Bool := (0xA0 ≤ op && op ≤ 0xA4) || (0xA7 ≤ op && op ≤ 0xAA)

/-- The M-format instructions that write memory (R211). -/
def memWrites (op : Nat) : Bool :=
  op = 0x81 || op = 0x83 || (0x85 ≤ op && op ≤ 0x8F) || op = 0x95 || op = 0x96 || op = 0x97

/-- Stores and CLR: what performs at commit (R306). -/
def isStore (op : Nat) : Bool := op = 0x81 || op = 0x83 || op = 0x85 || op = 0x86

/-- Instructions that take effect at commit, so that a target of theirs receives its token then (R334, R363,
R383). -/
def atCommit (op : Nat) (f : Fmt) : Bool :=
  op = 0x68 || op = 0xB6 || op = 0xC0 || op = 0xC1 || op = 0xC3 || op = 0xC4 || op = 0xC5 || op = 0xD1
  || (0xD3 ≤ op && op ≤ 0xD9) || op = 0xDC || op = 0xDE || op = 0xE0
  || (match f with | .s g => op = 0xDD && fieldN g.sel.toNat 13 12 = 1 | _ => false)

end Sys2Proof.Machine
end

