-- ==== Sys2Proof/Decode.lean ====
section
/-! DEFINITION. The decoder and the encoder of 64-bit instruction words (R213-R225, R230): total, rejecting with the
reason codes 0x05 to 0x0D in the order of the reason table. -/

namespace Sys2Proof

open Sys2Proof.Machine

/-- The instruction of an opcode with its fields; none for an unassigned opcode or another format (R223, R224).
CANCEL and RECK stand in several rows of the table, told apart by KIND and OP (R360, R383). -/
def mkInstr (op : Nat) (f : Fmt) : Option Instr :=
  match f with
  | .g f =>
    match op with
    | 0x01 => some (.mov f)
    | 0x03 => some (.nullTok f)
    | 0x04 => some (.readReg f)
    | 0x05 => some (.sel f)
    | 0x06 => some (.inTok f)
    | 0x07 => some (.stopTok f)
    | 0x08 => some (.tokt f)
    | 0x09 => some (.color f)
    | 0x10 => some (.add f)
    | 0x11 => some (.sub f)
    | 0x12 => some (.mul f)
    | 0x13 => some (.mulh f)
    | 0x14 => some (.div f)
    | 0x15 => some (.rem f)
    | 0x16 => some (.min f)
    | 0x17 => some (.max f)
    | 0x18 => some (.abs f)
    | 0x19 => some (.neg f)
    | 0x1A => some (.and f)
    | 0x1B => some (.or f)
    | 0x1C => some (.xor f)
    | 0x1D => some (.not f)
    | 0x1E => some (.shl f)
    | 0x1F => some (.shr f)
    | 0x20 => some (.sra f)
    | 0x21 => some (.rot f)
    | 0x22 => some (.clz f)
    | 0x23 => some (.popc f)
    | 0x24 => some (.brev f)
    | 0x25 => some (.bext f)
    | 0x26 => some (.bins f)
    | 0x27 => some (.madd f)
    | 0x28 => some (.lea f)
    | 0x29 => some (.cmp f)
    | 0x2F => some (.shfl f)
    | 0x30 => some (.fadd f)
    | 0x31 => some (.fsub f)
    | 0x32 => some (.fmul f)
    | 0x33 => some (.ffma f)
    | 0x34 => some (.fdiv f)
    | 0x35 => some (.fsqrt f)
    | 0x36 => some (.fmin f)
    | 0x37 => some (.fmax f)
    | 0x38 => some (.fabs f)
    | 0x39 => some (.fneg f)
    | 0x3A => some (.fcmp f)
    | 0x3B => some (.fclass f)
    | 0x3C => some (.cvt f)
    | 0x3D => some (.frint f)
    | 0x3E => some (.fscale f)
    | 0x46 => some (.fexp2 f)
    | 0x41 => some (.red f)
    | 0x42 => some (.pfx f)
    | 0x43 => some (.lane f)
    | 0x44 => some (.vins f)
    | 0x45 => some (.vidx f)
    | 0x50 => some (.dsrc f)
    | 0x51 => some (.dsink f)
    | 0x52 => some (.dadd f)
    | 0x53 => some (.dsub f)
    | 0x54 => some (.dmul f)
    | 0x55 => some (.ddiv f)
    | 0x56 => some (.dsqrt f)
    | 0x57 => some (.dfma f)
    | 0x58 => some (.drelu f)
    | 0x59 => some (.dmax f)
    | 0x5A => some (.dmin f)
    | 0x5B => some (.dthr f)
    | 0x5C => some (.dexp2 f)
    | 0x5D => some (.dacc f)
    | 0x5E => some (.dred f)
    | 0x5F => some (.dscl f)
    | _ => none
  | .i f =>
    match op with
    | 0x02 => some (.movi f)
    | 0x2A => some (.addi f)
    | 0x2B => some (.andi f)
    | 0x2C => some (.ori f)
    | 0x2D => some (.xori f)
    | 0x2E => some (.cmpi f)
    | 0x3F => some (.faddi f)
    | 0x40 => some (.fmuli f)
    | _ => none
  | .m f =>
    match op with
    | 0x80 => some (.ld f)
    | 0x81 => some (.st f)
    | 0x82 => some (.ldv f)
    | 0x83 => some (.stv f)
    | 0x84 => some (.ldw f)
    | 0x85 => some (.stf f)
    | 0x86 => some (.clr f)
    | 0x87 => some (.aadd f)
    | 0x88 => some (.amin f)
    | 0x89 => some (.amax f)
    | 0x8A => some (.aand f)
    | 0x8B => some (.aor f)
    | 0x8C => some (.axor f)
    | 0x8D => some (.aswp f)
    | 0x8E => some (.acas f)
    | 0x8F => some (.afadd f)
    | 0x90 => some (.fence f)
    | 0x91 => some (.mwait f)
    | 0x92 => some (.pref f)
    | 0x93 => some (.wback f)
    | 0x94 => some (.inval f)
    | 0x95 => some (.rput f)
    | 0x96 => some (.rget f)
    | 0x97 => some (.rfree f)
    | 0x98 => some (.rstat f)
    | _ => none
  | .c f =>
    match op with
    | 0xA0 => some (.br f)
    | 0xA1 => some (.bri f)
    | 0xA2 => some (.call f)
    | 0xA3 => some (.calli f)
    | 0xA4 => some (.ret f)
    | 0xA5 => some (.spawn f)
    | 0xA6 => some (.retc f)
    | 0xA7 => some (.halt f)
    | 0xA8 => some (.yield f)
    | 0xA9 => some (.waypt f)
    | 0xAA => some (.trap f)
    | 0xAB => some (.brk f)
    | _ => none
  | .t f =>
    match op with
    | 0x60 => some (.tload f)
    | 0x61 => some (.tswap f)
    | 0x62 => some (.mmrow f)
    | 0x63 => some (.mmout f)
    | 0x64 => some (.mmzero f)
    | 0x65 => some (.tdir f)
    | 0x66 => some (.tclass f)
    | 0x67 => some (.tfill f)
    | 0x68 => some (.shape f)
    | 0x69 => some (.shapeq f)
    | 0x70 => some (.sbind f)
    | 0x71 => some (.sbar f)
    | 0x72 => some (.scan f)
    | 0x73 => some (.isect f)
    | 0x74 => some (.unionS f)
    | 0x75 => some (.repeatS f)
    | 0x76 => some (.sacc f)
    | 0x77 => some (.gather f)
    | 0x78 => some (.scatter f)
    | 0x79 => some (.scata f)
    | 0xC0 => some (.copy f)
    | 0xC1 => some (.batch f)
    | 0xC2 => some (.waitb f)
    | 0xC3 => some (.launch f)
    | 0xC4 => some (.splice f)
    | 0xC6 => some (.qstat f)
    | 0xC7 => some (.cstat f)
    | 0xC5 => some (if fieldN f.aux.toNat 6 6 = 0 then .cancelLaunch f else .cancelCopies f)
    | _ => none
  | .s f =>
    match op with
    | 0xB0 => some (.barw f)
    | 0xB1 => some (.bara f)
    | 0xB2 => some (.bart f)
    | 0xB3 => some (.semw f)
    | 0xB4 => some (.sema f)
    | 0xB5 => some (.semr f)
    | 0xB6 => some (.evt f)
    | 0xD0 => some (.csrr f)
    | 0xD1 => some (.csrw f)
    | 0xD2 => some (.mailr f)
    | 0xD3 => some (.resume f)
    | 0xD4 => some (.abort f)
    | 0xD5 => some (.chload f)
    | 0xD6 => some (.chact f)
    | 0xD7 => some (.preempt f)
    | 0xD8 => some (.cksave f)
    | 0xD9 => some (.ckrest f)
    | 0xDA => some (.tlbi f)
    | 0xDB => some (.almr f)
    | 0xDC => some (.almw f)
    | 0xDE => some (.sound f)
    | 0xDF => some (.idle f)
    | 0xE0 => some (.attest f)
    | 0xDD => (match fieldN f.sel.toNat 13 12 with
      | 0 => some (.reckRdbudget f) | 1 => some (.reckWrbudget f) | 2 => some (.reckRdctr f) | _ => none)
    | _ => none

/-- The opcode and the fields of an instruction of a block; none for an event of the hardware (R223, R224). -/
def opFields (i : Instr) : Option (Nat × Fmt) :=
  match i with
  | .mov f => some (0x01, .g f)
  | .movi f => some (0x02, .i f)
  | .nullTok f => some (0x03, .g f)
  | .readReg f => some (0x04, .g f)
  | .sel f => some (0x05, .g f)
  | .inTok f => some (0x06, .g f)
  | .stopTok f => some (0x07, .g f)
  | .tokt f => some (0x08, .g f)
  | .color f => some (0x09, .g f)
  | .add f => some (0x10, .g f)
  | .sub f => some (0x11, .g f)
  | .mul f => some (0x12, .g f)
  | .mulh f => some (0x13, .g f)
  | .div f => some (0x14, .g f)
  | .rem f => some (0x15, .g f)
  | .min f => some (0x16, .g f)
  | .max f => some (0x17, .g f)
  | .abs f => some (0x18, .g f)
  | .neg f => some (0x19, .g f)
  | .and f => some (0x1A, .g f)
  | .or f => some (0x1B, .g f)
  | .xor f => some (0x1C, .g f)
  | .not f => some (0x1D, .g f)
  | .shl f => some (0x1E, .g f)
  | .shr f => some (0x1F, .g f)
  | .sra f => some (0x20, .g f)
  | .rot f => some (0x21, .g f)
  | .clz f => some (0x22, .g f)
  | .popc f => some (0x23, .g f)
  | .brev f => some (0x24, .g f)
  | .bext f => some (0x25, .g f)
  | .bins f => some (0x26, .g f)
  | .madd f => some (0x27, .g f)
  | .lea f => some (0x28, .g f)
  | .cmp f => some (0x29, .g f)
  | .addi f => some (0x2A, .i f)
  | .andi f => some (0x2B, .i f)
  | .ori f => some (0x2C, .i f)
  | .xori f => some (0x2D, .i f)
  | .cmpi f => some (0x2E, .i f)
  | .shfl f => some (0x2F, .g f)
  | .fadd f => some (0x30, .g f)
  | .fsub f => some (0x31, .g f)
  | .fmul f => some (0x32, .g f)
  | .ffma f => some (0x33, .g f)
  | .fdiv f => some (0x34, .g f)
  | .fsqrt f => some (0x35, .g f)
  | .fmin f => some (0x36, .g f)
  | .fmax f => some (0x37, .g f)
  | .fabs f => some (0x38, .g f)
  | .fneg f => some (0x39, .g f)
  | .fcmp f => some (0x3A, .g f)
  | .fclass f => some (0x3B, .g f)
  | .cvt f => some (0x3C, .g f)
  | .frint f => some (0x3D, .g f)
  | .fscale f => some (0x3E, .g f)
  | .faddi f => some (0x3F, .i f)
  | .fmuli f => some (0x40, .i f)
  | .fexp2 f => some (0x46, .g f)
  | .red f => some (0x41, .g f)
  | .pfx f => some (0x42, .g f)
  | .lane f => some (0x43, .g f)
  | .vins f => some (0x44, .g f)
  | .vidx f => some (0x45, .g f)
  | .dsrc f => some (0x50, .g f)
  | .dsink f => some (0x51, .g f)
  | .dadd f => some (0x52, .g f)
  | .dsub f => some (0x53, .g f)
  | .dmul f => some (0x54, .g f)
  | .ddiv f => some (0x55, .g f)
  | .dsqrt f => some (0x56, .g f)
  | .dfma f => some (0x57, .g f)
  | .drelu f => some (0x58, .g f)
  | .dmax f => some (0x59, .g f)
  | .dmin f => some (0x5A, .g f)
  | .dthr f => some (0x5B, .g f)
  | .dexp2 f => some (0x5C, .g f)
  | .dacc f => some (0x5D, .g f)
  | .dred f => some (0x5E, .g f)
  | .dscl f => some (0x5F, .g f)
  | .tload f => some (0x60, .t f)
  | .tswap f => some (0x61, .t f)
  | .mmrow f => some (0x62, .t f)
  | .mmout f => some (0x63, .t f)
  | .mmzero f => some (0x64, .t f)
  | .tdir f => some (0x65, .t f)
  | .tclass f => some (0x66, .t f)
  | .tfill f => some (0x67, .t f)
  | .shape f => some (0x68, .t f)
  | .shapeq f => some (0x69, .t f)
  | .sbind f => some (0x70, .t f)
  | .sbar f => some (0x71, .t f)
  | .scan f => some (0x72, .t f)
  | .isect f => some (0x73, .t f)
  | .unionS f => some (0x74, .t f)
  | .repeatS f => some (0x75, .t f)
  | .sacc f => some (0x76, .t f)
  | .gather f => some (0x77, .t f)
  | .scatter f => some (0x78, .t f)
  | .scata f => some (0x79, .t f)
  | .ld f => some (0x80, .m f)
  | .st f => some (0x81, .m f)
  | .ldv f => some (0x82, .m f)
  | .stv f => some (0x83, .m f)
  | .ldw f => some (0x84, .m f)
  | .stf f => some (0x85, .m f)
  | .clr f => some (0x86, .m f)
  | .aadd f => some (0x87, .m f)
  | .amin f => some (0x88, .m f)
  | .amax f => some (0x89, .m f)
  | .aand f => some (0x8A, .m f)
  | .aor f => some (0x8B, .m f)
  | .axor f => some (0x8C, .m f)
  | .aswp f => some (0x8D, .m f)
  | .acas f => some (0x8E, .m f)
  | .afadd f => some (0x8F, .m f)
  | .fence f => some (0x90, .m f)
  | .mwait f => some (0x91, .m f)
  | .pref f => some (0x92, .m f)
  | .wback f => some (0x93, .m f)
  | .inval f => some (0x94, .m f)
  | .rput f => some (0x95, .m f)
  | .rget f => some (0x96, .m f)
  | .rfree f => some (0x97, .m f)
  | .rstat f => some (0x98, .m f)
  | .br f => some (0xA0, .c f)
  | .bri f => some (0xA1, .c f)
  | .call f => some (0xA2, .c f)
  | .calli f => some (0xA3, .c f)
  | .ret f => some (0xA4, .c f)
  | .spawn f => some (0xA5, .c f)
  | .retc f => some (0xA6, .c f)
  | .halt f => some (0xA7, .c f)
  | .yield f => some (0xA8, .c f)
  | .waypt f => some (0xA9, .c f)
  | .trap f => some (0xAA, .c f)
  | .brk f => some (0xAB, .c f)
  | .barw f => some (0xB0, .s f)
  | .bara f => some (0xB1, .s f)
  | .bart f => some (0xB2, .s f)
  | .semw f => some (0xB3, .s f)
  | .sema f => some (0xB4, .s f)
  | .semr f => some (0xB5, .s f)
  | .evt f => some (0xB6, .s f)
  | .copy f => some (0xC0, .t f)
  | .batch f => some (0xC1, .t f)
  | .waitb f => some (0xC2, .t f)
  | .launch f => some (0xC3, .t f)
  | .splice f => some (0xC4, .t f)
  | .cancelLaunch f => some (0xC5, .t f)
  | .cancelCopies f => some (0xC5, .t f)
  | .qstat f => some (0xC6, .t f)
  | .cstat f => some (0xC7, .t f)
  | .csrr f => some (0xD0, .s f)
  | .csrw f => some (0xD1, .s f)
  | .mailr f => some (0xD2, .s f)
  | .resume f => some (0xD3, .s f)
  | .abort f => some (0xD4, .s f)
  | .chload f => some (0xD5, .s f)
  | .chact f => some (0xD6, .s f)
  | .preempt f => some (0xD7, .s f)
  | .cksave f => some (0xD8, .s f)
  | .ckrest f => some (0xD9, .s f)
  | .tlbi f => some (0xDA, .s f)
  | .almr f => some (0xDB, .s f)
  | .almw f => some (0xDC, .s f)
  | .reckRdbudget f => some (0xDD, .s f)
  | .reckWrbudget f => some (0xDD, .s f)
  | .reckRdctr f => some (0xDD, .s f)
  | .sound f => some (0xDE, .s f)
  | .idle f => some (0xDF, .s f)
  | .attest f => some (0xE0, .s f)
  | .tokenArrivalActivate _ _ => none
  | .blockCommit _ => none
  | .circuitForward _ _ _ => none
  | .routerSteer _ _ _ => none
  | .routerMerge _ _ _ => none
  | .routerNdmerge _ _ _ _ => none
  | .routerCarry _ _ _ => none
  | .digitStep _ _ => none
  | .killMessage _ => none
  | .streamToken _ _ => none
  | .streamCommandStart _ _ => none
  | .streamCommandElement _ _ => none
  | .helmSbindActivation _ _ => none
  | .matrixRowAdd _ _ => none
  | .tloadComplete _ => none
  | .homeAccess _ _ => none
  | .claimResolve _ => none
  | .heldReadRelease _ _ => none
  | .mwaitEvaluate _ => none
  | .sliceRetry _ _ => none
  | .ringWaitResume _ => none
  | .logHeldWrite _ _ => none
  | .bankFill _ _ _ => none
  | .rdcFill _ _ => none
  | .walkComplete _ _ => none
  | .tlbiComplete _ _ => none
  | .spawnGrant _ => none
  | .barrierPhaseComplete _ => none
  | .evtDeliver _ => none
  | .queueRoomCapture _ => none
  | .copyStart _ => none
  | .copyChunk _ _ => none
  | .copyStamp _ _ => none
  | .conditionSatisfied _ _ => none
  | .admissionDecision _ => none
  | .gangReservation _ => none
  | .loadCommit _ => none
  | .regionComplete _ => none
  | .regionStalled _ => none
  | .energyWindow _ => none
  | .spliceSwitchover _ _ => none
  | .gatedQuiescence _ => none
  | .qboundExpiry _ => none
  | .waypointQuiescence _ => none
  | .handlerNotify _ => none
  | .cellClockGate _ => none
  | .cellWake _ => none
  | .reset => none
  | .functionReady _ _ => none
  | .helmStart _ => none
  | .functionFailure _ => none
  | .almwDurable => none
  | .hostMsgFrame _ => none
  | .sndreq _ => none
  | .dbgFrame _ => none
  | .dbgWaitOp _ => none
  | .irqFrame => none
  | .msgLaunch => none
  | .msgCopy => none
  | .msgWaitb => none
  | .msgWrite => none
  | .msgRead => none
  | .keyload => none
  | .keyrel => none
  | .podcfg => none
  | .msgAttest => none
  | .podAccessReceive _ _ _ _ => none
  | .podAck _ _ _ => none
  | .planeTimeout _ => none
  | .ulcmdExtend _ => none
  | .ulcmdDiscard _ => none
  | .accreg _ => none
  | .accmem _ => none
  | .haltr _ => none
  | .haltrQuiescent _ => none
  | .fwd _ => none
  | .fstep _ => none
  | .back _ => none
  | .bstep _ => none
  | .unseal _ => none
  | .seal _ => none
  | .statr _ => none
  | .cmderrClear _ _ => none
  | .debugRegisterWrite _ _ _ => none
  | .traceWindow _ => none
  | .traceSample _ => none
  | .cellPowerGate _ => none

/-- A word taken apart in a format: its fields, and which of them hold reserved codes (R213-R221). -/
structure Parsed where
  fmt : Fmt
  rsvdBit : Bool
  rsvdVal : Bool
  badShape : Bool
  badTarget : Bool
deriving DecidableEq, Repr

/-- Target bits as a target; a reserved code stands as a slot target until it is rejected (R214). -/
def targetOf (c : Nat) : Target := (Target.ofCode c).getD (.slot 0 .l)

/-- The fields of a word in a format (R216-R221). -/
def parseAs (k : Format) (w : Nat) : Parsed :=
  let pr := Pr.ofCode (fieldN w 55 54)
  let ty := Ty.ofCode (fieldN w 53 50)
  let sh := Sh.ofCode (fieldN w 49 48)
  let hi := fieldN w 21 11
  let lo := fieldN w 10 0
  let badHi := (Target.ofCode hi).isNone
  let badLo := (Target.ofCode lo).isNone
  match k with
  | .g =>
    { fmt := .g { pr := pr.getD .always, ty := ty, sh := sh.getD .scalar, rm := Rm.ofCode (fieldN w 47 45)
                  sat := fieldN w 44 44 == 1, kg := BitVec.ofNat 3 (fieldN w 43 41)
                  pd := BitVec.ofNat 6 (fieldN w 40 35), aux := BitVec.ofNat 13 (fieldN w 34 22)
                  ta := targetOf hi, tb := targetOf lo }
      rsvdBit := false, rsvdVal := pr.isNone, badShape := sh.isNone, badTarget := badHi || badLo }
  | .i =>
    { fmt := .i { pr := pr.getD .always, ty := ty, sh := sh.getD .scalar, imm := BitVec.ofNat 32 (fieldN w 47 16)
                  ipos := (Ipos.ofCode (fieldN w 15 14)).getD .low, ta := targetOf lo }
      rsvdBit := fieldN w 13 11 != 0, rsvdVal := pr.isNone || (Ipos.ofCode (fieldN w 15 14)).isNone
      badShape := sh.isNone, badTarget := badLo }
  | .m =>
    { fmt := .m { pr := pr.getD .always, ty := ty, sh := sh.getD .scalar, wv := BitVec.ofNat 5 (fieldN w 47 43)
                  pv := BitVec.ofNat 5 (fieldN w 42 38), nx := BitVec.ofNat 5 (fieldN w 37 33)
                  sc := (Sc.ofCode (fieldN w 32 30)).getD .die, ord := (Ord.ofCode (fieldN w 29 27)).getD .rlx
                  loc := fieldN w 26 25 == 1, off := BitVec.ofNat 14 (fieldN w 24 11), ta := targetOf lo }
      rsvdBit := false
      rsvdVal := pr.isNone || (Sc.ofCode (fieldN w 32 30)).isNone || (Ord.ofCode (fieldN w 29 27)).isNone
        || decide (2 ≤ fieldN w 26 25)
      badShape := sh.isNone, badTarget := badLo }
  | .c =>
    { fmt := .c { pr := pr.getD .always, ex := BitVec.ofNat 3 (fieldN w 53 51), ck := BitVec.ofNat 3 (fieldN w 50 48)
                  off := BitVec.ofNat 32 (fieldN w 47 16), aux := BitVec.ofNat 5 (fieldN w 15 11), ta := targetOf lo }
      rsvdBit := false, rsvdVal := pr.isNone, badShape := false, badTarget := badLo }
  | .t =>
    { fmt := .t { pr := pr.getD .always, ty := ty, sh := sh.getD .scalar, sr := BitVec.ofNat 8 (fieldN w 47 40)
                  pt := BitVec.ofNat 6 (fieldN w 39 34), aux := BitVec.ofNat 12 (fieldN w 33 22)
                  ta := targetOf hi, tb := targetOf lo }
      rsvdBit := false, rsvdVal := pr.isNone, badShape := sh.isNone, badTarget := badHi || badLo }
  | .s =>
    { fmt := .s { pr := pr.getD .always, sel := BitVec.ofNat 14 (fieldN w 53 40), aux := BitVec.ofNat 18 (fieldN w 39 22)
                  ta := targetOf hi, tb := targetOf lo }
      rsvdBit := false, rsvdVal := pr.isNone, badShape := false, badTarget := badHi || badLo }

/-- The judgement of a parsed word under an opcode: reasons 0x07 to 0x0D in order, then the instruction (R230). -/
def judge (op : Nat) (p : Parsed) : Except Reason Instr :=
  if p.rsvdBit then .error .rsvdbit
  else if p.rsvdVal then .error .rsvdval
  else if ruleOf op p.fmt = some .rsvdval then .error .rsvdval
  else if p.badShape then .error .shape
  else match ruleOf op p.fmt with
  | some r => .error r
  | none =>
    if p.badTarget then .error .target
    else match mkInstr op p.fmt with
    | some i => .ok i
    | none => .error .opfree

/-- The decoder: the instruction of a 64-bit word, or the first reason that rejects it on its own evidence (R223,
R230). -/
def decodeWord (w : Nat) : Except Reason Instr :=
  let op := fieldN w 63 56
  if op = 0 || 0xF0 ≤ op then .error .oprsvd
  else match formatOf op with
  | none => .error .opfree
  | some k => judge op (parseAs k w)

/-- The instruction of the first eight bytes, least significant first (R209, R4). -/
def decodeBytes (b : List Byte) : Except Reason Instr :=
  if b.length < 8 then .error .oprsvd else decodeWord (leNat (b.take 8))

/-- The word of an opcode with its fields (R216-R221). -/
def wordOf (op : Nat) (f : Fmt) : Nat :=
  op * 2 ^ 56 + f.pr.code * 2 ^ 54 +
  match f with
  | .g f => f.ty.code * 2 ^ 50 + f.sh.code * 2 ^ 48 + f.rm.code * 2 ^ 45 + bit f.sat * 2 ^ 44 + f.kg.toNat * 2 ^ 41
      + f.pd.toNat * 2 ^ 35 + f.aux.toNat * 2 ^ 22 + f.ta.code * 2 ^ 11 + f.tb.code
  | .i f => f.ty.code * 2 ^ 50 + f.sh.code * 2 ^ 48 + f.imm.toNat * 2 ^ 16 + f.ipos.code * 2 ^ 14 + f.ta.code
  | .m f => f.ty.code * 2 ^ 50 + f.sh.code * 2 ^ 48 + f.wv.toNat * 2 ^ 43 + f.pv.toNat * 2 ^ 38 + f.nx.toNat * 2 ^ 33
      + f.sc.code * 2 ^ 30 + f.ord.code * 2 ^ 27 + bit f.loc * 2 ^ 25 + f.off.toNat * 2 ^ 11 + f.ta.code
  | .c f => f.ex.toNat * 2 ^ 51 + f.ck.toNat * 2 ^ 48 + f.off.toNat * 2 ^ 16 + f.aux.toNat * 2 ^ 11 + f.ta.code
  | .t f => f.ty.code * 2 ^ 50 + f.sh.code * 2 ^ 48 + f.sr.toNat * 2 ^ 40 + f.pt.toNat * 2 ^ 34 + f.aux.toNat * 2 ^ 22
      + f.ta.code * 2 ^ 11 + f.tb.code
  | .s f => f.sel.toNat * 2 ^ 40 + f.aux.toNat * 2 ^ 22 + f.ta.code * 2 ^ 11 + f.tb.code

/-- The encoder: the word of an instruction of a block; none for an event of the hardware. -/
def encode (i : Instr) : Option Nat := (opFields i).map fun p => wordOf p.1 p.2

/-- An instruction's fields are those its opcode accepts, and it is the constructor that its sub-fields name. -/
def ruleAccepts (i : Instr) : Bool :=
  match opFields i with
  | some (op, f) => ruleOf op f == none && mkInstr op f == some i
  | none => true

/-- The host's view of the decoder: the bits of a table row, zero above them, laid out as bytes and decoded. -/
def decodeTableWord (nbits w : Nat) : Option Instr :=
  if 64 < nbits then none
  else match decodeBytes (leBytes (w % 2 ^ nbits) 8) with
  | .ok i => some i
  | .error _ => none

end Sys2Proof
end

