-- ==== Sys2Proof/Machine/Ops.lean ====
section
/-! DEFINITION. The named operations over the state: bytes of memory in canonical form, cells, tasks, ports, dies and
regions by key, registers through the window, tokens, and taking a fault with RESUME beside it. -/

namespace Sys2Proof.Machine

/-! ## Bytes -/

/-- The place of an issuer among those of one cycle: die, io0 to io3 after die 63, then helm core number or task (R453). -/
def Agent.rank : Agent → Nat
  | .helm c => (if c < 256 then c / 4 else 64 + (c - 256) / 2) * 4096 + c
  | .task d p t => d * 4096 + 2048 + p * 8 + t

/-- The value of a byte that nothing has written (R102 gives none for bring-up; DESIGN CHOICE, log entry 2). -/
def memDefault : Byte := 0

/-- One byte of a memory kept as a list of (address, byte) pairs with rising addresses. -/
def memGet : List Host.Cell → Nat → Byte
  | [], _ => memDefault
  | (k, b) :: r, a => if a < k then memDefault else if a = k then b else memGet r a

/-- The memory with one byte written; writing the default removes the entry. -/
def memPut : List Host.Cell → Nat → Byte → List Host.Cell
  | [], a, b => if b = memDefault then [] else [(a, b)]
  | (k, c) :: r, a, b =>
    if a < k then (if b = memDefault then (k, c) :: r else (a, b) :: (k, c) :: r)
    else if a = k then (if b = memDefault then r else (a, b) :: r)
    else (k, c) :: memPut r a b

/-- Addresses strictly above a bound and rising, and no entry equal to the default. -/
def memWfFrom : Nat → List Host.Cell → Bool
  | _, [] => true
  | lo, (k, b) :: r => lo ≤ k && b != memDefault && memWfFrom (k + 1) r

/-- The canonical form of a memory: addresses strictly rising, no entry equal to what an unlisted address reads as. -/
def Memory.wf (m : List Host.Cell) : Bool := memWfFrom 0 m

/-- `n` bytes from address `a`. -/
def memRead (m : List Host.Cell) (a n : Nat) : List Byte := (List.range n).map fun i => memGet m (a + i)

/-- Bytes written from address `a` on. -/
def memWrite : List Host.Cell → Nat → List Byte → List Host.Cell
  | m, _, [] => m
  | m, a, b :: r => memWrite (memPut m a b) (a + 1) r

/-- `n` bytes as a little-endian number (R4). -/
def memNat (m : List Host.Cell) (a n : Nat) : Nat := leNat (memRead m a n)

/-! ## Parts of the state by key -/

/-- The key of a cell: 256 * die + physical cell. -/
def cellKey (d p : Nat) : Nat := 256 * d + p

/-- A cell. -/
def State.cell (s : State) (k : Nat) : Cell := s.cells.get k .fresh
/-- The state with a cell replaced. -/
def State.setCell (s : State) (k : Nat) (c : Cell) : State := { s with cells := s.cells.put k c }
/-- The state with a cell changed. -/
def State.modCell (s : State) (k : Nat) (f : Cell → Cell) : State := s.setCell k (f (s.cell k))
/-- A configuration context of a cell (R151). -/
def Cell.cctx (c : Cell) (n : Nat) : CfgCtx := c.cctxs.get n .fresh
/-- A cell with a configuration context changed. -/
def Cell.modCctx (c : Cell) (n : Nat) (f : CfgCtx → CfgCtx) : Cell := { c with cctxs := c.cctxs.put n (f (c.cctx n)) }
/-- A tile of a cell (R56). -/
def Cell.tile (c : Cell) (n : Nat) : Tile := c.tiles.get n .fresh
/-- A cell with a tile changed. -/
def Cell.modTile (c : Cell) (n : Nat) (f : Tile → Tile) : Cell := { c with tiles := c.tiles.put n (f (c.tile n)) }
/-- A task context of a cell (R156). -/
def Cell.task (c : Cell) (t : Nat) : TaskCtx := c.tasks.get t .fresh

/-- A token put at the end of a latch in a cycle (R166). -/
def Cell.latchPut (c : Cell) (lk : Nat) (t : Token) (now : Nat) : Cell :=
  { c with latch := c.latch.put lk (c.latch.get lk [] ++ [t]), latchAt := c.latchAt.put lk (c.latchAt.get lk [] ++ [now]) }

/-- A cell with the tokens of its latches that pass a test, each with its time of arrival. -/
def Cell.keepLatch (c : Cell) (p : Nat → Token → Bool) : Cell :=
  { c with
    latch := c.latch.map fun e => (e.1, e.2.filter (p e.1))
    latchAt := c.latch.map fun e =>
      (e.1, ((List.range e.2.length).filter fun i => optB e.2[i]? (p e.1)).map fun i => ((c.latchAt.get e.1 [])[i]?).getD 0) }
/-- A helm core (R177). -/
def State.helm (s : State) (n : Nat) : Helm := s.helms.get n .fresh
/-- The state with a helm core changed. -/
def State.modHelm (s : State) (n : Nat) (f : Helm → Helm) : State := { s with helms := s.helms.put n (f (s.helm n)) }
/-- A memory port (R45, R168). -/
def State.port (s : State) (n : Nat) : Port := s.ports.get n .fresh
/-- The state with a memory port changed. -/
def State.modPort (s : State) (n : Nat) (f : Port → Port) : State := { s with ports := s.ports.put n (f (s.port n)) }
/-- A die; 64 to 67 stand for io0 to io3 (R379). -/
def State.die (s : State) (d : Nat) : Die := s.dies.get d .fresh
/-- The state with a die changed. -/
def State.modDie (s : State) (d : Nat) (f : Die → Die) : State := { s with dies := s.dies.put d (f (s.die d)) }
/-- The state with a region changed, if it exists. -/
def State.modRegion (s : State) (k : Nat) (f : Region → Region) : State :=
  match s.regions.find k with
  | some r => { s with regions := s.regions.put k (f r) }
  | none => s
/-- A copy queue (R356). -/
def State.copyq (s : State) (q : Nat) : CopyQ := s.copyqs.get q .fresh
/-- Is io0 ready, with its host port (R25, R449)? No ready bit of R435 stands for io0 as a whole: the model takes the host
port's, bit 2276, for both (DESIGN CHOICE, log entry 95). -/
def State.hostReady (s : State) : Bool := s.host.ready
/-- The state with a copy queue changed. -/
def State.modCopyq (s : State) (q : Nat) (f : CopyQ → CopyQ) : State := { s with copyqs := s.copyqs.put q (f (s.copyq q)) }
/-- The state with a debug session changed. -/
def State.modSession (s : State) (n : Nat) (f : Session → Session) : State :=
  { s with sessions := s.sessions.put n (f (s.sessions.get n .fresh)) }
/-- The state with an access in flight changed. -/
def State.modAcc (s : State) (id : Nat) (f : Access → Access) : State :=
  { s with accs := s.accs.map fun a => if a.id = id then f a else a }
/-- An access in flight. -/
def State.acc? (s : State) (id : Nat) : Option Access := s.accs.find? fun a => a.id == id

/-- The die of an agent; 64 to 67 for a helm core of io0 to io3 (R104, R435). -/
def Agent.die : Agent → Nat
  | .task d _ _ => d
  | .helm c => if c < 256 then c / 4 else 64 + (c - 256) / 2

/-- Is the agent a helm core? -/
def Agent.isHelm : Agent → Bool | .helm _ => true | .task .. => false

/-- The task context of an agent (R156, R177). -/
def State.task (s : State) : Agent → TaskCtx
  | .task d p t => (s.cell (cellKey d p)).task t
  | .helm c => (s.helm c).task

/-- The state with the task context of an agent changed. -/
def State.modTask (s : State) (a : Agent) (f : TaskCtx → TaskCtx) : State :=
  match a with
  | .task d p t => s.modCell (cellKey d p) fun c => { c with tasks := c.tasks.put t (f (c.task t)) }
  | .helm n => s.modHelm n fun h => { h with task := f h.task }

/-- The firing block of an agent. -/
def State.win (s : State) (a : Agent) : Option Win := (s.task a).win

/-- The state with the firing block of an agent changed. -/
def State.modWin (s : State) (a : Agent) (f : Win → Win) : State :=
  s.modTask a fun t => { t with win := t.win.map f }

/-- The configuration context an agent runs in; the fresh one for a helm core. -/
def State.cfgOf (s : State) : Agent → CfgCtx
  | .task d p t => let c := s.cell (cellKey d p); c.cctx (c.task t).cctx
  | .helm _ => .fresh

/-- The key of an agent's region; 0 for a helm core (RID 0 is never used, R376). -/
def State.regionOf (s : State) (a : Agent) : Nat := (s.cfgOf a).region

/-- The words of an agent's block store (R209, R177). -/
def State.blockStore (s : State) (a : Agent) : List Word :=
  match a with
  | .task .. => (s.cfgOf a).blocks
  | .helm n => (s.helm n).blocks

/-- Word `i` of the slots of the block at address `b` (R209, R262). -/
def slotWord (store : List Word) (b i : Nat) : Word := (store[2 * b + 2 + i]?).getD 0

/-- The header of the block at address `b` as a 128-bit number (R209). -/
def blockHeader (store : List Word) (b : Nat) : Nat :=
  ((store[2 * b]?).getD 0).toNat + 2 ^ 64 * ((store[2 * b + 1]?).getD 0).toNat

/-- Header fields (R210). -/
def hdrSize (h : Nat) : Nat := fieldN h 119 113 + 1
/-- WAVES of a header (R210). -/
def hdrWaves (h : Nat) : Nat := fieldN h 109 105
/-- URG of a header (R210). -/
def hdrUrg (h : Nat) : Bool := h.testBit 104
/-- LOG of a header (R210). -/
def hdrLog (h : Nat) : Bool := h.testBit 103
/-- WMASK of a header as a 40-bit mask: s0-s31, then v0-v7 (R210). -/
def hdrWmask (h : Nat) : Nat := fieldN h 95 56

/-- The instruction in a slot of the block an agent runs, by the decoder. -/
def State.instrAt (s : State) (a : Agent) (b i : Nat) : Except Reason Instr :=
  decodeWord (slotWord (s.blockStore a) b i).toNat

/-- The opcode and fields in a slot of the block an agent runs. -/
def State.fieldsAt (s : State) (a : Agent) (b i : Nat) : Option (Nat × Fmt) :=
  match s.instrAt a b i with
  | .ok ins => opFields ins
  | .error _ => none

/-! ## Registers (R169, R240) -/

/-- The physical number of s_i at a call depth (R169). -/
def physReg (depth i : Nat) : Nat := 16 * ((depth + i / 16) % 8) + i % 16

/-- A physical scalar register. -/
def TaskCtx.getP (t : TaskCtx) (n : Nat) : Word := if h : n < 128 then t.regs[n] else 0
/-- A task context with a physical scalar register written. -/
def TaskCtx.setP (t : TaskCtx) (n : Nat) (w : Word) : TaskCtx := { t with regs := t.regs.setIfInBounds n w }
/-- s_i through the current window (R169). -/
def TaskCtx.getS (t : TaskCtx) (i : Nat) : Word := t.getP (physReg t.depth i)
/-- A task context with s_i written through the current window (R169). -/
def TaskCtx.setS (t : TaskCtx) (i : Nat) (w : Word) : TaskCtx := t.setP (physReg t.depth i) w
/-- v_j (R240). -/
def TaskCtx.getV (t : TaskCtx) (j : Nat) : Payload := if h : j < 8 then t.vregs[j] else 0
/-- A task context with v_j written (R240). -/
def TaskCtx.setV (t : TaskCtx) (j : Nat) (v : Payload) : TaskCtx := { t with vregs := t.vregs.setIfInBounds j v }

/-- A register by its READ number: s0-s31, then v0-v7 (R246). -/
def TaskCtx.readReg (t : TaskCtx) (n : Nat) : Payload :=
  if n < 32 then (t.getS n).setWidth 2048 else t.getV (n - 32)
/-- A task context with a register written by its READ number (R240). -/
def TaskCtx.writeReg (t : TaskCtx) (n : Nat) (v : Payload) : TaskCtx :=
  if n < 32 then t.setS n (v.setWidth 64) else t.setV (n - 32) v

/-! ## Tokens -/

/-- A word token with the task's colour left at 0 until it enters a channel. -/
def wordTok (w : Nat) : Token := { kind := .word, stop := 0, color := 0, payload := BitVec.ofNat 2048 (w % 2 ^ 64) }
/-- A vector token of lanes whose width the instruction does not say, so 64 bits. -/
def vecTok (v : Nat) : Token := { kind := .vector, stop := 0, color := 0, payload := BitVec.ofNat 2048 v }
/-- A NULL token (R155). -/
def nullToken : Token := { kind := .null, stop := 0, color := 0, payload := 0 }
/-- A stop token Sk (R155). -/
def stopToken (k : Nat) : Token := { kind := .word, stop := k, color := 0, payload := 0 }
/-- Is it a NULL token? -/
def Token.isNull (t : Token) : Bool := t.kind == .null && t.stop == 0
/-- The low 64 bits of a payload, as a number. -/
def Token.w64 (t : Token) : Nat := t.payload.toNat % 2 ^ 64

/-- The TKIND code (R155). -/
def TKind.code : TKind → Nat | .word => 0 | .vector => 1 | .digit => 2 | .head => 3 | .scale => 4 | .null => 5 | .splice => 6

/-- An operand field of a slot. -/
def Slot.fld (sl : Slot) : Fld → FieldSt | .l => sl.l | .r => sl.r | .p => sl.p | .x => sl.x
/-- A slot with an operand field replaced. -/
def Slot.setFld (sl : Slot) (f : Fld) (v : FieldSt) : Slot :=
  match f with | .l => { sl with l := v } | .r => { sl with r := v } | .p => { sl with p := v } | .x => { sl with x := v }
/-- The oldest token of a field, whenever usable. -/
def Slot.tok? (sl : Slot) (f : Fld) : Option Token := (sl.fld f).q.head?.map (·.tok)

/-- A slot at the start of an attempt. -/
def Slot.fresh : Slot :=
  { l := .none, r := .none, p := .none, x := .none, st := .waiting, eng := .none, ord := 0 }

/-! ## The logical grid (R454) -/

/-- The logical row of a physical row, if it is not retired. -/
def Die.logRow (d : Die) (cy : Nat) : Option Nat :=
  if d.rows.contains cy then none else some (cy - (d.rows.filter (· < cy)).length)

/-- The physical row of a logical row. -/
def Die.physRow (d : Die) (r : Nat) : Option Nat :=
  ((List.range 16).filter fun y => !d.rows.contains y)[r]?

/-- Is a physical cell usable (R452)? -/
def Die.usable (d : Die) (p : Nat) : Bool := !d.rows.contains (p / 16) && !d.holes.contains p

/-- The number of logical rows. -/
def Die.nRows (d : Die) : Nat := 16 - d.rows.length

/-- The physical cell at a logical position, if it is usable. -/
def Die.cellAt (d : Die) (x y : Nat) : Option Nat :=
  match d.physRow y with
  | some cy => if x < 16 && d.usable (16 * cy + x) then some (16 * cy + x) else none
  | none => none

/-- The logical cell number of a physical cell: the usable cells before it (R454). -/
def Die.logical (d : Die) (p : Nat) : Nat := ((List.range p).filter d.usable).length

/-! ## Regions, events and faults -/

/-- The key of a region: 65536 * die + RID. -/
def regionKey (d rid : Nat) : Nat := 65536 * d + rid
/-- The die of a region key; a successor's key is 2^23 above its predecessor's until the last cell switches over. -/
def keyDie (k : Nat) : Nat := k / 65536 % 128
/-- The RID of a region key. -/
def keyRid (k : Nat) : Nat := k % 65536
/-- The region handle of a key (R361). -/
def handleOf (k : Nat) : Nat := keyDie k * 2 ^ 32 + keyRid k
/-- The key a region handle names; none when another bit is set (R361). -/
def keyOfHandle (w : Word) : Option Nat :=
  if field w 63 38 = 0 && field w 31 16 = 0 then some (regionKey (field w 37 32) (field w 15 0)) else none

/-- A region that holds nothing yet; its time counters stand at zero (R384, R390, R414, R420). -/
def Region.fresh (now : Nat) : Region :=
  { st := .loaded, lrec := 0, rank := 0, rect := 0, col0 := 0, row0 := 0, w := 1, h := 1, cells := [], gang := [], chart := 0
    phys := true, cfg := { phys := false, asid := 0, troot := 0, dset := 0, keyid := 0, priv := false }, ulog := 0, sg := 1
    stall := 1, qbound := 0, cksize := 0, fedge := 0, pool := 0, poolHeld := 0, spawnQ := [], spawnAt := 0, prio := 0, pe := false
    share := false, erate := 0, admitted := now, activated := now, savedCyc := 0, closedAt := none, everFired := false, windowAt := now
    victim := false
    moved := now, mail := none, mailRst := false, latched := [], fseq := 0, notifyWait := false, gate := false
    gateStart := 0, settled := false, full := false, dh := false
    hit := { kind := 0, num := 0, x := 0, y := 0, task := 0, fnum := 0, rk := 0 }, bps := [], wps := []
    trace := { ctl := 0, base := 0, size := 0, nf := 0, wptr := 0, stat := 0, lastCyc := 0, lastPos := none, sampled := none, kills := []
               elided := 0, lost := 0 }
    cur := List.replicate 16 0, prev := List.replicate 16 0, fillCells := [], fillDone := none, lastIn := 0, level := 0
    energy := 0, windowE := 0, banks := [], pins := [], nodes := [], digest := 0, unsealed := [], misses := 0, succ := none
    switched := [], saved := [] }

/-- The region has moved in this cycle (R174). -/
def State.moved (s : State) (k : Nat) : State := s.modRegion k fun r => { r with moved := s.cycle }

/-- An event word (R379). -/
def eventWord (kind stat k : Nat) : Word := word (kind * 2 ^ 56 + stat % 256 * 2 ^ 48 + handleOf k)

/-- A region is charged for `n` events of a kind of the cost table (R382). -/
def State.spend (s : State) (k ev n : Nat) : State :=
  s.modRegion k fun r => { r with energy := r.energy + n * Config.energyCost ev, windowE := r.windowE + n * Config.energyCost ev }

/-- The region whose mailbox, gate and debug halt hold for a region: its predecessor's while a splice is under way, when
its key is 2^23 above (R171, R407). -/
def State.mailKey (s : State) (k : Nat) : Nat :=
  if 2 ^ 23 ≤ k && (s.regions.find (k - 2 ^ 23)).isSome then k - 2 ^ 23 else k

/-- Post an event to the helm cores of a die; past 256 events it is held (R379). -/
def State.post (s : State) (d : Nat) (ev payload : Word) : State :=
  s.modDie d fun x =>
    if x.events.length < 256 && x.evHeld.isEmpty then { x with events := x.events ++ [(ev, payload)] }
    else { x with evHeld := x.evHeld ++ [(ev, payload)] }

/-- The notification word of a region's record (R394). -/
def notifyWord (k : Nat) (r : Region) (fclass : Nat) : Word := word (fclass * 2 ^ 56 + r.rank * 2 ^ 40 + handleOf k)

/-- Fault classes (R385). -/
def fcNotMapped : Nat := 0x01
def fcPermission : Nat := 0x02
def fcDoubleAssign : Nat := 0x03
def fcAlign : Nat := 0x04
def fcPoison : Nat := 0x05
def fcNoExit : Nat := 0x06
def fcWmask : Nat := 0x07
def fcShape : Nat := 0x08
def fcSpill : Nat := 0x09
def fcTrap : Nat := 0x0A
def fcBrk : Nat := 0x0B
def fcWatch : Nat := 0x0C
def fcLogFull : Nat := 0x0D
def fcStalled : Nat := 0x0E
def fcCopyErr : Nat := 0x0F
def fcLinkDown : Nat := 0x10
def fcLoadUe : Nat := 0x11
def fcFetch : Nat := 0x12

/-- The node entry of a slot (R416): entry words with their index, position in the rectangle. -/
def Region.nodeOf (r : Region) (x y task baddr slot : Nat) : Option (List Word) :=
  (r.nodes.find? fun e =>
    e.1 % 128 == slot &&
    (match e.2 with
     | w0 :: _ => field w0 54 51 == y && field w0 50 47 == x && field w0 46 44 == task && field w0 43 32 == baddr
     | [] => false)).map (·.2)

/-- Node number, index count and loop indices of a slot as the mailbox and the trace record them (R416). -/
def State.nodeInfo (s : State) (a : Agent) (slot : Nat) : Nat × List Nat :=
  match a with
  | .helm _ => (0xFFFFFFFF, [])
  | .task d p t =>
    let rk := s.regionOf a
    match s.regions.find rk, s.win a with
    | some r, some w =>
      let die := s.die d
      let x := p % 16 - r.col0
      let y := (die.logRow (p / 16)).getD 0 - r.row0
      match r.nodeOf x y t w.baddr slot with
      | some (w0 :: w1 :: _) =>
        let n := field w0 57 55
        (field w0 31 0, (List.range n).map fun j =>
          let src := fieldN w1.toNat (8 * j + 7) (8 * j)
          if src.testBit 7 then ((s.task a).getS (src % 32)).toNat % 2 ^ 32 else 0)
      | _ => (0xFFFFFFFF, [])
    | _, _ => (0xFFFFFFFF, [])

/-- The fault record of an agent's block (R390); `slot` is none where no instruction is at fault. -/
def State.faultOf (s : State) (a : Agent) (slot : Option Nat) (fclass detail addr : Nat) : FaultRec :=
  let t := s.task a
  let w := t.win
  let sl := match w, slot with
    | some w, some i => w.slots[i]?
    | _, _ => none
  let nd := match slot with | some i => s.nodeInfo a i | none => (0, [])
  let loc := match a with | .task d p k => (d, p, k) | .helm c => (a.die, c, 0)
  { fclass := fclass, detail := detail, strm := false, spl := false, cctx := t.cctx, task := loc.2.2
    slot := slot.getD 0, baddr := (w.map (·.baddr)).getD 0, die := loc.1, pcell := loc.2.1, color := t.color
    config := match w, slot with
      | some w, some i => slotWord (s.blockStore a) w.baddr i
      | _, _ => 0
    addr := word addr, node := nd.1, nidx := nd.2.length, idx := nd.2
    fx := match sl with
      | some sl => [sl.tok? .l, sl.tok? .r, sl.tok? .p, sl.tok? .x]
      | none => [none, none, none, none]
    bseq := (w.map (·.seq)).getD 0
    cyc := match s.regions.find (s.regionOf a) with
      | some r => s.cycle - r.activated - r.savedCyc
      | none => s.cycle
    xinfo := 0, acc := none
    chart := match s.regions.find (s.regionOf a) with | some r => r.chart | none => 0 }

/-- The record of a fault of a region with no block (R390): the words that name one are zero. It stands in the region's first cell
(DESIGN CHOICE, log entry 121). -/
def State.bareRecord (s : State) (k fclass detail addr : Nat) : FaultRec :=
  let r := s.regions.find k
  let at0 := ((r.bind fun r => r.cells.head?).getD (keyDie k, 0))
  let cctx := (((s.cell (cellKey at0.1 at0.2)).cctxs.find? fun e => e.2.region = k && e.2.st != .free).map (·.1)).getD 0
  { fclass := fclass, detail := detail, strm := false, spl := false, cctx := cctx, task := 0, slot := 0, baddr := 0, die := at0.1, pcell := at0.2
    color := 0, config := 0, addr := word addr, node := 0, nidx := 0, idx := [], fx := [none, none, none, none], bseq := 0
    cyc := match r with | some r => s.cycle - r.activated - r.savedCyc | none => s.cycle
    xinfo := 0, acc := none, chart := match r with | some r => r.chart | none => 0 }

/-- Does a fault stand, recorded or latched, in the mailbox that serves a region? -/
def State.stands (s : State) (k : Nat) (f : FaultRec) : Bool :=
  match s.regions.find (s.mailKey k) with | some r => r.mail == some f || r.latched.contains f | none => false

/-- Does the first record rank before the second among faults of one cycle (R388)? -/
def faultBefore (die : Die) (a b : FaultRec) : Bool :=
  let ka := (die.logical a.pcell * 8 + a.task) * 128 + a.slot
  let kb := (die.logical b.pcell * 8 + b.task) * 128 + b.slot
  a.cyc < b.cyc || (a.cyc = b.cyc && ka < kb)

/-! ## Stored bytes and keys (R445) -/

/-- A stored byte as an unkeyed access sees it: the ciphertext where its line carries a KTAG (R445). -/
def State.storedByte (s : State) (pa : Nat) : Byte :=
  let line := pa / 128
  let k := s.ktag.get line 0
  if k = 0 then memGet s.mem pa
  else
    match s.keys.find k with
    | some e => BitVec.ofNat 8 (Config.xtsEncrypt e.xts line (memNat s.mem (line * 128) 128) >>> (8 * (pa % 128)))
    | none => BitVec.ofNat 8 (Config.xtsEncrypt 0 line (memNat s.mem (line * 128) 128) >>> (8 * (pa % 128)))

/-- A byte as an access under key `k` sees it; 0 for an unkeyed access (R445). -/
def State.byteAs (s : State) (k pa : Nat) : Byte :=
  if s.ktag.get (pa / 128) 0 = k then memGet s.mem pa else s.storedByte pa

/-- `n` bytes under key `k`, as a little-endian number. -/
def State.natAs (s : State) (k pa n : Nat) : Nat := leNat ((List.range n).map fun i => s.byteAs k (pa + i))

/-- A line made to hold what an access under key `k` sees of it, with that KTAG (R445). -/
def State.rekey (s : State) (k line : Nat) : State :=
  if s.ktag.get line 0 = k then s
  else
    let bs := (List.range 128).map fun i => s.byteAs k (line * 128 + i)
    { s with mem := memWrite s.mem (line * 128) bs, ktag := if k = 0 then s.ktag.drop line else s.ktag.put line k }

/-- The words a byte range touches. -/
def wordsOf (pa n : Nat) : List Nat := if n = 0 then [] else (List.range ((pa + n - 1) / 8 + 1 - pa / 8)).map (pa / 8 + ·)
/-- The words a byte range covers wholly. -/
def wholeWords (pa n : Nat) : List Nat := (wordsOf pa n).filter fun w => pa ≤ 8 * w && 8 * w + 8 ≤ pa + n
/-- The lines a byte range touches. -/
def linesOf (pa n : Nat) : List Nat := if n = 0 then [] else (List.range ((pa + n - 1) / 128 + 1 - pa / 128)).map (pa / 128 + ·)

/-- The unjudged entry (R86). -/
def entryNone : Word := 0xFE00000000000000

/-- The lines that a write touches take its key (R445). Bytes that it leaves alone read otherwise then: the entry of their tile becomes
unjudged (R84). -/
def State.rekeyFor (s : State) (k pa n : Nat) : State :=
  (linesOf pa n).foldl (fun s l =>
    if s.ktag.get l 0 = k then s
    else
      let s := s.rekey k l
      if pa ≤ 128 * l && 128 * l + 128 ≤ pa + n then s else { s with entries := s.entries.put (l / 32) entryNone }) s

/-- The tiles a byte range touches. -/
def tilesOf (pa n : Nat) : List Nat := if n = 0 then [] else (List.range ((pa + n - 1) / 4096 + 1 - pa / 4096)).map (pa / 4096 + ·)

/-- Lines without the marks of those that a byte range covers (R82). -/
def unmarked (l : List Nat) (pa n : Nat) : List Nat := l.filter fun k => !(pa ≤ 128 * k && 128 * k + 128 ≤ pa + n)

/-- Bytes that a unit of the package writes at their home on its own account, under key `k`: the entries of the tiles touched
become unjudged, as by an untracked write (R82, R84, R88, R90, R445). -/
def State.plainWrite (s : State) (k pa : Nat) (bs : List Byte) : State :=
  let s := (linesOf pa bs.length).foldl (fun s l => s.rekey k l) s
  { s with mem := memWrite s.mem pa bs, poison := unmarked s.poison pa bs.length
           entries := (tilesOf pa bs.length).foldl (fun t e => t.put e entryNone) s.entries }

/-- A line is marked poisoned, and its tile's entry becomes unjudged (R82, R90). -/
def State.markLine (s : State) (line : Nat) : State :=
  { s with poison := setAdd s.poison line, entries := s.entries.put (line / 32) entryNone }

/-- A soft error in a home line (R82): corrected and counted, or the line is marked. -/
def State.homeError (s : State) (pa : Nat) (corrected : Bool) : State :=
  let s := { s with softCount := s.softCount + 1 }
  if corrected then s else s.markLine (pa / 128)

/-- The mark of an error at an offset of a tile (R82): on its line, or in a bank on the bank line that stands there. Which place a
bank line has in its tile the spec does not say: the lines stand in order of address (DESIGN CHOICE, log entry 119). -/
def Tile.strike (t : Tile) (off : Nat) : Tile :=
  if t.owner.isSome && field t.desc 63 62 = 3 then
    match t.lines[off / 128]? with
    | some (k, l) => { t with lines := t.lines.put k { l with poison := true } }
    | none => t
  else { t with poison := setAdd t.poison (off / 128) }

/-- A soft error in a memory tile (R82). -/
def State.tileError (s : State) (cell tile off : Nat) (corrected : Bool) : State :=
  let s := { s with softCount := s.softCount + 1 }
  if corrected || 6 ≤ tile || 65536 ≤ off then s
  else s.modCell cell fun c => c.modTile tile fun t => t.strike off

/-! ## The pointer blocks of a log (R135) -/

/-- An active log. -/
def State.log (s : State) (ln : Nat) : Option ULog := if ln = 0 then none else s.logs.find ln

/-- Words of the root-table entry of a die (R135). -/
def State.logDie (s : State) (ln d i : Nat) : Word :=
  match s.log ln with
  | some l => word (memNat s.mem (l.root + 64 + 32 * d + 8 * i) 8)
  | none => 0

/-- Write the pointer blocks (R135), under the key of the log's context (R148). -/
def State.logPointers (s : State) (ln : Nat) : State :=
  match s.log ln with
  | none => s
  | some l => l.subs.foldl (fun s e =>
      let a := field (s.logDie ln (e.1 / 64) 0) 51 16 * 65536 + 16 * (e.1 % 64)
      s.plainWrite l.key a (leBytes (e.2.head % 2 ^ 32 + 2 ^ 32 * (e.2.tail % 2 ^ 32)) 8 ++ leBytes (e.2.replayEnd % 2 ^ 32) 8)) s

/-- The log number of a region. -/
def State.logOf (s : State) (k : Nat) : Nat := match s.regions.find k with | some r => field r.ulog 63 56 | none => 0

/-- A record reaches a region's mailbox, or stays latched behind the one it holds (R388, R390, R393). `quiet` is a
watchpoint with DBG, which notifies no handler (R418). Among faults of one cycle the record is the lowest cell's, task's and slot's, so that no notification leaves
in the cycle that took the record. The slices write their pointers when the context halts (R135). -/
def State.report (s : State) (k : Nat) (f : FaultRec) (quiet : Bool) : State :=
  let s := s.logPointers (s.logOf k)
  s.modRegion (s.mailKey k) fun r =>
    match r.mail with
    | none => { r with mail := some f, mailRst := false, notifyWait := !quiet, fseq := r.fseq + 1, mailAt := s.cycle }
    | some g =>
      if r.mailAt = s.cycle && faultBefore (s.die (keyDie k)) f g then { r with mail := some f, latched := r.latched ++ [g], notifyWait := !quiet }
      else { r with latched := r.latched ++ [f] }

/-- In place of an opcode: an element read that a slice holds until its words are full, or has returned (R74). -/
def opRead : Nat := 0x1B7

/-- Is a part on its way to its home in another package, to perform there? A claim that goes there is not: `old` is 1 where the part of
a store does not go for its claim. -/
def AUnit.away (u : AUnit) : Bool := match u.st with | .pod p _ => p < 32 | _ => false

/-- Has an access that performs before its block's commit, an RMW or a store that one forces, left for another package (R108)? It
performs there whatever happens to its block. -/
def Access.gone (x : Access) : Bool :=
  if x.kind == .rmw || (x.kind == .ring && x.op != 0x98) then x.units.any fun u => u.away && u.old ≠ 4
  else x.kind == .presence && x.units.any AUnit.away || x.kind == .write && x.units.any fun u => u.away && u.old = 1

/-- Is an access one of a block attempt's own that has not performed, and that a fault withdraws (R108, R309)? -/
def withdrawn (a : Agent) (seq : Nat) (x : Access) : Bool := x.agent == a && x.seq == seq && !x.committed && (x.kind != .elem || x.op = opRead) && !x.gone

/-- PKG of a physical address (R29). -/
def paPkg (pa : Nat) : Nat := pa / 2 ^ 43
/-- DIE of a physical address (R29). -/
def paDie (pa : Nat) : Nat := pa / 2 ^ 37 % 64
/-- OFF of a physical address (R29). -/
def paOff (pa : Nat) : Nat := pa % 2 ^ 37

/-- The model's own numbers, in place of an opcode: a bank's write-back to another package. -/
def opBack : Nat := 0x1B0
/-- The fill of a bank line from another package. -/
def opFill : Nat := 0x1B1
/-- A held write of no task. -/
def opHeld : Nat := 0x1B2
/-- A combining write of a copy to another package, an RMW there. -/
def opAcc : Nat := 0x1B3

/-- The agent that stands for accesses of no task: a copy engine's, the fetch agent's, a host program's. -/
def noAgent : Agent := .helm 100000
/-- An ONCE claim that its block has let go of, at a home in another package. -/
def opRelease : Nat := 0x1B4
/-- The same, of a claim that has not been answered yet. -/
def opUnclaim : Nat := 0x1B5
/-- A write of the trace writer to another package. -/
def opTrace : Nat := 0x1B6
/-- A claim of another package that waits at this one (R125). -/
def opClaim : Nat := 0x1B8

/-- The live lanes of link `j`, or of pod port `j` - 116, as applied at bring-up (R452). -/
def State.linkLanes (s : State) (j : Nat) : Nat := s.links.getD j 0

/-- The plane of an access to another package (R436); none when no plane is left. -/
def State.planeFor (s : State) (pa : Nat) : Option Nat :=
  let m := (s.podTable[paPkg pa]?).getD 0
  let l := (bitsOf m 32).filter fun p => s.readyBits.contains (2244 + p) && s.linkLanes (116 + p) != 0 && !s.planesOut.contains p
  if l.isEmpty then none else l[pa % 2 ^ 43 / 128 % l.length]?

/-- An access of no task for parts at homes in another package, under a number of the model's own; `about` says whose it is. -/
def State.openUnits (s : State) (op : Nat) (us : List AUnit) (about : Nat := 0) : State :=
  if us.isEmpty then s
  else
    let x : Access :=
      { id := s.nextAcc, agent := noAgent, seq := 0, baddr := 0, log := false, wave := none, slot := 0, op := op, kind := .elem
        ty := .i8, vec := false, sc := 3, ord := .rlx, loc := false, addr := about, data := 0, exp := 0, committed := true, outs := [], units := us }
    { s with accs := s.accs ++ [x], nextAcc := s.nextAcc + 1 }

/-- Does a part wait for a plane, none being left? -/
def UnitSt.held32 (u : UnitSt) : Bool := match u with | .pod p _ => p == 32 | _ => false

/-- A part on its way to another package. -/
def State.onPod (s : State) (u : AUnit) : AUnit := { u with st := .pod ((s.planeFor u.pa).getD 32) s.cycle }

/-- The ONCE claims of some uncommitted stores at homes in other packages are let go: one that was granted is released there, one not
answered yet once it is (R73, R437). -/
def State.letClaims (s : State) (p : Access → Bool) : State :=
  s.accs.foldl (fun s x =>
    if !(p x && x.kind == .write && !x.committed && !x.loc) then s
    else
      let far (u : AUnit) : Bool := u.attr.kind = 1 && paPkg u.pa ≠ s.pkgNum
      let asked (u : AUnit) : Bool := match u.st with | .pod _ _ => true | _ => false
      let s := s.modAcc x.id fun x => { x with units := x.units.map fun u => if far u then { u with st := .waiting } else u }
      (s.openUnits opRelease ((x.units.filter fun u => far u && u.st == .issued).map s.onPod)).openUnits opUnclaim (x.units.filter fun u => far u && asked u)) s

/-- Release the ONCE claims of a block, leaving the accesses that waited on them to be judged again (R73, R125,
R309). -/
def State.releaseClaims (s : State) (a : Agent) (seq : Nat) : State :=
  { s.letClaims (fun x => x.agent == a && x.seq == seq) with claims := s.claims.filter fun c => !(c.agent == a && c.seq == seq) }

/-- Return a colour to the pool of a region (R163, R271). -/
def State.freeColour (s : State) (k col : Nat) : State :=
  s.modRegion k fun r => { r with poolHeld := if r.poolHeld.testBit col then r.poolHeld - 2 ^ col else r.poolHeld }

/-- The colours that SPAWNs of a block took (R271): the words recorded for their slots. -/
def State.spawnColours (s : State) (a : Agent) (w : Win) : List Nat :=
  w.kept.filterMap fun e =>
    match s.fieldsAt a w.baddr (e.1 % 128), e.2 with
    | some (0xA5, _), t :: _ => some (t.w64 % 64)
    | _, _ => none

/-- Does a stream instruction keep its place through a re-execution (R353)? -/
def keepsPlace (op : Nat) : Bool := 0x70 ≤ op && op ≤ 0x79

/-- How many tokens a field has received in an attempt from instructions that fire again in the next one (R161). -/
def State.remade (s : State) (a : Agent) (w : Win) (i : Nat) (x : Fld) : Nat :=
  (List.range w.slots.length).foldl (fun n j =>
    match w.slots[j]?, s.fieldsAt a w.baddr j with
    | some sl, some (op, f) =>
      if keepsPlace op || sl.st == .waiting || sl.st == .dead || sl.st == .pending then n
      else n + (f.targets.filter fun t => match t with | .slot k y => k.val == i && y == x | _ => false).length
    | _, _ => n) 0

/-- The slot of a stream instruction that has fired, in the next attempt: it keeps its engine and the tokens of its
stream fields, and what is made again of those it has received is passed over (R353). -/
def State.keptSlot (s : State) (a : Agent) (w : Win) (i op : Nat) (sl : Slot) : Slot :=
  let again (x : Fld) (fs : FieldSt) : FieldSt := { fs with skip := fs.skip + s.remade a w i x }
  if op = 0x70 || op = 0x71 then { Slot.fresh with st := sl.st, ord := sl.ord }
  else { sl with l := again .l sl.l, r := if streamField op .r then again .r sl.r else .none, p := .none
                 x := .none }

/-- Slots with the tokens that stream instructions have sent to instructions that begin afresh (R353). `kept` lists
them by slot for TA and by 128 + slot for TB. -/
def State.refill (s : State) (a : Agent) (w : Win) (sls : List Slot) : List Slot :=
  w.kept.foldl (fun sls e =>
    match s.fieldsAt a w.baddr (e.1 % 128) with
    | some (op, f) =>
      if !keepsPlace op then sls
      else
        match (if e.1 < 128 then f.ta else f.tb) with
        | .slot n x =>
          -- a target that keeps its place has what it received
          let kept : Bool := match s.fieldsAt a w.baddr n.val with
            | some (o, _) => keepsPlace o && (match w.slots[n.val]? with | some (sl : Slot) => sl.st != SlotSt.waiting | none => false)
            | none => false
          if kept then sls
          else listModify sls n.val fun (sl : Slot) =>
            sl.setFld x { got := true, q := (sl.fld x).q ++ e.2.map fun t => { tok := t, at0 := 0 }, skip := 0 }
        | _ => sls
    | none => sls) sls

/-- The slots of an attempt that begins again: stream instructions that had fired keep their engines and tokens
(R353), a CHL field keeps the tokens of its group (R301), everything else starts afresh (R161). -/
def State.restartSlots (s : State) (a : Agent) (w : Win) : List Slot :=
  s.refill a w <| (List.range w.slots.length).map fun i =>
    let sl := (w.slots[i]?).getD .fresh
    match s.fieldsAt a w.baddr i with
    | some (op, f) =>
      if keepsPlace op && sl.st != .waiting then s.keptSlot a w i op sl
      else if (chlOf op f).isSome then { Slot.fresh with l := { sl.l with got := !sl.l.q.isEmpty, skip := if digitField op f .l then sl.l.q.length else sl.l.skip } }
      else .fresh
    | none => .fresh

/-- The flags that the elements of stream instructions have raised (R351, R353). -/
def State.keptFlags (s : State) (a : Agent) (w : Win) : Nat :=
  w.keptFl.foldl (fun fl e => match s.fieldsAt a w.baddr (e.1 % 128) with
    | some (op, _) => if keepsPlace op then fl ||| e.2 else fl
    | none => fl) 0

/-- Does the record of an instruction outlast a fault (R108, R161, R327): not a SPAWN's, and a memory operation's only
after the first RMW of the block has performed. -/
def keptOver (op : Nat) (pnr : Bool) : Bool :=
  op != 0xA5 && (pnr || !((0x80 ≤ op && op ≤ 0x98) || (0xB3 ≤ op && op ≤ 0xB5)))

/-- The start of a block's attempt after a fault: the same block, number and kept tokens (R161). -/
def State.restartWin (s : State) (a : Agent) (w : Win) : Win :=
  { w with slots := s.restartSlots a w, regs := [], flags := s.keptFlags a w, outs := [], exit := none, count := 0, ops := [], recs := []
           kept := w.kept.filter fun e => match s.fieldsAt a w.baddr (e.1 % 128) with
             | some (op, _) => keptOver op w.pnr
             | none => false
           stopped := false, again := true }

/-- The matrix unit without the row and the fetch of a task's block that has faulted (R335). -/
def Matrix.abandon (m : Matrix) (t seq : Nat) : Matrix :=
  { m with row := if m.row == some t then none else m.row
           load := match m.load with
             | some l => if l.task = t && l.seq = seq then none else some l
             | none => none }

/-- TAKING A FAULT (R161, R309, R385-R388). The task is HALTED, its successor is discarded, reads of the block that
have not performed are withdrawn and its claims released; colours of its SPAWNs return to the pool; the record goes
to the region's mailbox. On a helm core there is no handler: it stops, and its ready bit clears (R177). -/
def State.takeFault (s : State) (a : Agent) (f : FaultRec) : State :=
  let w := s.win a
  let seq := (w.map (·.seq)).getD 0
  let k := s.regionOf a
  let cols := match w with | some w => s.spawnColours a w | none => []
  let s := s.modTask a fun t => { t with st := .halted, succ := none, fault := some f }
  let s := { s with accs := s.accs.filter fun x => !withdrawn a seq x
                    kills := s.kills.filter fun m => !(m.agent == a && m.seq == seq) }
  let s := s.releaseClaims a seq
  match a with
  | .task d p t =>
    let s := s.modCell (cellKey d p) fun c => { c with mat := c.mat.abandon t seq }
    let s := cols.foldl (fun s c => s.freeColour k c) s
    let s := s.modRegion k fun r => { r with spawnQ := r.spawnQ.filter fun e => e.1 != a }
    s.report k f false
  | .helm n =>
    let s := s.modHelm n fun h => { h with ready := false }
    { s with readyBits := setDel s.readyBits (2277 + n) }

/-- Does a task stand at a BRK or a watchpoint: what had issued completes, and nothing fires (R270, R417)? -/
def State.paused (s : State) (a : Agent) : Bool :=
  optB (s.win a) (fun w => w.stopped) && optB (s.task a).fault fun f => f.fclass = fcBrk || f.fclass = fcWatch

/-- A stop (BRK, WATCH): the task fires nothing more and its window is kept as it stands (R270, R387). -/
def State.takeStop (s : State) (a : Agent) (f : FaultRec) (quiet : Bool) : State :=
  let s := s.modTask a fun t => { t with st := .halted, fault := some f, win := t.win.map fun w => { w with stopped := true } }
  match a with
  | .task .. => s.report (s.regionOf a) f quiet
  | .helm n =>
    let s := s.modHelm n fun h => { h with ready := false }
    { s with readyBits := setDel s.readyBits (2277 + n) }

/-- A fault that halts no task: a stream element, a held write or access, a region (R354, R387). -/
def State.takeHeld (s : State) (k : Nat) (f : FaultRec) : State := s.report k f false

/-- The window of a block that becomes the firing block (R157): its slots empty. -/
def State.openWin (s : State) (a : Agent) (baddr seq : Nat) : Win :=
  let n := hdrSize (blockHeader (s.blockStore a) baddr)
  { baddr := baddr, seq := seq, slots := List.replicate n .fresh, regs := [], flags := 0, outs := [], exit := none
    taken := [], kept := [], keptFl := [], ops := [], count := 0, rmode := (s.task a).rmode, gen0 := (s.task a).gen, pnr := false, stopped := false, again := false }

/-- A block becomes the firing block of a task and takes the next block number of its cell (R157). -/
def State.startBlock (s : State) (a : Agent) (baddr : Nat) : State :=
  match a with
  | .task d p _ =>
    let k := cellKey d p
    let q := (s.cell k).seq + 1
    let s := s.modCell k fun c => { c with seq := q }
    let w := s.openWin a baddr q
    s.modTask a fun t => { t with st := .active, win := some w, succ := none, after := none }
  | .helm n =>
    let q := (s.helm n).seq + 1
    let s := s.modHelm n fun h => { h with seq := q }
    let w := s.openWin a baddr q
    s.modTask a fun t => { t with st := .active, win := some w, succ := none, after := none }

/-- An access whose failing parts are sent again (R387); one that went for its claim claims again. -/
def Access.retry (x : Access) : Access :=
  { x with units := x.units.map fun u => match u.st with
      | .faulted _ _ => if u.old = 2 then { u with st := .waiting, old := 0 } else { u with st := .issued }
      | _ => u }

/-- A slot whose stream engine holds at a failing element no more (R354). -/
def Slot.unhold (sl : Slot) : Slot :=
  match sl.eng with | .stream e => { sl with eng := .stream { e with held := false } } | _ => sl

/-- A port whose commands held at a fault are tried again (R354). -/
def Port.retry (p : Port) (f : FaultRec) : Port :=
  { p with cmds := p.cmds.map fun c => if optB c.fault (· == f) then { c with fault := none } else c }

/-- What RESUME does for one fault (R387, R396). -/
def State.retryFault (s : State) (f : FaultRec) : State :=
  let a := Agent.task f.die f.pcell f.task
  if f.strm then
    -- the element is tried again (R354)
    let s := s.modWin a fun w => { w with slots := listModify w.slots f.slot Slot.unhold }
    { s with ports := s.ports.map fun e => (e.1, e.2.retry f) }
  else if f.fclass = fcTrap && f.detail < 256 then
    match (s.task a).after with
    | some b => (s.modTask a fun t => { t with fault := none }).startBlock a b
    | none => s
  else if f.fclass = fcBrk || f.fclass = fcWatch then
    s.modTask a fun t => { t with st := .active, fault := none, win := t.win.map fun w => { w with stopped := false } }
  else if f.fclass = fcLogFull || f.fclass = fcStalled || f.fclass = fcFetch then s
  else if f.fclass = fcLinkDown then
    match f.acc with
    | some id => s.modAcc id fun x => x.retry
    | none =>
      -- a TLOAD sends its reads again
      s.modCell (cellKey f.die f.pcell) fun c =>
        { c with mat := { c.mat with load := c.mat.load.map fun l => if l.task = f.task then { l with down := false } else l } }
  else
    match s.win a with
    | some w =>
      let w' := s.restartWin a w
      s.modTask a fun t => { t with st := .active, fault := none, win := some w' }
    | none => s

/-- The bank fills of a die that another package refused are asked for again. -/
def State.askFills (s : State) (d : Nat) : State :=
  let line (l : BankLine) : BankLine := { l with bad := none }
  let tile (t : Tile) : Tile := { t with lines := t.lines.map fun e => (e.1, line e.2) }
  let cell (c : Cell) : Cell := { c with tiles := c.tiles.map fun e => (e.1, tile e.2) }
  { s with cells := s.cells.map fun e => if e.1 / 256 = d then (e.1, cell e.2) else e }

/-- RESUME, the return from a fault (R396): the mailbox is cleared, the recorded fault and every latched one are
retried, and stall detection starts again from zero. -/
def State.resumeRegion (s : State) (k : Nat) : State :=
  match s.regions.find k with
  | none => s
  | some r =>
    let fs := (match r.mail with | some f => [f] | none => []) ++ r.latched
    let s := s.modRegion k fun r => { r with mail := none, mailRst := false, latched := [], moved := s.cycle, notifyWait := false }
    fs.foldl State.retryFault (s.askFills (keyDie k))

/-- Is the region frozen, that is, does its mailbox hold a record (R388)? -/
def Region.frozen (r : Region) : Bool := r.mail.isSome

/-- May the agents of a region issue: DH and V are 0 (R413; log entry 70), and no full save has begun (R400)? What has issued, streams,
ports and commits run on (R387). -/
def State.mayRun (s : State) (k : Nat) : Bool :=
  match s.regions.find k, s.regions.find (s.mailKey k) with
  | some r, some m => (r.st == .active || r.st == .gating) && !m.full && !m.dh && !m.frozen
  | _, _ => false

/-- The configuration context of a cell that a region holds. -/
def State.cctxOn (s : State) (key k : Nat) : Option Nat :=
  ((s.cell key).cctxs.find? fun e => e.2.region = k && e.2.st != .free).map (·.1)

end Sys2Proof.Machine
end

