-- ==== Sys2Proof/Machine/Operands.lean ====
section
/-! DEFINITION. Operand tokens of an instruction: which fields it awaits, when it may fire, as what, and how a token of
another kind is read (R158, R179, R237-R239, R289, R345). -/

namespace Sys2Proof.Machine

/-- Does some slot of the block target the L field of slot `i` (R315)? -/
def lFed (s : State) (a : Agent) (baddr n i : Nat) : Bool :=
  (List.range n).any fun j =>
    match s.fieldsAt a baddr j with
    | some (_, f) => f.targets.any fun t => match t with | .slot k .l => k.val == i | _ => false
    | none => false

/-- The operand fields an instruction awaits (R237, R315); CHL streams are awaited on their channel instead. -/
def awaited (op : Nat) (f : Fmt) (fedL : Bool) : List Fld :=
  [Fld.l, .r, .p, .x].filter fun x => takes op f x && !(op = 0x90 && x == .l && !fedL)

/-- Does the description act on a stop token in this field itself (R239, R243, R247, R250, R263, R291, R340, R345)? -/
def ownStop (op : Nat) (x : Fld) : Bool :=
  match x with
  | .l => op = 0x01 || op = 0x05 || op = 0x08 || op = 0xA1 || op = 0xA3 || op = 0xA4 || op = 0x5D || op = 0x5E
          || op = 0x62 || streamField op .l
  | .r => op = 0x05 || streamField op .r
  | _ => false

/-- The circuit of an input channel of a task, if its ICH entry is valid (R154). -/
def TaskCtx.inCircuit (t : TaskCtx) (j : Nat) : Option Nat :=
  let b := (t.ich[j]?).getD 0
  if b.testBit 7 then some (b % 64) else none
/-- The circuit of an output channel of a task, if its OCH entry is valid (R154). -/
def TaskCtx.outCircuit (t : TaskCtx) (j : Nat) : Option Nat :=
  let b := (t.och[j]?).getD 0
  if b.testBit 7 then some (b % 64) else none

/-- The oldest token of the task's colour on an input channel, as the reader of an open group takes it (R289). -/
def State.chanIn (s : State) (a : Agent) (j : Nat) : Option Arrival :=
  match a with
  | .helm _ => none
  | .task d p _ =>
    let t := s.task a
    match t.inCircuit j with
    | none => none
    | some c => ((s.cell (cellKey d p)).inbox.get c []).find? fun x => x.tok.color == t.color

/-- Is a token a digit token? -/
def Token.isDigit (t : Token) : Bool := t.kind == .digit && t.stop == 0

/-- The colour on a circuit of a cell, as `Cell.chanOpen` numbers it. -/
def chanKey (c col : Nat) : Nat := 64 * c + col % 64

/-- Is a token of a channel a digit token of a group whose head a digit field has taken: once that field reads no more of it, R289 and
R300 discard it? -/
def Cell.leftOver (x : Cell) (c : Nat) (t : Token) : Bool := t.isDigit && x.chanOpen.contains (chanKey c t.color)

/-- The oldest token of the task's colour on an input channel (R248), past the digit tokens that are left of an ended group. -/
def State.chanTok (s : State) (a : Agent) (j : Nat) : Option Arrival :=
  match a with
  | .helm _ => none
  | .task d p _ =>
    let t := s.task a
    match t.inCircuit j with
    | none => none
    | some c => let x := s.cell (cellKey d p)
      (x.inbox.get c []).find? fun y => y.tok.color == t.color && !x.leftOver c y.tok

/-- A list without its first element that satisfies a predicate. -/
def dropFirst {α : Type} (p : α → Bool) : List α → List α
  | [] => []
  | x :: r => if p x then r else x :: dropFirst p r

/-- The state with the token of `chanIn` consumed. -/
def State.takeIn (s : State) (a : Agent) (j : Nat) : State :=
  match a with
  | .helm _ => s
  | .task d p _ =>
    let t := s.task a
    match t.inCircuit j with
    | none => s
    | some c => s.modCell (cellKey d p) fun x =>
        { x with inbox := x.inbox.put c (dropFirst (fun y => y.tok.color == t.color) (x.inbox.get c [])) }

/-- A list without what satisfies `p` up to the first element that also satisfies `q`, and without that one. -/
def dropThrough {α : Type} (p q : α → Bool) : List α → List α
  | [] => []
  | x :: r => if p x then (if q x then r else dropThrough p q r) else x :: dropThrough p q r

/-- The state with the token of `chanTok` consumed, and the digit tokens left before it discarded; `head` says that a digit field takes
the head of a group. -/
def State.takeAs (s : State) (a : Agent) (j : Nat) (head : Bool) : State :=
  match a with
  | .helm _ => s
  | .task d p _ =>
    let t := s.task a
    match t.inCircuit j with
    | none => s
    | some c => s.modCell (cellKey d p) fun x =>
        { x with inbox := x.inbox.put c (dropThrough (fun y => y.tok.color == t.color) (fun y => !x.leftOver c y.tok) (x.inbox.get c []))
                 chanOpen := if head then setAdd x.chanOpen (chanKey c t.color) else setDel x.chanOpen (chanKey c t.color) }

/-- The same for a reader of any other token (R248). -/
def State.takeChan (s : State) (a : Agent) (j : Nat) : State := s.takeAs a j false

/-- The same for a digit field. -/
def State.takeHead (s : State) (a : Agent) (j : Nat) : State :=
  s.takeAs a j (match s.chanTok a j with | some y => y.tok.kind == .head && y.tok.stop == 0 | none => false)

/-- The token a field offers: its oldest one, or for a CHL stream the oldest on its channel. -/
def State.offered (s : State) (a : Agent) (op : Nat) (f : Fmt) (sl : Slot) (x : Fld) : Option Arrival :=
  match (sl.fld x).q.head? with
  | some y => some y
  | none => if x == .l then (match chlOf op f with
      | some j => s.chanTok a j
      | none => none) else none

/-- Is a predicate true (R158)? -/
def Token.isTrue (t : Token) : Bool := t.payload.getLsbD 0

/-- Does a predicate token match PR (R213)? -/
def prMatches (pr : Pr) (t : Token) : Bool :=
  match pr with | .always => true | .onTrue => t.isTrue | .onFalse => !t.isTrue

/-- What an instruction may do in this cycle (R158, R239). -/
inductive Verdict where
  | wait
  | dead
  | null
  | pass (k : Nat)
  | go
deriving DecidableEq, Repr

/-- The tokens the four fields offer by a cycle. -/
def State.offers (s : State) (a : Agent) (op : Nat) (f : Fmt) (sl : Slot) (now : Nat) : List (Fld × Arrival) :=
  [Fld.l, .r, .p, .x].filterMap fun x =>
    match s.offered a op f sl x with
    | some y => if y.at0 ≤ now then some (x, y) else none
    | none => none

/-- The first cycle in which one of some arrivals stands; none when there is none. -/
def firstAt (l : List (Fld × Arrival)) : Option Nat :=
  l.foldl (fun m e => match m with | some t => some (min t e.2.at0) | none => some e.2.at0) none

/-- Is an event no later than another, where it takes place at all? -/
def noLater (a b : Option Nat) : Bool :=
  match a, b with | some x, some y => x ≤ y | some _, none => true | none, _ => false

/-- Does a format M instruction, whose predicate does not match, still fire on a NULL (R158)? -/
def isM (op : Nat) : Bool := 0x80 ≤ op && op ≤ 0x98

/-- The verdict on a waiting instruction by a cycle (R158, R237-R239, R289). A NULL, a mismatch of the predicate and a
stop token decide in the order in which they arrived; in one cycle in that order (DEDUCED, log entry 7). -/
def State.verdictAt (s : State) (a : Agent) (op : Nat) (f : Fmt) (fedL : Bool) (sl : Slot) (now : Nat) : Verdict :=
  let os := s.offers a op f sl now
  let tNull := firstAt (os.filter fun e => e.2.tok.isNull)
  let stops := os.filter fun e => e.2.tok.stop != 0 && (e.1 == .p || !ownStop op e.1)
  let tStop := firstAt stops
  let tMiss := firstAt (os.filter fun e => e.1 == .p && f.pr != .always && e.2.tok.stop == 0 && !e.2.tok.isNull
    && !prMatches f.pr e.2.tok)
  if noLater tNull tMiss && noLater tNull tStop then .null
  else if noLater tMiss tStop then (if isM op && tNull.isSome then .null else .dead)
  else if tStop.isSome then .pass (os.foldl (fun m e => max m e.2.tok.stop) 0)
  else
    let need := awaited op f fedL ++ (if (chlOf op f).isSome then [Fld.l] else [])
    if need.all (fun x => os.any fun e => e.1 == x) then .go else .wait

/-- The verdict in this cycle. -/
def State.verdict (s : State) (a : Agent) (op : Nat) (f : Fmt) (fedL : Bool) (sl : Slot) : Verdict :=
  s.verdictAt a op f fedL sl s.cycle

/-! ## Reading elements (R179, R238) -/

/-- Element `i` of a payload at a width. -/
def laneOf (w : Nat) (p : Payload) (i : Nat) : Nat := fieldN p.toNat (w * i + w - 1) (w * i)

/-- The element an instruction of scalar shape reads: the low bits of a word, lane 0 of a vector (R238). -/
def Token.elem (t : Token) (ty : Ty) : Nat := t.payload.toNat % 2 ^ ty.width

/-- The lanes an instruction of vector shape reads: a vector's own, a word's element in every lane (R238). -/
def Token.lanes (t : Token) (ty : Ty) : List Nat :=
  if t.kind == .vector || t.kind == .digit || t.kind == .head || t.kind == .scale then
    (List.range 32).map (laneOf ty.width t.payload)
  else List.replicate 32 (t.payload.toNat % 2 ^ ty.width)

/-- Elements packed at a width, element 0 lowest (R179). -/
def packLanes (w : Nat) : List Nat → Nat
  | [] => 0
  | a :: r => a % 2 ^ w + 2 ^ w * packLanes w r

/-- The 64 bits of a scalar word token that holds an element: sign-extended for I types, zero-extended otherwise
(R179). -/
def wordOfElem (ty : Ty) (e : Nat) : Nat := if ty.isSigned then wrapN (sextN e ty.width) 64 else e % 2 ^ ty.width

/-- An element as it is stored and delivered: a PRED is its bit 0 (R178). -/
def storeElem (ty : Ty) (e : Nat) : Nat := if ty = .pred then e % 2 else e

/-- A word token holding an element. -/
def elemTok (ty : Ty) (e : Nat) : Token := wordTok (wordOfElem ty e)

/-- A vector token of elements of a type. -/
def lanesTok (ty : Ty) (l : List Nat) : Token := { vecTok (packLanes ty.width l) with width := ty.width }

/-- A word from L's bits [63:0] (R302). -/
def Token.asWord (t : Token) : Word := t.payload.setWidth 64

end Sys2Proof.Machine
end

