-- ==== Sys2Proof/Machine/Flags.lean ====
section
/-! DEFINITION. Flags, rounding modes and the stochastic generator as an agent sees them (R184-R187, R177). -/

namespace Sys2Proof.Machine

/-- RMODE of an agent as its block began with it: its task's CTX.RMODE, or HELM.RMODE, which the helm core's context
holds (R177, R184). -/
def State.rmodeOf (s : State) (a : Agent) : Rm := Rm.ofCode (match s.win a with | some w => w.rmode | none => (s.task a).rmode)

/-- RM resolved for a block: DYN takes RMODE, and a DYN held there reads as RNE (R184). -/
def State.resolveRm (s : State) (a : Agent) (rm : Rm) : Rm :=
  match rm with
  | .dyn => (match s.rmodeOf a with | .dyn => .rne | r => r)
  | r => r

/-- The generator of the instruction in a slot at the start of its draws (R185). -/
def State.genOf (s : State) (a : Agent) (slot : Nat) : Nat :=
  genInst (match s.win a with | some w => w.gen0 | none => (s.task a).gen) slot

/-- The window with flags raised, to be merged at its commit (R187). -/
def Win.raise (w : Win) (fl : Nat) : Win := { w with flags := w.flags ||| fl }

/-- Fold a computation over elements, collecting results, flags and draws (R275). -/
def mapRes (f : Nat → Nat → Res) : List Nat → Nat → List Nat × Nat × Nat
  | [], g => ([], 0, g)
  | a :: r, g =>
    let x := f g a
    let y := mapRes f r x.gen
    (x.bits :: y.1, x.flags ||| y.2.1, y.2.2)

/-- The same over pairs of elements. -/
def zipRes (f : Nat → Nat → Nat → Res) : List Nat → List Nat → Nat → List Nat × Nat × Nat
  | a :: r, b :: q, g =>
    let x := f g a b
    let y := zipRes f r q x.gen
    (x.bits :: y.1, x.flags ||| y.2.1, y.2.2)
  | _, _, g => ([], 0, g)

/-- The same over triples of elements. -/
def zip3Res (f : Nat → Nat → Nat → Nat → Res) : List Nat → List Nat → List Nat → Nat → List Nat × Nat × Nat
  | a :: r, b :: q, c :: p, g =>
    let x := f g a b c
    let y := zip3Res f r q p x.gen
    (x.bits :: y.1, x.flags ||| y.2.1, y.2.2)
  | _, _, _, g => ([], 0, g)

end Sys2Proof.Machine
end

