-- ==== Sys2Proof/Machine/Translate.lean ====
section
/-! DEFINITION. Addresses: homing, keyed bytes, table walks, permissions and the TLBs (R27-R55, R79, R81, R445). -/

namespace Sys2Proof.Machine

/-! ## Physical addresses and home slices -/

/-- Bytes of one HBM4E channel: 1.5 GiB (R79). -/
def channelBytes : Nat := 1610612736

/-- The populated window of a die in bytes (R79). -/
def Die.window (d : Die) : Nat := (bitsOf d.chans 32).length * channelBytes

/-- Channel and slice of an offset (R79). -/
def Die.homeOf (d : Die) (off : Nat) : Nat × Nat :=
  let l := bitsOf d.chans 32
  let t := off / 4096
  let m := l.length
  let ch := (l[t % m]?).getD 0
  (ch, 2 * ch + t / m % 2)

/-- The home slice of a physical address: 64 * die + slice (R70, R79). -/
def State.sliceOf (s : State) (pa : Nat) : Nat := 64 * paDie pa + ((s.die (paDie pa)).homeOf (paOff pa)).2

/-- Has the channel of a physical address failed since bring-up (R81)? -/
def State.chanFailed (s : State) (pa : Nat) : Bool :=
  let d := s.die (paDie pa)
  d.failed.testBit (d.homeOf (paOff pa)).1

/-- May an access homed at a physical address proceed: its channel has reported ready, or has failed (R449)? -/
def State.homeReady (s : State) (pa : Nat) : Bool :=
  let d := s.die (paDie pa)
  paPkg pa != s.pkgNum || s.chanFailed pa || s.readyBits.contains (64 + 32 * paDie pa + (d.homeOf (paOff pa)).1)

/-- Is the package of a physical address absent (R30, R438)? -/
def State.pkgAbsent (s : State) (p : Nat) : Bool := (s.podTable[p]?).getD 0 == 0

/-- The check of a physical address: NOPKG or NOPHYS (R30). -/
def State.physCheck (s : State) (pa : Nat) : Option Nat :=
  if paPkg pa ≠ s.pkgNum then (if s.pkgAbsent (paPkg pa) then some 5 else none)
  else if (s.die (paDie pa)).window ≤ paOff pa then some 7 else none

/-! ## Walks (R35-R39) -/

/-- Is a line poisoned, or its channel failed (R81, R82)? -/
def State.poisoned (s : State) (pa : Nat) : Bool := s.poison.contains (pa / 128) || s.chanFailed pa

/-- Is a valid entry at a level malformed (R38)? -/
def State.malformed (s : State) (e : Word) (l : Nat) : Bool :=
  if flag e 1 then
    field e 4 2 != 0 || field e 11 10 == 3 || (l == 1 && field e 20 16 != 0) || (l == 0 && field e 29 16 != 0)
    || (!flag e 15 && field e 55 52 != 0) || (flag e 15 && field e 55 52 == 15)
    || (field e 11 10 == 1 && (flag e 15 || flag e 12))
    || (flag e 13 && (field e 42 37 != 0 || field e 51 43 != s.pkgNum))
  else
    l == 2 || field e 63 52 != 0 || field e 7 2 != 0 || (l == 0 && field e 11 8 != 0) || field e 51 43 != s.pkgNum

/-- The entry of level `l` at a physical address, or the cause of its failure (R39). -/
def State.entryAt (s : State) (a l : Nat) : Except (Nat × Nat) Word :=
  if paPkg a ≠ s.pkgNum || (s.die (paDie a)).window ≤ paOff a then .error (l, 4)
  else if s.poisoned a then .error (l, 0xD)
  else
    let e := word (s.natAs 0 a 8)
    if !flag e 0 then .error (l, 3) else if s.malformed e l then .error (l, 4) else .ok e

/-- Is an address in the range of TROOT (R35, R39)? -/
def inRange (troot : Word) (va : Nat) : Bool :=
  let n := field troot 63 59
  4 ≤ n && n ≤ 22 && (let t := fieldN va 51 (29 + n); t == 0 || t == 2 ^ (23 - n) - 1)

/-- The walk: the leaf and log2 of its page, or level and cause (R39). -/
def State.walk (s : State) (troot : Word) (va : Nat) : Except (Nat × Nat) (Word × Nat) :=
  let n := field troot 63 59
  if !inRange troot va then .error (0, 2)
  else
    match s.entryAt (field troot 51 12 * 4096 + 8 * fieldN va (29 + n) 30) 0 with
    | .error c => .error c
    | .ok e =>
      if flag e 1 then .ok (e, 30)
      else
        match s.entryAt (field e 51 8 * 256 + 8 * fieldN va 29 21) 1 with
        | .error c => .error c
        | .ok e =>
          if flag e 1 then .ok (e, 21)
          else
            match s.entryAt (field e 51 8 * 256 + 8 * fieldN va 20 16) 2 with
            | .error c => .error c
            | .ok e => .ok (e, 16)

/-- The home die of a SPREAD granule (R32); none for an empty set. -/
def spreadDie (dset : Word) (pa : Nat) : Option Nat :=
  let d := bitsOf dset.toNat 64
  let n := d.length
  if n = 0 then none
  else if n = 1 then d[0]?
  else
    let k := clog2 n
    let g := fieldN pa 36 16
    let h := (List.range (cdiv 21 k)).foldl (fun h j => h ^^^ (g / 2 ^ (j * k) % 2 ^ k)) 0
    d[if n ≤ h then h - 2 ^ (k - 1) else h]?

/-! ## Permissions (R40) -/

/-- Access codes of R40; 8 stands for PREF. -/
def accRead : Nat := 0
def accWrite : Nat := 1
def accRmw : Nat := 2
def accFetch : Nat := 3
def accCopyRd : Nat := 4
def accCopyWr : Nat := 5
def accPortRd : Nat := 6
def accPortWr : Nat := 7
def accPref : Nat := 8

/-- Does the leaf give the rights an access needs (R40)? -/
def rightsOk (leaf : Word) (acc : Nat) : Bool :=
  let r := flag leaf 5
  let w := flag leaf 6
  if acc = 1 || acc = 5 || acc = 7 then w else if acc = 2 then r && w else if acc = 3 then flag leaf 7 else r

/-- The attributes a leaf supplies (R41). -/
def attrOf (leaf : Word) : Attr :=
  { conf := field leaf 63 56, tty := field leaf 55 52, track := flag leaf 15, log := flag leaf 14, bank := flag leaf 12
    kind := field leaf 11 10 }

/-- The attributes of a helm core's physical access and of a local access (R55, R177). -/
def attrPlain : Attr := { conf := 0, tty := 0, track := false, log := false, bank := false, kind := 0 }

/-- The checks after the walk, 6 to 11 of R43: the physical address, or the cause. A leaf with CONF ≠ 0 in another
package fails with KEY (R445). -/
def State.finishTr (s : State) (cfg : Cfg) (leaf : Word) (size va acc : Nat) : Except Nat Nat :=
  let pa0 := field leaf 51 16 * 2 ^ 16 / 2 ^ size * 2 ^ size + va % 2 ^ size
  if paPkg pa0 ≠ s.pkgNum && s.pkgAbsent (paPkg pa0) then .error 5
  else
    let home := if flag leaf 13 then spreadDie cfg.dset pa0 else some (paDie pa0)
    match home with
    | none => .error 6
    | some d =>
      let pa := paPkg pa0 * 2 ^ 43 + d * 2 ^ 37 + paOff pa0
      if paPkg pa = s.pkgNum && (s.die d).window ≤ paOff pa then .error 7
      else if flag leaf 8 && !cfg.priv then .error 9
      else if field leaf 63 56 ≠ 0 && (field leaf 63 56 ≠ cfg.keyid || paPkg pa ≠ s.pkgNum) then .error 0xA
      else if !rightsOk leaf acc then .error 0xB
      else .ok pa

/-- The fault class of a cause (R42). -/
def classOfCause (c : Nat) : Nat := if c ≤ 8 then fcNotMapped else if c ≤ 12 then fcPermission else fcPoison

/-- The detail of a translation failure (R42). -/
def trDetail (acc level cause : Nat) : Nat := (acc % 8) * 64 + level * 16 + cause

/-- The detail of R78: access code and MCAUSE. -/
def memDetail (acc mcause : Nat) : Nat := (acc % 8) * 64 + mcause

/-- The detail of a failure that another unit found, with the access code of the access it is reported for; LINK_DOWN has none (R42,
R78, R386). -/
def withAcc (acc c d : Nat) : Nat := if c = fcLinkDown then d else acc % 8 * 64 + d % 64

/-- Is a global virtual address canonical (R27)? -/
def canonical (va : Nat) : Bool := let t := va / 2 ^ 51; t = 0 || t = 2 ^ 13 - 1

/-! ## The context an agent translates with (R34, R50) -/

/-- CFG values of an agent: of its configuration context, or none for a helm core, which is physical (R177). -/
def State.cfgFor (s : State) (a : Agent) : Cfg :=
  match a with
  | .task .. =>
    let c := s.cfgOf a
    { phys := false, asid := c.asid, troot := c.troot, dset := c.dset, keyid := c.keyid
      priv := match s.regions.find c.region with | some r => r.rank == 7 | none => false }
  | .helm _ => { phys := true, asid := 0, troot := 0, dset := 0, keyid := 0, priv := true }

/-- The memory port of a cell's global accesses: the nearest, the lower number on a tie (R17, R167). -/
def nearestPort (p : Nat) : Nat :=
  let cx := p % 16
  let cy := p / 16
  let best := (List.foldl (fun (b : Nat × Nat) (e : Nat × Nat) => if e.1 < b.1 then e else b) (cy, cx)
    [(15 - cx, 16 + cy), (15 - cy, 32 + cx), (cx, 48 + cy)])
  best.2

/-- The port key of an agent's accesses. -/
def Agent.port : Agent → Nat
  | .task d p _ => 64 * d + nearestPort p
  | .helm c => 64 * (Agent.helm c).die

/-! ## TLBs (R45, R46) -/

/-- Does an entry match an access? -/
def TlbEntry.matches (e : TlbEntry) (asid va : Nat) : Bool :=
  va % 2 ^ 52 / 2 ^ e.size == e.vpage && (flag e.leaf 9 || e.asid == asid)

/-- The entry a TLB uses: of those that match, the one with the smallest page (R45), and of two of one size the most
recently used (DESIGN CHOICE, log entry 96). -/
def tlbFind (l : List TlbEntry) (asid va : Nat) : Option TlbEntry :=
  (l.filter fun e => e.matches asid va).foldl
    (fun b e => match b with | some x => if e.size < x.size then some e else b | none => some e) none

/-- A TLB with an entry used or installed last: the least recently used of 256 leaves (R45). -/
def tlbTouch (l : List TlbEntry) (e : TlbEntry) : List TlbEntry := (e :: l.filter (· != e)).take 256

/-- What a translation gives. -/
inductive Look where
  | hit (pa : Nat) (attr : Attr)
  | miss
  | bad (fclass detail : Nat)
deriving DecidableEq, Repr

/-- Translate through a TLB without a walk: hit, miss or failure, and the TLB afterwards (R43, R45, R46). -/
def State.lookTlb (s : State) (tlb : List TlbEntry) (cfg : Cfg) (acc va : Nat) : Look × List TlbEntry :=
  if cfg.phys then
    if 2 ^ 52 ≤ va then (.bad fcNotMapped (trDetail acc 0 1), tlb)
    else match s.physCheck va with
      | some c => (.bad fcNotMapped (trDetail acc 0 c), tlb)
      | none => (.hit va attrPlain, tlb)
  else if !canonical va then (.bad fcNotMapped (trDetail acc 0 1), tlb)
  else if !inRange cfg.troot va then (.bad fcNotMapped (trDetail acc 0 2), tlb)
  else
    match tlbFind tlb cfg.asid va with
    | none => (.miss, tlb)
    | some e =>
      match s.finishTr cfg e.leaf e.size va acc with
      | .ok pa => (.hit pa (attrOf e.leaf), tlbTouch tlb e)
      | .error c =>
        (.bad (classOfCause c) (trDetail acc 0 c),
          if 9 ≤ c then tlb.filter fun e => !e.matches cfg.asid va else tlb)

/-- Translate with a walk: what the walk finds, and the TLB with the leaf installed when every check passes (R39,
R46). -/
def State.walkTlb (s : State) (tlb : List TlbEntry) (cfg : Cfg) (acc va : Nat) : Look × List TlbEntry :=
  match s.walk cfg.troot va with
  | .error (l, c) => (.bad (classOfCause c) (trDetail acc l c), tlb)
  | .ok (leaf, size) =>
    match s.finishTr cfg leaf size va acc with
    | .error c =>
      (.bad (classOfCause c) (trDetail acc 0 c), if 9 ≤ c then tlb.filter fun e => !e.matches cfg.asid va else tlb)
    | .ok pa =>
      (.hit pa (attrOf leaf), tlbTouch tlb { vpage := va % 2 ^ 52 / 2 ^ size, size := size, asid := cfg.asid, leaf := leaf })

/-- Translate at once, walking where the TLB misses. -/
def State.lookNow (s : State) (tlb : List TlbEntry) (cfg : Cfg) (acc va : Nat) : Look × List TlbEntry :=
  match s.lookTlb tlb cfg acc va with
  | (.miss, t) => s.walkTlb t cfg acc va
  | r => r

/-- Translate at a memory port. -/
def State.lookPort (s : State) (port : Nat) (cfg : Cfg) (acc va : Nat) : Look × State :=
  let r := s.lookNow (s.port port).tlb cfg acc va
  (r.1, s.modPort port fun p => { p with tlb := r.2 })

/-- Translate with no TLB: the fetch agent, the trace writer, the binnacle (R50, R412, R420). -/
def State.lookBare (s : State) (cfg : Cfg) (acc va : Nat) : Look := (s.lookNow [] cfg acc va).1

/-! ## The local space (R54) -/

/-- Role of a tile (R56): 0 NONE, 1 BUF, 2 FIFO, 3 CBANK. -/
def Tile.role (t : Tile) : Nat := if t.owner.isSome then field t.desc 63 62 else 0

/-- Is a byte of a tile inside a spill area that a chart of the cell declares (R54, R170)? -/
def Cell.inSpill (c : Cell) (tile off : Nat) : Bool :=
  c.tasks.any fun e => e.2.st != .unbound && field e.2.spill 9 0 != 0 && field e.2.spill 23 21 == tile
    && 128 * field e.2.spill 20 12 ≤ off && off < 128 * (field e.2.spill 20 12 + field e.2.spill 9 0)

/-- The check of one local byte for a cell's task: the cause of R54, or none. Where several charts are resident in a cell (R55), 'the
active chart' is read as that of the region that owns the tile: a task of another region gets LOCAL (DESIGN CHOICE, log entry 127). -/
def State.localByteBad (s : State) (a : Agent) (addr : Nat) : Option Nat :=
  if 2 ^ 19 ≤ addr then some 8
  else
    match a with
    | .helm n =>
      if addr / 65536 ≠ 0 then some 8
      else
        let sp := (s.helm n).task.spill
        if field sp 9 0 != 0 && 128 * field sp 20 12 ≤ addr && addr < 128 * (field sp 20 12 + field sp 9 0) then some 0xC
        else none
    | .task d p _ =>
      let c := s.cell (cellKey d p)
      let n := addr / 65536
      if 6 ≤ n || (c.tile n).role ≠ 1 || (c.tile n).owner ≠ some (s.regionOf a) then some 8
      else if c.inSpill n (addr % 65536) then some 0xC else none

/-- The check of a local access: none, or the lowest failing byte with its cause (R54). -/
def State.localBad (s : State) (a : Agent) (addr size : Nat) : Option (Nat × Nat) :=
  ((List.range size).filterMap fun i => (s.localByteBad a (addr + i)).map fun c => (addr + i, c)).head?

/-- Does a local range meet a poisoned line of a tile (R82)? -/
def State.localUe (s : State) (a : Agent) (addr n : Nat) : Bool :=
  match a with
  | .helm _ => false
  | .task d p _ => (List.range n).any fun i =>
      ((s.cell (cellKey d p)).tile ((addr + i) / 65536)).poison.contains ((addr + i) % 65536 / 128)

/-- The lowest address of a local range that lies on a poisoned line of a tile (R78, R82). -/
def State.localUeAt (s : State) (a : Agent) (addr n : Nat) : Nat :=
  addr + ((List.range n).find? fun i => s.localUe a (addr + i) 1).getD 0

/-- A byte of the local space. -/
def State.localGet (s : State) (a : Agent) (addr : Nat) : Byte :=
  match a with
  | .helm n => memGet (s.helm n).scratch addr
  | .task d p _ => memGet ((s.cell (cellKey d p)).tile (addr / 65536)).mem (addr % 65536)

/-- The local space with one byte written. -/
def State.localPut (s : State) (a : Agent) (addr : Nat) (b : Byte) : State :=
  match a with
  | .helm n => s.modHelm n fun h => { h with scratch := memPut h.scratch addr b }
  | .task d p _ => s.modCell (cellKey d p) fun c =>
      c.modTile (addr / 65536) fun t => { t with mem := memPut t.mem (addr % 65536) b }

/-- The local space with bytes written. -/
def State.localWrite (s : State) (a : Agent) : Nat → List Byte → State
  | _, [] => s
  | addr, b :: r => State.localWrite (s.localPut a addr b) a (addr + 1) r

/-- A write to a tile clears the marks of the lines it covers whole (R82). -/
def State.localClean (s : State) (a : Agent) (addr n : Nat) : State :=
  match a with
  | .helm _ => s
  | .task d p _ => s.modCell (cellKey d p) fun c => c.modTile (addr / 65536) fun t => { t with poison := unmarked t.poison (addr % 65536) n }

end Sys2Proof.Machine
end

