-- ==== Sys2Proof/Machine/Memory.lean ====
section
/-! DEFINITION. The places of bytes after translation (R64-R76): home slices with their directory entries and undo
sub-logs, cell cache banks, the remote-data caches (R83-R93, R131-R147). -/

namespace Sys2Proof.Machine

/-! ## Directory entries (R83-R93) -/

/-- The entry of a directory tile; unjudged at bring-up (R87). -/
def State.dirEntry (s : State) (tile : Nat) : Word := s.entries.get tile 0xFE00000000000000

/-- An entry from its fields (R86). -/
def mkEntry (cls nf jty : Nat) (doff : Int) (cval : Nat) : Word :=
  word (cls * 2 ^ 62 + nf * 2 ^ 61 + jty * 2 ^ 57 + wrapN doff 8 * 2 ^ 49 + cval % 2 ^ 32)

/-- Element `i` of a directory tile read at a type, as its plaintext stands (R83). That a tile's class speaks of the plaintext of keyed
lines, not of the stored ciphertext, the spec does not say (R84; DESIGN CHOICE, log entry 128). -/
def State.tileElem (s : State) (tile : Nat) (ty : Ty) (i : Nat) : Nat :=
  if ty = .e2m1 then (memGet s.mem (tile * 4096 + i / 2)).toNat / (if i % 2 = 0 then 1 else 16) % 16
  else memNat s.mem (tile * 4096 + i * (ty.width / 8)) (ty.width / 8)

/-- The encoding that IDENT with an offset gives element `i` (R84). -/
def identElem (ty : Ty) (doff : Int) (i : Nat) : Nat :=
  if ((i % 64 : Nat) : Int) = ((i / 64 : Nat) : Int) + doff then ty.oneEnc else 0

/-- Does an encoding agree with the statement of an entry (R89)? -/
def agrees (e : Word) (ty : Ty) (i v : Nat) : Bool :=
  match field e 63 62 with
  | 0 => v == 0
  | 1 => v % 2 ^ 32 == field e 31 0 && (ty.width ≤ 32 || v == (if ty.isSigned then wrapN (sextN v 32) 64 else v % 2 ^ 32))
  | 2 => v == identElem ty (sextN (field e 56 49) 8) i
  | _ => false

/-- The entry of one tile after a write to bytes `off` to `off + n - 1` of it (R89, R90). -/
def State.judge (s : State) (attr : Attr) (tile off n : Nat) : Word :=
  let e := s.dirEntry tile
  let ty := Ty.ofCode attr.tty
  if !attr.track || field e 60 57 ≠ attr.tty || s.poison.any (fun l => l / 32 == tile) then entryNone
  else
    let lo := 8 * off / ty.width
    let hi := (8 * (off + n) - 1) / ty.width
    let vs := (List.range (hi + 1 - lo)).map fun j => (lo + j, s.tileElem tile ty (lo + j))
    let nf := bit (flag e 61 || vs.any fun v => nonFinite ty v.2)
    if vs.all fun v => agrees e ty v.1 v.2 then
      mkEntry (field e 63 62) nf attr.tty (sextN (field e 56 49) 8) (field e 31 0)
    else mkEntry 3 nf attr.tty 0 0

/-- The entries of the tiles a write touches (R88-R90). -/
def State.updateDir (s : State) (attr : Attr) (pa n : Nat) : State :=
  if n = 0 then s
  else
    let t0 := pa / 4096
    (List.range ((pa + n - 1) / 4096 + 1 - t0)).foldl (fun s j =>
      let t := t0 + j
      let lo := max pa (t * 4096)
      let hi := min (pa + n) (t * 4096 + 4096)
      { s with entries := s.entries.put t (s.judge attr t (lo - t * 4096) (hi - lo)) }) s

/-- A non-finite encoding of a directory type (R85). -/
def dirNonFinite (ty : Ty) (v : Nat) : Bool := nonFinite ty v || (ty == .e8m0 && v == 0xFF)

/-- Does a 64-bit constant fit CVAL (R85)? -/
def cvalFits (ty : Ty) (v : Nat) : Bool :=
  ty.width ≤ 32 || v == (if ty.isSigned then wrapN (sextN v 32) 64 else v % 2 ^ 32)

/-- The tightest entry of a tile at a type: TCLASS (R93). -/
def State.classify (s : State) (tile : Nat) (ty : Ty) : Word :=
  let n := 32768 / ty.width
  let vs := (List.range n).map fun i => s.tileElem tile ty i
  let nf := bit (vs.any (dirNonFinite ty))
  let e0 := vs.headD 0
  if vs.all (· == 0) && ty != .e8m0 then mkEntry 0 nf ty.code 0 0
  else if vs.all (· == e0) && cvalFits ty e0 then mkEntry 1 nf ty.code 0 e0
  else
    let ident (d : Int) : Bool := ty != .e8m0 && (List.range n).all fun i => s.tileElem tile ty i == identElem ty d i
    match (List.range 256).find? fun (j : Nat) => ident ((j : Int) - 128) with
    | some j => mkEntry 2 nf ty.code ((j : Int) - 128) 0
    | none => mkEntry 3 nf ty.code 0 0

/-- The entry that TFILL leaves (R92). -/
def fillEntry (attr : Attr) (ty : Ty) (v : Nat) : Word :=
  if !attr.track then entryNone
  else if !cvalFits ty v then mkEntry 3 0 ty.code 0 0
  else
    let nf := bit (dirNonFinite ty v)
    if v = 0 && ty != .e8m0 then mkEntry 0 nf ty.code 0 0 else mkEntry 1 nf ty.code 0 v

/-! ## The undo log (R131-R147) -/

/-- Who makes an access, as the slices and banks see it (R66, R131, R132): the agent of a task or helm core, its die
and region, its log (0 when not logged), whether its block's header has LOG, whether it is a foreign agent of R132,
the horizon it records in an owned tile when it is not logged (0 for none), and whether it has already written the bytes of its first
word that stand before it, which a copy's next chunk goes on with (R76). -/
structure Src where
  agent : Option Agent
  die : Nat
  region : Nat
  lognum : Nat
  blockLog : Bool
  foreign : Bool
  hz : Nat
  joins : Bool := false
deriving DecidableEq, Repr

/-- The 64 bits of an agent in an ORDER entry (R134): {die, cell, task} at [48:32], or 0x1_FFFF for a foreign agent. -/
def agentCode : Option Agent → Nat
  | some (.task d p t) => d * 2048 + p * 8 + t
  | _ => 0x1FFFF

/-- The address of entry `i` of a sub-log (R135). -/
def State.entryAddr (s : State) (ln key i : Nat) : Nat :=
  let d := key / 64
  let w0 := s.logDie ln d 0
  field w0 51 16 * 65536 + 65536 * (1 + key % 64 * field (s.logDie ln d 1) 15 0) + 16 * i

/-- A sub-log. -/
def ULog.sub (l : ULog) (key : Nat) : SubLog := l.subs.get key .fresh

/-- What an append gives: done; the sub-log is full, with the address of the access that is held; the access waits for its
recorded turn; replay diverges. -/
inductive LogRes where
  | done (s : State)
  | full (ln key pa : Nat)
  | wait
  | diverge (ln : Nat)

/-- The state with a log changed. -/
def State.modLog (s : State) (ln : Nat) (f : ULog → ULog) : State :=
  match s.logs.find ln with
  | some l => { s with logs := s.logs.put ln (f l) }
  | none => s

/-- The header of a log's root table as the log stands (R135); the table keeps the key its line carries. -/
def State.logHeader (s : State) (ln : Nat) : State :=
  match s.logs.find ln with
  | some l =>
    s.plainWrite (s.ktag.get (l.root / 128) 0) l.root (leBytes (l.newest % 2 ^ 32) 8 ++ leBytes (bit l.none0 * 2 ^ 32 + l.oldest % 2 ^ 32) 8
      ++ leBytes (bit l.hzv * 2 ^ 40 + l.hzcause % 256 * 2 ^ 32 + l.hzwp % 2 ^ 32) 8)
  | none => s

/-- A log with a sub-log changed. -/
def ULog.modSub (l : ULog) (key : Nat) (f : SubLog → SubLog) : ULog := { l with subs := l.subs.put key (f (l.sub key)) }

/-- End replay: records after TAIL are dropped, and NEWEST falls to the newest mark passed (R143). -/
def State.endReplay (s : State) (ln : Nat) : State :=
  (s.modLog ln fun l =>
    { l with replay := false, newest := l.replayWp, target := none
             subs := l.subs.map fun e => (e.1, { e.2 with replayEnd := e.2.tail }) }).logHeader ln

/-- Is a sub-log still before its REPLAY_END (R143)? -/
def ULog.replaying (l : ULog) (key : Nat) : Bool := l.replay && (l.sub key).tail != (l.sub key).replayEnd

/-- The log of a configuration context, if it runs logged. -/
def State.cctxLog (s : State) (key cctx : Nat) : Nat :=
  let ln := field ((s.cell key).cctx cctx).ulog 63 56
  if (s.log ln).isSome then ln else 0

/-- The sub-log in which a cell records its choices (R145). -/
def choiceKey (key : Nat) : Nat := 64 * (key / 256) + key % 256 % 64

/-- Word `j` of entry `i` of a sub-log, read under the key of the log's context (R134, R148). -/
def State.entryWord (s : State) (ln key i j : Nat) : Nat :=
  match s.log ln with
  | some l => s.natAs l.key (s.entryAddr ln key i + 8 * j) 8
  | none => 0

/-- The tail of a sub-log passes `n` records that replay has consumed (R143). -/
def State.passRecords (s : State) (ln key n : Nat) : State :=
  s.modLog ln fun l => l.modSub key fun u => { u with tail := (u.tail + n) % max 1 u.cap, count := u.count + n }

/-- A word of a recorded foreign write stored again, its line under the key it carries (R145). -/
def State.putForeign (s : State) (n0 n1 : Nat) : State :=
  let pa := fieldN n0 51 0
  let s := s.plainWrite (s.ktag.get (pa / 128) 0) pa (leBytes n1 8)
  if fieldN n0 59 58 = 0 then s
  else { s with presence := if fieldN n0 57 57 = 1 then setAdd s.presence (pa / 8) else setDel s.presence (pa / 8) }

/-- What stands beside entry `i` of a sub-log, outside memory: with an ORDER the accesses that its line had had since the ORDER
before, with a SYNC its flags (log entries 98 and 108). -/
def ULog.noteAt (l : ULog) (key i : Nat) : Nat := l.notes.get (key * 2 ^ 32 + i) 0

/-- The same, set for the entry that a sub-log takes next. -/
def State.putNote (s : State) (ln key v : Nat) : State :=
  s.modLog ln fun l =>
    let i := key * 2 ^ 32 + (l.sub key).tail
    { l with notes := if v = 0 then l.notes.drop i else l.notes.put i v }

/-- One more access to a line since its last ORDER. -/
def State.countLine (s : State) (line : Nat) : State := { s with lineRun := s.lineRun.put line (s.lineRun.get line 0 + 1) }

/-- A line's last agent is another one from here on. -/
def State.turnLine (s : State) (line c n : Nat) : State :=
  { s with lineAgent := s.lineAgent.put line c, lineRun := s.lineRun.put line n }

/-- Re-apply the foreign writes recorded at the tail of a sub-log (R145): the ORDER entry of a foreign agent, and a DATA entry
with FOREIGN and its FNEW, whose old value is compared (R147). The ORDER waits until its line has had the accesses that came before
it (R146). -/
def State.replayForeign (ln key : Nat) : Nat → State → LogRes
  | 0, s => .done s
  | fuel + 1, s =>
    match s.log ln with
    | none => .done s
    | some l =>
      if !l.replaying key then .done s
      else
        let u := l.sub key
        let e0 := s.entryWord ln key u.tail 0
        let e1 := s.entryWord ln key u.tail 1
        let line := fieldN e0 51 0 / 128
        if fieldN e0 63 60 = 4 && fieldN e1 48 32 = 0x1FFFF then
          if l.noteAt key u.tail ≤ s.lineRun.get line 0 then
            State.replayForeign ln key fuel ((s.passRecords ln key 1).turnLine line 0x1FFFF 0)
          else .done s
        else if fieldN e0 63 60 = 1 && fieldN e0 56 56 = 1 then
          if memNat s.mem (fieldN e0 51 0) 8 ≠ e1 then .diverge ln
          else
            let i := (u.tail + 1) % max 1 u.cap
            State.replayForeign ln key fuel (((s.putForeign (s.entryWord ln key i 0) (s.entryWord ln key i 1)).passRecords ln key 2).countLine line)
        else .done s

/-- The foreign writes that stand recorded at the tail of a sub-log (R145). -/
def State.foreignNow (s : State) (ln key : Nat) : LogRes :=
  match s.log ln with
  | some l => if l.replaying key then s.replayForeign ln key (l.sub key).cap else .done s
  | none => .done s

/-- How many recorded entries replay reads ahead of the tail of a sub-log: at most 4,096, none at or behind REPLAY_END (R143, R145). -/
def SubLog.ahead (u : SubLog) : Nat := min 4096 ((u.replayEnd + u.cap - u.tail) % max 1 u.cap)

/-- Does an entry stand among those ahead in a sub-log (R145)? -/
def State.aheadHas (s : State) (ln key : Nat) (u : SubLog) (w0 w1 : Nat) : Bool :=
  (List.range u.ahead).any fun j =>
    let i := (u.tail + j) % max 1 u.cap
    s.entryWord ln key i 0 == w0 && s.entryWord ln key i 1 == w1

/-- Append one entry to a sub-log (R134, R138, R143, R147). During replay the entry must be the recorded one: another
one waits for its turn. A DATA entry of the same place with another old value diverges, as does a cell choice that no entry
ahead records, and a marker that meets any other record, such as a cell choice that no instruction has claimed. -/
def State.append (s0 : State) (ln key : Nat) (w0 w1 : Nat) : LogRes :=
  match s0.foreignNow ln key with
  | .done s =>
    match s.log ln with
    | none => .done s
    | some l =>
      let u := l.sub key
      if l.none0 && u.stopped then .done s
      else if l.replaying key then
        let e0 := s.entryWord ln key u.tail 0
        if e0 = w0 && s.entryWord ln key u.tail 1 = w1 then .done (s.passRecords ln key 1)
        else if (e0 = w0 && fieldN w0 63 60 = 1) || fieldN w0 63 60 = 3 || (fieldN w0 63 60 = 6 && !s.aheadHas ln key u w0 w1) then
          .diverge ln
        else .wait
      else if u.cap ≤ u.count then .full ln key (fieldN w0 51 0)
      else
        let s := s.plainWrite l.key (s.entryAddr ln key u.tail) (leBytes w0 8 ++ leBytes w1 8)
        .done (s.modLog ln fun l => l.modSub key fun u =>
          let t := (u.tail + 1) % max 1 u.cap
          { u with tail := t, replayEnd := t, count := u.count + 1 })
  | r => r

/-- Record a horizon event (R140). -/
def State.horizon (s : State) (ln cause : Nat) : State :=
  (s.modLog ln fun l => { l with hzv := true, hzcause := cause, hzwp := if l.replay then l.replayWp else l.newest }).logHeader ln

/-- Is the record due at the tail of a sub-log the ORDER of an agent at a line (R145)? -/
def State.orderDue (s : State) (ln key line c : Nat) : Bool :=
  match s.log ln with
  | some l => l.replaying key && s.entryWord ln key (l.sub key).tail 0 == 4 * 2 ^ 60 + line * 128
      && s.entryWord ln key (l.sub key).tail 1 == c * 2 ^ 32
  | none => false

/-- In replay, the ORDER of a line that stands next among the records ahead: its index and its agent. -/
def State.nextOrder (s : State) (ln key line : Nat) : Option (Nat × Nat) :=
  match s.log ln with
  | some l =>
    if !l.replaying key then none
    else
      let u := l.sub key
      (((List.range u.ahead).map fun j => (u.tail + j) % max 1 u.cap).find? fun i => s.entryWord ln key i 0 == 4 * 2 ^ 60 + line * 128).map
        fun i => (i, fieldN (s.entryWord ln key i 1) 48 32)
  | none => none

/-- In replay, has a line had every access that came before its next ORDER? -/
def State.turnOver (s : State) (ln key line : Nat) : Bool :=
  match s.nextOrder ln key line, s.log ln with
  | some e, some l => Nat.ble (l.noteAt key e.1) (s.lineRun.get line 0)
  | _, _ => false

/-- Is an access of a logged context to a line out of its turn in replay: the line's next ORDER is due and is not the agent's at the
tail, or it is not due and the agent is not the line's last one (R145, R146)? -/
def State.orderWaits (s : State) (ln key line c : Nat) : Bool :=
  match s.nextOrder ln key line, s.log ln with
  | some e, some l =>
    if Nat.ble (l.noteAt key e.1) (s.lineRun.get line 0) then !(e.1 = (l.sub key).tail && e.2 = c)
    else s.lineAgent.get line 0x3FFFF ≠ c
  | _, _ => false

/-- An access to a line by an agent other than the line's last one appends ORDER (R145); replay also takes one recorded when
the tag had been reset, and admits the accesses between two ORDERs in the recorded number (R146). -/
def State.orderLine (s0 : State) (ln : Nat) (ag : Option Agent) (pa : Nat) : LogRes :=
  let line := pa / 128
  let key := s0.sliceOf pa
  let c := agentCode ag
  match s0.foreignNow ln key with
  | .done s =>
    if s.orderWaits ln key line c then .wait
    else if s.lineAgent.get line 0x3FFFF = c && !s.orderDue ln key line c then .done (s.countLine line)
    else
      let t := if optB (s.log ln) (·.replaying key) then s else s.putNote ln key (s.lineRun.get line 0)
      match t.append ln key (4 * 2 ^ 60 + line * 128) (c * 2 ^ 32) with
      | .done s => .done (s.turnLine line c 1)
      | r => r
  | r => r

/-- The log that owns the tile of an address, if that log is active (R132). -/
def State.ownerLog (s : State) (pa : Nat) : Nat :=
  let ln := s.logown.get (pa / 4096) 0
  if (s.log ln).isSome then ln else 0

/-- A full sub-log holds the access to an address. -/
def LogRes.heldAt (r : LogRes) (pa : Nat) : LogRes := match r with | .full ln key _ => .full ln key pa | r => r

/-- Log one word before it is written (R131-R134, R145). `v` is the new value of the word, `pres` the presence bit
after the write. ORDER is recorded for every access of a logged context, whatever LOG says. -/
def State.logWord (s : State) (src : Src) (attr : Attr) (wd v : Nat) (pres : Bool) : LogRes :=
  let pa := wd * 8
  let own := s.ownerLog pa
  let old := memNat s.mem pa 8
  let oldp := if attr.kind = 0 then 0 else bit (s.presence.contains wd)
  let newp := if attr.kind = 0 then 0 else bit pres
  if src.foreign then
    if own = 0 then .done s
    else if src.hz ≠ 0 then .done (s.horizon own src.hz)
    else
      match s.orderLine own src.agent pa with
      | .done s =>
        match s.append own (s.sliceOf pa) (2 ^ 60 + attr.kind * 2 ^ 58 + oldp * 2 ^ 57 + 2 ^ 56 + pa) old with
        | .done s => s.append own (s.sliceOf pa) (2 * 2 ^ 60 + attr.kind * 2 ^ 58 + newp * 2 ^ 57 + 2 ^ 56 + pa) v
        | r => r
      | r => r
  else
    let s := if own ≠ 0 && own ≠ src.lognum then s.horizon own 4 else s
    if src.lognum = 0 then .done s
    else
      match s.orderLine src.lognum src.agent pa with
      | .done s =>
        if !attr.log || !src.blockLog then .done s
        else
          let s := if s.ownerLog pa = 0 then { s with logown := s.logown.put (pa / 4096) src.lognum } else s
          s.append src.lognum (s.sliceOf pa) (2 ^ 60 + attr.kind * 2 ^ 58 + oldp * 2 ^ 57 + pa) old
      | r => r

/-- The value of a word after bytes from `pa` on are written. -/
def mergedWord (m : List Host.Cell) (wd pa : Nat) (bs : List Byte) : Nat :=
  leNat ((List.range 8).map fun i =>
    let a := wd * 8 + i
    if pa ≤ a && a < pa + bs.length then (bs[a - pa]?).getD 0 else memGet m a)

/-- Log every word of a write. -/
def State.logWords (s : State) (src : Src) (attr : Attr) (pres : Bool) (pa : Nat) (bs : List Byte) : List Nat → LogRes
  | [] => .done s
  | wd :: r =>
    let whole := (src.joins || decide (pa ≤ 8 * wd)) && decide (8 * wd + 8 ≤ pa + bs.length)
    match s.logWord src attr wd (mergedWord s.mem wd pa bs) ((pres && whole) || s.presence.contains wd) with
    | .done s => State.logWords s src attr pres pa bs r
    | e => e.heldAt (8 * wd)

/-! ## Writing and reading at a home slice (R70) -/

/-- The bytes of a write laid over a die's remote-data cache (R71, R82, R123): current copies take them, a fill that is
due will not restore them, and a line covered is marked no more. -/
def State.rdcStore (s : State) (d pa : Nat) (bs : List Byte) : State :=
  (linesOf pa bs.length).foldl (fun s line =>
    match (s.die d).rdc.find line with
    | none => s
    | some r =>
      let data := (List.range 128).foldl (fun x i =>
        let a := line * 128 + i
        if pa ≤ a && a < pa + bs.length then
          (x &&& ~~~((0xFF : BitVec 1024) <<< (8 * i))) ||| (((bs[a - pa]?).getD 0).setWidth 1024 <<< (8 * i)) else x) r.data
      let laid := (List.range 128).foldl (fun x i =>
        let a := line * 128 + i
        if pa ≤ a && a < pa + bs.length then x ||| ((1 : BitVec 128) <<< i) else x) r.laid
      let r := { r with data := data, laid := if r.filling then laid else r.laid, poison := r.poison && !(unmarked [line] pa bs.length).isEmpty }
      s.modDie d fun x => { x with rdc := x.rdc.put line r }) s

/-- The bytes themselves, with KTAG, poison mark and directory (R82, R88, R445). -/
def State.storeBytes (s : State) (attr : Attr) (pa : Nat) (bs : List Byte) : State :=
  let s := s.rekeyFor attr.conf pa bs.length
  let s := { s with mem := memWrite s.mem pa bs
                    poison := unmarked s.poison pa bs.length }
  s.updateDir attr pa bs.length

/-- Does a LOG_FULL that no RESUME has answered tell of a held write (R138, R387): of this instruction of the context, or, with none,
of a foreign write or of an entry of no write? `det` says which details count. -/
def State.fullSaid (s : State) (ln : Nat) (det : Nat → Bool) (x : Option Access) : Bool :=
  let tells (g : FaultRec) : Bool := g.fclass == fcLogFull && g.xinfo == ln && det g.detail && (match x with
    | some x => x.agent == .task g.die g.pcell g.task && g.slot == x.slot && g.bseq == x.seq
    | none => Nat.ble 256 g.detail || g.bseq = 0)
  match s.log ln with
  | some l => l.regions.any fun k => optB (s.regions.find (s.mailKey k)) fun r => (r.mail.toList ++ r.latched).any tells
  | none => false

/-- Does a foreign write to `pa` wait for RESUME after a LOG_FULL (R138)? -/
def State.trapHeld (s : State) (pa : Nat) : Bool :=
  s.fullSaid (s.ownerLog pa) (· == 256 + s.sliceOf pa % 64) none

/-- Does a held write stand before an access to its words (R138): another agent's that waits for log room, or the own, a foreign
one, that waits for RESUME? What holds a write of no task names its die as its slot. -/
def State.logBlocked (s : State) (src : Src) (pa n : Nat) : Bool :=
  s.accs.any fun y =>
    (!(match src.agent with | some a => y.agent == a | none => y.agent == noAgent && y.slot == src.die) || (src.agent.isNone && s.trapHeld pa))
    && y.units.any fun u => u.st == .logHeld && u.pa / 8 * 8 < pa + n && pa / 8 * 8 < u.pa + u.size

/-- The write of no task that an access stands for has log room and performs: what stood for it goes (R138). -/
def State.freeHeld (s : State) (src : Src) (pa n : Nat) : State :=
  let mine (y : Access) : Bool := y.op = opHeld && y.slot = src.die && y.units.any fun u => u.pa / 8 * 8 < pa + n && pa < u.pa / 8 * 8 + 8
  if src.agent.isSome then s else { s with accs := s.accs.filter fun y => !mine y }

/-- A write performs at its home slice (R70, R88, R131): logged, stored, the tile's entry updated, all in one step. It waits
behind a write of its words that is held for log room (R138). -/
def State.homeWrite (s : State) (src : Src) (attr : Attr) (pres : Bool) (pa : Nat) (bs : List Byte) : LogRes :=
  if s.logBlocked src pa bs.length then .wait
  else
  let s := s.rekeyFor attr.conf pa bs.length
  match s.logWords src attr pres pa bs (wordsOf pa bs.length) with
  | .done s =>
    let s := s.freeHeld src pa bs.length
    let s := s.storeBytes attr pa bs
    .done (if paDie pa = src.die && paPkg pa = s.pkgNum then s else s.rdcStore src.die pa bs)
  | r => r

/-- A read at a home slice: its bytes under the access's key. -/
def State.homeRead (s : State) (attr : Attr) (pa n : Nat) : List Byte :=
  (List.range n).map fun i => s.byteAs attr.conf (pa + i)

/-- Record the order of the lines an access touches (R145). -/
def State.orderLines (s : State) (ln : Nat) (ag : Option Agent) : List Nat → LogRes
  | [] => .done s
  | l :: r =>
    match s.orderLine ln ag (128 * l) with
    | .done s => State.orderLines s ln ag r
    | e => e

/-- A read by a logged context records the order of its lines (R145), and waits behind a held write of its words (R138). -/
def State.homeReadOrder (s : State) (src : Src) (pa n : Nat) : LogRes :=
  if s.logBlocked src pa n then .wait
  else if src.lognum ≠ 0 && !src.foreign then s.orderLines src.lognum src.agent (linesOf pa n)
  else .done s

/-- A read of a logged context that the remote-data cache serves: it leaves no record and counts among the accesses to its line; in
replay it goes to its slice where the line's next ORDER is due (R146; log entry 98). -/
def State.hitOrder (s : State) (src : Src) (pa : Nat) : Option State :=
  if src.lognum = 0 || src.foreign || (s.log src.lognum).isNone then some s
  else if s.turnOver src.lognum (s.sliceOf pa) (pa / 128) then none
  else some (s.countLine (pa / 128))

/-! ## Banks (R64-R69) -/

/-- The place of a global access (R66). -/
inductive Place where
  | bank (cell tile line off : Nat)
  | home
  | rdc
  | pod
deriving DecidableEq, Repr

/-- The pin of a VA among the bank ranges of a region (R66 step 1). -/
def Region.pinVa (r : Region) (va : Nat) : Option Pin := r.pins.find? fun p => p.va == va / 65536

/-- The pin of a physical granule on a die (R66 step 2). -/
def State.pinPa (s : State) (d pa : Nat) : Option Pin :=
  (s.regions.filterMap fun e => if keyDie e.1 = d then e.2.pins.find? fun p => p.pa == pa / 65536 else none).head?

/-- Where an access goes (R66): every access made on a compute die reaches a bank of that die; an I/O die has neither bank nor
remote-data cache. -/
def State.placeOf (s : State) (src : Src) (pa : Nat) : Place :=
  match s.pinPa src.die pa with
  | some p => .bank p.cell p.tile (p.va * 512 + pa % 65536 / 128) (pa % 128)
  | none => if paPkg pa ≠ s.pkgNum then .pod else if paDie pa = src.die || 64 ≤ src.die then .home else .rdc

/-- A line of a bank that holds nothing. -/
def BankLine.fresh : BankLine := { data := 0, valid := 0, dirty := 0, poison := false, filling := false, acc := none }

/-- The bytes of a bank line. -/
def BankLine.byte (l : BankLine) (i : Nat) : Byte := (l.data >>> (8 * i)).setWidth 8

/-- A bank line with a byte set. -/
def BankLine.putByte (l : BankLine) (i : Nat) (b : Byte) (dirty : Bool) : BankLine :=
  { l with data := (l.data &&& ~~~((0xFF : BitVec 1024) <<< (8 * i))) ||| (b.setWidth 1024 <<< (8 * i))
           valid := l.valid ||| ((1 : BitVec 128) <<< i)
           dirty := if dirty then l.dirty ||| ((1 : BitVec 128) <<< i) else l.dirty }

/-- Are bytes of a line valid (R69)? -/
def BankLine.hasBytes (l : BankLine) (off n : Nat) : Bool := (List.range n).all fun i => l.valid.getLsbD (off + i)

/-- The home address of a bank line, through the pin of its granule. -/
def State.bankHome (s : State) (cell tile line : Nat) : Option (Nat × Attr) :=
  (s.regions.filterMap fun e =>
    (e.2.pins.find? fun p => p.cell == cell && p.tile == tile && p.va == line / 512).map
      fun p => (p.pa * 65536 + line % 512 * 128, p.attr)).head?

/-- The dirty bytes of a line as runs of offset and length: the whole line, or one byte each. -/
def BankLine.runs (l : BankLine) : List (Nat × Nat) :=
  if l.dirty = BitVec.allOnes 128 then [(0, 128)]
  else ((List.range 128).filter fun i => l.dirty.getLsbD i).map fun i => (i, 1)

/-- Some bytes of a line. -/
def BankLine.bytes (l : BankLine) (r : Nat × Nat) : List Byte := (List.range r.2).map fun i => l.byte (r.1 + i)

/-- The log of the region that owns a bank, 0 for none. -/
def State.bankLog (s : State) (cell tile : Nat) : Nat :=
  match ((s.cell cell).tile tile).owner with | some k => s.logOf k | none => 0

/-- Dirty bytes at their home slice (R67, R82, R132): a tile that another context's log owns records CTXWRITE. -/
def State.backHome (s : State) (cell tile : Nat) (l : BankLine) (pa : Nat) (attr : Attr) : State :=
  let own := s.ownerLog pa
  let s := if own ≠ 0 && own ≠ s.bankLog cell tile then s.horizon own 4 else s
  let s := l.runs.foldl (fun s r => s.storeBytes attr (pa + r.1) (l.bytes r)) s
  if l.poison then s.markLine (pa / 128) else s

/-- A bank's access to another package, which goes on its own; for a logged context it is a horizon (R140, R436, R437). With
no plane left it is held until a PODCFG. A write-back of poisoned bytes carries their mark there (R82), as `exp`. -/
def State.bankPod (s : State) (op cell tile pa : Nat) (parts : List (Nat × Nat × Nat)) (marked : Bool := false) : State :=
  let x : Access :=
    { id := s.nextAcc, agent := noAgent, seq := 0, baddr := 0, log := false, wave := none, slot := tile, op := op, kind := .elem
      ty := .i8, vec := false, sc := 3, ord := .rlx, loc := false, addr := cell, data := 0, exp := bit marked, committed := true, outs := []
      units := parts.map fun p => { va := pa + p.1, size := p.2.1, st := .pod ((s.planeFor pa).getD 32) s.cycle, pa := pa + p.1
                                    attr := attrPlain, val := p.2.2, old := 0, via := none } }
  let ln := s.bankLog cell tile
  let s := { s with accs := s.accs ++ [x], nextAcc := s.nextAcc + 1 }
  if (s.log ln).isSome then s.horizon ln 3 else s

/-- Is a write-back of a bank to another package still due at its home (R67, R437)? -/
def State.backDue (s : State) (cell tile : Nat) : Bool := s.accs.any fun x => x.op = opBack && x.addr = cell && x.slot = tile

/-- Is a write-back of a region's banks to another package still due? -/
def State.regionBackDue (s : State) (k : Nat) : Bool :=
  match s.regions.find k with | some r => r.pins.any fun p => s.backDue p.cell p.tile | none => false

/-- Write back the dirty bytes of a line with their mask, and clear it (R67); a poisoned byte poisons its home line
(R82). -/
def State.writeBack (s : State) (cell tile line : Nat) : State :=
  match ((s.cell cell).tile tile).lines.find line, s.bankHome cell tile line with
  | some l, some (pa, attr) =>
    if l.dirty = 0 then s
    else
      let s := if paPkg pa = s.pkgNum then s.backHome cell tile l pa attr
        else s.bankPod opBack cell tile pa (l.runs.map fun r => (r.1, r.2, leNat (l.bytes r))) l.poison
      s.modCell cell fun c => c.modTile tile fun t => { t with lines := t.lines.put line { l with dirty := 0 } }
  | _, _ => s

/-- Write back every dirty line of a bank (R67). -/
def State.writeBackTile (s : State) (cell tile : Nat) : State :=
  (((s.cell cell).tile tile).lines.map (·.1)).foldl (fun s l => s.writeBack cell tile l) s

/-- The tiles in which a region holds banks in a cell. -/
def Cell.banksOf (c : Cell) (k : Nat) : List Nat := (c.tiles.filter fun e => e.2.owner = some k && e.2.role = 3).map (·.1)

/-- A cell's banks of a region written back, and whether a home in another package has still to answer: until then the tiles take no
new role (R67). -/
def State.clearBanks (s : State) (key k : Nat) : State × Bool :=
  let ts := (s.cell key).banksOf k
  let s := ts.foldl (fun s t => s.writeBackTile key t) s
  (s, ts.any (s.backDue key))

/-- Write back every bank of a region. -/
def State.writeBackRegion (s : State) (k : Nat) : State :=
  match s.regions.find k with
  | some r => (r.pins.map fun p => (p.cell, p.tile)).eraseDups.foldl (fun s e => s.writeBackTile e.1 e.2) s
  | none => s

/-- A bank line that an access may use: allocated, a fill requested where it was absent, another line written back and
replaced when the bank holds 512 (R67, R69). -/
def State.bankAlloc (s : State) (cell tile line : Nat) : State :=
  let ls := ((s.cell cell).tile tile).lines
  if (ls.find line).isSome then s
  else
    let s := if 512 ≤ ls.length then
        match ls with
        | (k, _) :: _ =>
          let s := s.writeBack cell tile k
          s.modCell cell fun c => c.modTile tile fun t => { t with lines := t.lines.drop k }
        | [] => s
      else s
    s.modCell cell fun c => c.modTile tile fun t =>
      { t with lines := t.lines.put line { BankLine.fresh with filling := true } }

/-- A bank forwards the agent changes of a logged context to the home slice of its own package (R145). -/
def State.bankOrder (s : State) (src : Src) (pa : Nat) : LogRes :=
  if src.lognum ≠ 0 && !src.foreign && paPkg pa = s.pkgNum then s.orderLine src.lognum src.agent pa else .done s

/-- The bytes of a store laid over a bank line, dirty or not. -/
def State.bankPut (s : State) (cell tile line off : Nat) (bs : List Byte) (dirty : Bool) : State :=
  s.modCell cell fun c => c.modTile tile fun t =>
    let l := t.lines.get line .fresh
    let l := (List.range bs.length).foldl (fun (l : BankLine) i => l.putByte (off + i) ((bs[i]?).getD 0) dirty) l
    { t with lines := t.lines.put line l }

/-- A store to a bank (R68, R69): a logged one is written through, and so is a foreign write to a tile that a log owns, which
that log records (R132); another context's write to such a tile is a horizon there (R140). -/
def State.bankWrite (s : State) (src : Src) (attr : Attr) (cell tile line off : Nat) (bs : List Byte) : LogRes :=
  let s := s.bankAlloc cell tile line
  match s.bankHome cell tile line with
  | none => .done (s.bankPut cell tile line off bs true)
  | some (pa, _) =>
    let own := if paPkg pa = s.pkgNum then s.ownerLog pa else 0
    if (src.lognum ≠ 0 && attr.log) || (src.foreign && own ≠ 0) then
      if paPkg pa ≠ s.pkgNum then
        .done ((s.bankPut cell tile line off bs false).bankPod opBack cell tile (pa + off) [(0, bs.length, leNat bs)])
      else
        match s.homeWrite src attr false (pa + off) bs with
        | .done s => .done (s.bankPut cell tile line off bs false)
        | r => r
    else
      let s := if !src.foreign && own ≠ 0 && own ≠ src.lognum then s.horizon own 4 else s
      match s.bankOrder src pa with
      | .done s => .done (s.bankPut cell tile line off bs true)
      | r => r

/-! ## The remote-data cache (R71, R123) -/

/-- Is a die's copy of a line current and filled? -/
def State.rdcHit (s : State) (d line : Nat) : Option RdcLine :=
  match (s.die d).rdc.find line with
  | some r => if r.gen = (s.die d).gen && !r.filling then some r else none
  | none => none

/-- Lines of a remote-data cache: 16 MiB of 128 bytes (R17, R71). -/
def rdcLines : Nat := 131072

/-- A remote-data cache with room for one line more: the spec gives no replacement order, and the line of the lowest address
goes (DESIGN CHOICE, log entry 33). -/
def Die.rdcRoom (d : Die) : Die :=
  if d.rdc.length < rdcLines then d else match d.rdc with | (k, _) :: _ => { d with rdc := d.rdc.drop k } | [] => d

/-- Request a fill of a line at the current generation (R71). -/
def State.rdcRequest (s : State) (d line : Nat) : State :=
  let ask (x : Die) : Die := { x with rdc := x.rdc.put line { gen := x.gen, data := 0, filling := true, laid := 0, poison := false } }
  match (s.die d).rdc.find line with
  | some r => if r.gen = (s.die d).gen then s else s.modDie d ask
  | none => s.modDie d fun x => ask x.rdcRoom

/-- An acquire at pkg or pod scope advances the die's generation; on a wrap every copy goes (R71). -/
def State.advanceGen (s : State) (d : Nat) : State :=
  s.modDie d fun x => if x.gen + 1 = 2 ^ 32 then { x with gen := 0, rdc := [] } else { x with gen := x.gen + 1 }

/-- Generation advance of an acquire at a scope by an agent (R71, R104). -/
def State.acquireAt (s : State) (a : Agent) (sc : Nat) : State :=
  let eff := match a with
    | .helm c => if c ≥ 256 && sc ≤ 3 then 4 else sc
    | .task .. => sc
  if 4 ≤ eff && a.die < 64 then s.advanceGen a.die else s

/-! ## A source of accesses -/

/-- The source of a task's or helm core's accesses (R131, R132). -/
def State.srcOf (s : State) (a : Agent) : Src :=
  match a with
  | .task .. =>
    let c := s.cfgOf a
    { agent := some a, die := a.die, region := c.region, lognum := field c.ulog 63 56
      blockLog := match s.win a with | some w => hdrLog (blockHeader c.blocks w.baddr) | none => false
      foreign := false, hz := 0 }
  | .helm _ => { agent := some a, die := a.die, region := 0, lognum := 0, blockLog := false, foreign := true, hz := 0 }

/-- The source of copy engine `eng`, four to an I/O die; `hz` is BIGCOPY for a destination above 1 MiB (R16, R132). -/
def srcCopy (eng : Nat) (big : Bool) : Src :=
  { agent := none, die := 64 + eng / 4 % 4, region := 0, lognum := 0, blockLog := false, foreign := true, hz := if big then 5 else 0 }
/-- The source of the io0 agent's writes of host payloads (R132). -/
def srcHost : Src := { agent := none, die := 64, region := 0, lognum := 0, blockLog := false, foreign := true, hz := 2 }
/-- The source of pod-port, scheduler and binnacle accesses made on a die, whose writes are logged as foreign ones (R132,
R412). -/
def srcForeign (d : Nat) : Src := { agent := none, die := d, region := 0, lognum := 0, blockLog := false, foreign := true, hz := 0 }

/-! ## Performing one access at its place (R66) -/

/-- What performing gives: done with the bytes read; to be tried again; a fault of R78 by its MCAUSE; log full. -/
inductive PerfRes where
  | done (s : State) (old : Nat)
  | wait (s : State)
  | fail (fclass mcause : Nat)
  | full (ln key held : Nat)
  | diverge (ln : Nat)
  | pod (plane pa : Nat)

/-! ## Links between dies (R15, R389, R435, R449) -/

/-- The two ends of UCIe link `j`; 64 to 67 stand for io0 to io3. -/
def linkEnds (j : Nat) : Nat × Nat :=
  if j < 56 then (8 * (j / 7) + j % 7, 8 * (j / 7) + j % 7 + 1)
  else if j < 112 then (j - 56, j - 48)
  else (64 + (j - 112) % 4, [0, 7, 56, 63].getD ((j - 112) % 4) 0)

/-- Is a UCIe link up? -/
def State.linkUp (s : State) (j : Nat) : Bool := s.readyBits.contains (2112 + j) && s.linkLanes j != 0
/-- Is a UCIe link up, or may it still come up in this bring-up? -/
def State.linkHope (s : State) (j : Nat) : Bool := s.linkUp j || (s.linkLanes j != 0 && !s.failedBits.contains (2112 + j))

/-- Nodes that a set of nodes (a bit each) reaches over usable links in some passes; a pass that adds none is the last. -/
def reachGo (up : Nat → Bool) : Nat → Nat → Nat
  | 0, m => m
  | n + 1, m =>
    let m' := (List.range 116).foldl (fun m j =>
      let e := linkEnds j
      if up j && (m.testBit e.1 || m.testBit e.2) then m ||| 2 ^ e.1 ||| 2 ^ e.2 else m) m
    if m' = m then m else reachGo up n m'

/-- Does a route between two dies remain? Every pass but the last adds one of the 68 at least. -/
def dieRoute (up : Nat → Bool) (a b : Nat) : Bool := a = b || (reachGo up 68 (2 ^ a)).testBit b

/-- The direction of link `j` as seen from its first end, or from its second: east and west, south and north (R386). The link of an
I/O die has none of them. -/
def linkDir (j : Nat) (fst : Bool) : Option Nat :=
  if j < 56 then some (if fst then 1 else 3) else if j < 112 then some (if fst then 2 else 0) else none

/-- The failed links that cut a die off, with the direction of each seen from the die's side. -/
def State.cutDirs (s : State) (src : Nat) : List (Option Nat) :=
  let m := reachGo s.linkHope 68 (2 ^ src)
  (List.range 116).filterMap fun j =>
    let e := linkEnds j
    if m.testBit e.1 != m.testBit e.2 then some (linkDir j (m.testBit e.1)) else none

/-- Where no route between two dies remains: an access waits while a link may still come up, else the link is down, with the direction
of the failed link (R386, R389, R449). Where several links cut the die off, which of them is a free value, and so is the direction of an
I/O die's link (log entry 5). -/
def State.crossing (s : State) (src dst : Nat) : Option Nat :=
  if dieRoute s.linkUp src dst then none
  else if dieRoute s.linkHope src dst then some 0
  else
    let w := Config.freeWord 36 s.free
    let cs := s.cutDirs src
    some (33 + ((cs[w.toNat / 4 % max 1 cs.length]?).join).getD (field w 1 0))

/-- The detail of LINK_DOWN: a UCIe link's direction, or the pod plane that was removed last (R386, R436). -/
def State.linkDetail (s : State) (p : Nat) : Nat := if 33 ≤ p then p - 33 else 64 + s.lastPlane

/-- Is a home line unreadable: poisoned, or on a failed channel (R81, R82)? The MCAUSE. -/
def State.ueAt (s : State) (pa n : Nat) : Option Nat :=
  if s.chanFailed pa then some 5 else if (linesOf pa n).any s.poison.contains then some 4 else none

/-- An access that crosses to its home die, or does not. -/
def State.viaLinks (s : State) (src : Src) (pa : Nat) (r : PerfRes) : PerfRes :=
  match s.crossing src.die (paDie pa) with
  | none => r
  | some 0 => .wait s
  | some p => .pod p pa

/-- A read performs at its home slice (R70, R81, R82). -/
def State.readHome (s : State) (src : Src) (attr : Attr) (pa n : Nat) : PerfRes :=
  match s.ueAt pa n with
  | some m => .fail fcPoison m
  | none =>
    match s.homeReadOrder src pa n with
    | .done s => .done s (leNat (s.homeRead attr pa n))
    | .full ln k held => .full ln k held
    | .wait => .wait s
    | .diverge ln => .diverge ln

/-- Read bytes at their place. `relaxed` lets a copy in the remote-data cache serve a MUT line (R71). -/
def State.readAt (s : State) (src : Src) (attr : Attr) (relaxed : Bool) (pa n : Nat) : PerfRes :=
  match s.placeOf src pa with
  | .bank c t line off =>
    let s := s.bankAlloc c t line
    let l := ((s.cell c).tile t).lines.get line .fresh
    if paPkg pa = s.pkgNum && s.chanFailed pa then .fail fcPoison 5
    else if !l.hasBytes off n then
      (if paPkg pa = s.pkgNum then s.viaLinks src pa (.wait s)
       else match l.bad with
         | some e => .fail e.1 e.2
         | none => if (s.planeFor pa).isNone then .pod 32 pa else .wait s)
    else
      match s.bankOrder src pa with
      | .done s =>
        if !l.hasBytes off n then .wait s
        else if l.poison then .fail fcPoison 4
        else .done s (leNat ((List.range n).map fun i => l.byte (off + i)))
      | .full ln k held => .full ln k held
      | .wait => .wait s
      | .diverge ln => .diverge ln
  | .home =>
    s.viaLinks src pa <|
    s.readHome src attr pa n
  | .rdc =>
    if relaxed && attr.kind = 0 && s.ktag.get (pa / 128) 0 = attr.conf && !s.chanFailed pa then
      let asked := optB ((s.die src.die).rdc.find (pa / 128)) fun r => r.filling && r.gen = (s.die src.die).gen
      match (s.rdcHit src.die (pa / 128)).bind fun r => (s.hitOrder src pa).map fun t => (r, t), s.ueAt pa n with
      | some (r, t), _ =>
        if r.poison then .fail fcPoison 4 else .done t (fieldN r.data.toNat (8 * (pa % 128 + n) - 1) (8 * (pa % 128)))
      | none, some m => s.viaLinks src pa (.fail fcPoison m)
      | none, none =>
        if asked then s.viaLinks src pa (.wait s) else
        s.viaLinks src pa (match s.homeReadOrder src pa n with
          | .done s => .wait (s.rdcRequest src.die (pa / 128))
          | .full ln k held => .full ln k held
          | .wait => .wait s
          | .diverge ln => .diverge ln)
    else s.viaLinks src pa (s.readHome src attr pa n)
  | .pod => match s.planeFor pa with | some p => .pod p pa | none => .pod 32 pa

/-- Write bytes at their place. `pres` sets presence bits of wholly covered words, as fills do (R73, R76). -/
def State.writeAt (s : State) (src : Src) (attr : Attr) (pres : Bool) (pa : Nat) (bs : List Byte) : PerfRes :=
  let home (s : State) : PerfRes :=
    if s.chanFailed pa then .fail fcPoison 5
    else
      match s.homeWrite src attr pres pa bs with
      | .done s =>
        let ws := if src.joins then wholeWords (pa / 8 * 8) (pa % 8 + bs.length) else wholeWords pa bs.length
        .done (if pres then { s with presence := ws.foldl setAdd s.presence } else s) 0
      | .full ln k held => .full ln k held
      | .wait => .wait s
      | .diverge ln => .diverge ln
  match s.placeOf src pa with
  | .bank c t line off =>
    if paPkg pa = s.pkgNum && s.chanFailed pa then .fail fcPoison 5
    else
      match s.bankWrite src attr c t line off bs with
      | .done s => .done s 0
      | .full ln k held => .full ln k held
      | .wait => .wait s
      | .diverge ln => .diverge ln
  | .home => s.viaLinks src pa (home s)
  | .rdc => s.viaLinks src pa (home s)
  | .pod => match s.planeFor pa with | some p => .pod p pa | none => .pod 32 pa

/-- A range cut at lines, each with its length. -/
def lineCuts (pa n : Nat) : List (Nat × Nat) :=
  (linesOf pa n).map fun l => (max pa (128 * l), min (pa + n) (128 * l + 128) - max pa (128 * l))

/-- Read parts of a range at one point, each at its place; the first is the lowest in the value (R66, R103). -/
def State.readCuts (s : State) (src : Src) (attr : Attr) (relaxed : Bool) : List (Nat × Nat) → PerfRes
  | [] => .done s 0
  | (pa, n) :: r =>
    match s.readAt src attr relaxed pa n with
    | .done s v =>
      match State.readCuts s src attr relaxed r with
      | .done s w => .done s (v + 2 ^ (8 * n) * w)
      | e => e
    | e => e

/-- Read a range within a page at one point (R66, R103). -/
def State.readSpan (s : State) (src : Src) (attr : Attr) (relaxed : Bool) (pa n : Nat) : PerfRes :=
  s.readCuts src attr relaxed (lineCuts pa n)

/-- Write the parts of a range at one point: all or none. -/
def State.writeCuts (s0 s : State) (src : Src) (attr : Attr) (pres : Bool) (pa : Nat) (bs : List Byte) : List (Nat × Nat) → PerfRes
  | [] => .done s 0
  | (a, n) :: r =>
    match s.writeAt src attr pres a ((bs.drop (a - pa)).take n) with
    | .done s _ => State.writeCuts s0 s src attr pres pa bs r
    | .wait _ => .wait s0
    | e => e

/-- Write bytes to a range within a page at one point (R66, R103). -/
def State.writeSpan (s : State) (src : Src) (attr : Attr) (pres : Bool) (pa : Nat) (bs : List Byte) : PerfRes :=
  s.writeCuts s src attr pres pa bs (lineCuts pa bs.length)

/-- A write has covered a whole line: the mark goes where the line's bytes went (R82), and from the die's copy of it. -/
def State.clearMark (s : State) (src : Src) (pa : Nat) : State :=
  let s := match (s.die src.die).rdc.find (pa / 128) with
    | some r => if r.poison then s.modDie src.die fun x => { x with rdc := x.rdc.put (pa / 128) { r with poison := false } } else s
    | none => s
  match s.placeOf src pa with
  | .bank c t line _ => s.modCell c fun x => x.modTile t fun y => { y with lines := y.lines.put line { y.lines.get line .fresh with poison := false } }
  | .pod => s
  | _ => { s with poison := setDel s.poison (pa / 128) }

/-- A read-modify-write at its place: `f` gives the new value, or none to write nothing (R102, R313). -/
def State.rmwAt (s : State) (src : Src) (attr : Attr) (pa n : Nat) (f : Nat → Option Nat) : PerfRes :=
  match s.readAt src attr false pa n with
  | .done s old =>
    match f old with
    | none => .done s old
    | some v =>
      match s.writeAt src attr false pa (leBytes v n) with
      | .done s _ => .done s old
      | r => r
  | r => r

end Sys2Proof.Machine
end

