-- ==== Sys2Proof/Machine/Barrier.lean ====
section
/-! DEFINITION. Barrier instances of the networks (R208, R324-R327): their keys, capacity, arrivals, the completion of a
phase and its combined value. -/

namespace Sys2Proof.Machine

/-- SC of a synchronisation instruction (R322). -/
def FmtS.sc (f : FmtS) : Nat := fieldN f.sel.toNat 13 11
/-- BID of a barrier instruction (R322). -/
def FmtS.bid (f : FmtS) : Nat := fieldN f.sel.toNat 10 7
/-- ROP of BARW (R322). -/
def FmtS.rop (f : FmtS) : Nat := fieldN f.sel.toNat 6 4
/-- VTY of BARW (R322). -/
def FmtS.vty (f : FmtS) : Nat := fieldN f.sel.toNat 3 0
/-- NOWAIT of BART (R322). -/
def FmtS.nowait (f : FmtS) : Bool := f.sel.toNat.testBit 6

/-! ## Scopes (R12, R13, R104, R105) -/

/-- The scope at which an agent's accesses, fences and barriers act: a helm core is a member of no narrower one (R104, R324). -/
def barScope (a : Agent) (sc : Nat) : Nat :=
  match a with
  | .task .. => sc
  | .helm c => if c < 256 then max sc 3 else max sc 4

/-- The instance of a level that holds an agent (R12, R104); none where it is a member of no instance of that level. -/
def levelInst (a : Agent) (level : Nat) : Option Nat :=
  match a, level with
  | .task d p t, 0 => some (cellKey d p * 8 + t)
  | .task d p _, 1 => some (cellKey d p)
  | .task d p _, 2 => some (64 * d + p / 32 * 8 + p % 16 / 2)
  | .task d _ _, 3 => some d
  | .helm c, 3 => if c < 256 then some (c / 4) else none
  | _, 4 => some 0
  | _, 5 => some 0
  | _, _ => none

/-- The scope instance of a scope that holds an agent (R105). -/
def barInst (a : Agent) (sc : Nat) : Nat := (levelInst a (barScope a sc)).getD 0

/-- Who issues events (R104): a task or helm core (a stream port issues as its task), a copy of an engine, a pod-port agent for another
package. -/
inductive Party where
  | agent (a : Agent)
  | copy (io : Nat)
  | podPort (pkg : Nat)
deriving DecidableEq, Repr

/-- The scope at which a party's access or fence acts; a copy's are at pkg or pod by R127, a pod-port agent's at pod. -/
def Party.scope (p : Party) (sc : Nat) : Nat :=
  match p with
  | .agent a => barScope a sc
  | .copy _ => max sc 4
  | .podPort _ => 5

/-- The instance of a level that holds a party. -/
def Party.inst (p : Party) (level : Nat) : Option Nat :=
  match p with
  | .agent a => levelInst a level
  | .copy _ => if level = 4 || level = 5 then some 0 else none
  | .podPort _ => if level = 5 then some 0 else none

/-- Does a party lie in the scope instance of another's access or fence at a scope (R105)? -/
def Party.inScopeOf (q p : Party) (sc : Nat) : Bool :=
  let l := p.scope sc
  (p.inst l).isSome && q.inst l == p.inst l

/-- Do two accesses, or an access and a fence, include each other (R105)? -/
def includeEachOther (p : Party) (sc : Nat) (q : Party) (sc' : Nat) : Bool := q.inScopeOf p sc && p.inScopeOf q sc'

/-- The scope of an access: a local one acts at cell at most (R104). -/
def Access.actsAt (x : Access) : Nat := barScope x.agent (if x.loc then min x.sc 1 else x.sc)

/-- Do two accesses include each other? -/
def Access.includes (x y : Access) : Bool := includeEachOther (.agent x.agent) x.actsAt (.agent y.agent) y.actsAt

/-- The ASID of an agent's arrivals (R324): its context's, or for a helm core that of the context HELM.CSEL selects, 0
where that holds no chart. -/
def State.barAsid (s : State) (a : Agent) : Nat :=
  match a with
  | .task .. => (s.cfgOf a).asid
  | .helm n =>
    let w := (s.helm n).csel
    let x := (s.cell (cellKey (field w 21 16) (field w 15 8))).cctx (field w 5 4)
    if x.st == .free then 0 else x.asid

/-- A barrier instance that nothing has reached. -/
def Barrier.fresh (sc inst asid bid : Nat) : Barrier :=
  { sc := sc, inst := inst, asid := asid, bid := bid, ctr := 0, n := 0, rop := 0, vty := 0, arrivals := [], others := [], lastVal := none, lastFlags := 0 }

/-- Does an instance have the key of an agent's instruction (R324)? -/
def State.barIs (s : State) (a : Agent) (f : FmtS) (b : Barrier) : Bool :=
  b.sc == barScope a f.sc && b.inst == barInst a f.sc && b.asid == s.barAsid a && b.bid == f.bid

/-- The instance that an agent's instruction names. -/
def State.barrierOf (s : State) (a : Agent) (f : FmtS) : Barrier :=
  (s.barriers.find? (s.barIs a f)).getD (.fresh (barScope a f.sc) (barInst a f.sc) (s.barAsid a) f.bid)

/-- The arrivals of a phase, those of other packages with them. -/
def Barrier.count (b : Barrier) : Nat := b.others.foldl (fun n o => n + o.count) b.arrivals.length

/-- Can an instance take some more arrivals: its phase does not pass its N, and it has arrivals already or is one of 64 (R324)? -/
def State.barTakes (s : State) (b : Barrier) (more n : Nat) : Bool :=
  if b.count = 0 then
    more ≤ n && (s.barriers.filter fun x => x.sc == b.sc && x.inst == b.inst && x.count != 0).length < 64
  else b.count + more ≤ b.n

/-- Can the instance that an agent's instruction names take its arrival? -/
def State.barRoom (s : State) (a : Agent) (f : FmtS) : Bool := s.barTakes (s.barrierOf a f) 1 1

/-- Is an agent's context in replay, as its cell's choices go (R145)? -/
def State.replays (s : State) (a : Agent) : Bool :=
  match a with
  | .helm _ => false
  | .task d p _ =>
    match s.log (s.cctxLog (cellKey d p) (s.task a).cctx) with
    | some l => l.replaying (choiceKey (cellKey d p))
    | none => false

/-- An instance that an arrival reaches: the first one gives N, the first valued one ROP and VTY (R324). -/
def Barrier.open (b : Barrier) (n rop vty : Nat) : Barrier :=
  let b := if b.count = 0 then { b with n := n, rop := 0, vty := 0 } else b
  if b.rop = 0 then { b with rop := rop, vty := vty } else b

/-- An instance with one more arrival (R324). -/
def Barrier.arrive (b : Barrier) (a : Agent) (f : FmtS) (v : Option Token) : Barrier :=
  let b := if v.isSome then b.open (f.aux.toNat + 1) f.rop f.vty else b.open (f.aux.toNat + 1) 0 0
  { b with arrivals := b.arrivals ++ [(a, v)] }

/-- An agent's instruction arrives (R324, R325, R326). -/
def State.arrive (s : State) (a : Agent) (f : FmtS) (v : Option Token) : State :=
  let b := (s.barrierOf a f).arrive a f v
  if (s.barriers.find? (s.barIs a f)).isSome then
    { s with barriers := s.barriers.map fun x => if s.barIs a f x then b else x }
  else { s with barriers := s.barriers ++ [b] }

/-- Arrivals of another package reach an instance of pod scope (R23, R324); with no room there they wait, and reach it again. -/
def State.podArrive (s : State) (pkg asid bid n count : Nat) (val : Option (Nat × Nat × Nat × Nat)) : State :=
  let is (b : Barrier) : Bool := b.sc == 5 && b.asid == asid && b.bid == bid
  let b := (s.barriers.find? is).getD (.fresh 5 0 asid bid)
  if pkg = s.pkgNum || 512 ≤ pkg || 16 ≤ bid || 2 ^ 16 ≤ asid || count = 0 || 2 ^ 18 < n || !s.barTakes b count n
    || optB val (fun v => v.1 = 0 || 6 < v.1) then s
  else
    let b' := match val with | some v => b.open n v.1 v.2.1 | none => b.open n 0 0
    let b' := { b' with others := b'.others ++ [{ pkg := pkg, count := count, val := val.map fun v => (v.2.2.1, v.2.2.2 % 64) }] }
    if (s.barriers.find? is).isSome then { s with barriers := s.barriers.map fun x => if is x then b' else x }
    else { s with barriers := s.barriers ++ [b'] }

/-- Is phase `p` of an instance complete (R326)? -/
def Barrier.complete (b : Barrier) (p : Nat) : Bool :=
  let d := (b.ctr + 2 ^ 32 - p % 2 ^ 32) % 2 ^ 32
  1 ≤ d && d ≤ 2 ^ 31

/-- Is `p` the last completed phase? -/
def Barrier.isLast (b : Barrier) (p : Nat) : Bool := (b.ctr + 2 ^ 32 - p % 2 ^ 32) % 2 ^ 32 = 1

/-! ## The combined value (R208, R325) -/

/-- The operation of a ROP code (R322). -/
def barRop (n : Nat) : Rop := match n with | 1 => .add | 2 => .min | 3 => .max | 4 => .and | 5 => .or | _ => .xor

/-- Combine a list in the fixed tree: float adds round under RNE with SAT 0, integer adds wrap (R325). -/
def barTree (op : Rop) (ty : Ty) (l : List Nat) : Res := reduceElems op ty .rne false 1 l

/-- Combine results, with the flags they carry. -/
def barJoin (op : Rop) (ty : Ty) (l : List Res) : Res :=
  let r := barTree op ty (l.map (·.bits))
  { r with flags := l.foldl (fun f x => f ||| x.flags) r.flags }

/-- The value of one arrival at the lane level: a vector is reduced over its lanes first (R23, R208; log entry 109). -/
def barLanes (op : Rop) (ty : Ty) (t : Token) : Res :=
  if t.kind == .vector then barTree op ty (t.lanes ty) else ⟨t.elem ty, 0, 1⟩

/-- The members of a list that share a key below `n`, each group combined, in ascending order of the key. -/
def barGroups (n : Nat) (key : Agent → Nat) (g : List (Agent × Res) → Res) (l : List (Agent × Res)) : List Res :=
  (List.range n).filterMap fun k =>
    let x := l.filter fun e => key e.1 = k
    if x.isEmpty then none else some (g x)

/-- The arrivals of one cell: tasks ascending, those of one task in arrival order. -/
def barCell (op : Rop) (ty : Ty) (l : List (Agent × Res)) : Res :=
  let num (a : Agent) : Nat := match a with | .task _ _ t => t | .helm _ => 0
  barJoin op ty ((List.range 8).flatMap fun t => (l.filter fun e => num e.1 = t).map (·.2))

/-- The arrivals of one die: cells by logical number, then helm cores by number. -/
def State.barDie (s : State) (op : Rop) (ty : Ty) (l : List (Agent × Res)) : Res :=
  let cellOf (a : Agent) : Nat := match a with | .task d p _ => (s.die d).logical p | .helm _ => 256
  let core (a : Agent) : Nat := match a with | .task .. => 4 | .helm c => c % 4
  let hs := (List.range 4).flatMap fun k => (l.filter fun e => core e.1 = k).map (·.2)
  barJoin op ty (barGroups 256 cellOf (barCell op ty) l ++ hs)

/-- The result of one package: dies by id, io0 to io3 after die 63. -/
def State.barPkg (s : State) (op : Rop) (ty : Ty) (l : List (Agent × Res)) : Res :=
  barJoin op ty (barGroups 68 Agent.die (s.barDie op ty) l)

/-- The results of the packages, by package number; several of one package stand in the order in which they came. -/
def State.barPkgs (s : State) (op : Rop) (ty : Ty) (l : List (Agent × Res)) (os : List PodArr) : List Res :=
  (List.range 512).flatMap fun p =>
    (if p = s.pkgNum && !l.isEmpty then [s.barPkg op ty l] else [])
    ++ (os.filter fun o => o.pkg = p).filterMap fun o => o.val.map fun v => (⟨v.1 % 2 ^ ty.width, v.2, 1⟩ : Res)

/-- The combined value of valued arrivals at a scope (R208, R325). -/
def State.barValue (s : State) (sc : Nat) (op : Rop) (ty : Ty) (l : List (Agent × Res)) (os : List PodArr) : Res :=
  if sc ≤ 3 then s.barDie op ty l else if sc = 4 then s.barPkg op ty l else barJoin op ty (s.barPkgs op ty l os)

/-- A phase completes (R324, R325): the counter advances, the combined value and flags are kept. -/
def State.completePhase (s : State) (b : Barrier) : Barrier :=
  let ty := Ty.ofCode b.vty
  let vs := b.arrivals.filterMap fun e => e.2.map fun t => (e.1, barLanes (barRop b.rop) ty t)
  let r := s.barValue b.sc (barRop b.rop) ty vs b.others
  let bare := vs.isEmpty && b.others.all fun o => o.val.isNone
  { b with ctr := (b.ctr + 1) % 2 ^ 32, arrivals := [], others := []
           lastVal := if bare then none else some (wordOfElem ty r.bits), lastFlags := if bare then 0 else r.flags }

end Sys2Proof.Machine
end

