-- ==== Sys2Proof/Machine/Trace.lean ====
section
/-! DEFINITION. The trace writer (R420-R422): records packed into the region's buffer, never across a 4 KiB boundary. -/

namespace Sys2Proof.Machine

/-- An unsigned LEB128 number (R421); ten groups are enough for 64 bits. -/
def varintGo : Nat → Nat → List Byte
  | 0, n => [BitVec.ofNat 8 (n % 128)]
  | k + 1, n => if n < 128 then [BitVec.ofNat 8 n] else BitVec.ofNat 8 (128 + n % 128) :: varintGo k (n / 128)

/-- An unsigned LEB128 number (R421). -/
def varint (n : Nat) : List Byte := varintGo 9 (n % 2 ^ 64)

/-- CFG values of a region. -/
def Region.cfgOf (r : Region) : Cfg := { r.cfg with phys := false, priv := r.rank == 7 }

/-- The writer's write of bytes at a VA: through the region's CFG with access code 001, unlogged and with no horizon; none on a
fault (R420). A record lies in one page, so what is homed in another package goes there as one write. -/
def State.traceBytes (s : State) (k : Nat) (r : Region) : Nat → List Byte → Option State
  | _, [] => some s
  | va, b :: t =>
    match s.lookBare r.cfgOf accWrite va with
    | .hit pa attr =>
      if paPkg pa ≠ s.pkgNum then
        (s.planeFor pa).map fun p =>
          s.openUnits opTrace [{ va := va, size := t.length + 1, st := .pod p s.cycle, pa := pa, attr := attr, val := leNat (b :: t), old := 0, via := none }] k
      else
        let s := match s.pinPa (keyDie k) pa with
          | some p => (match s.bankWrite { srcForeign (keyDie k) with foreign := false } { attr with log := false } p.cell p.tile
              (p.va * 512 + pa % 65536 / 128) (pa % 128) [b] with
            | .done s => s
            | _ => s)
          | none => (s.storeBytes attr pa [b]).rdcStore (keyDie k) pa [b]
        State.traceBytes s k r (va + 1) t
    | _ => none

/-- A write of the trace that faults stops it (R420). -/
def State.traceFault (s : State) (k : Nat) : State :=
  s.modRegion k fun r => { r with trace := { r.trace with stat := r.trace.stat ||| 0x4000000000000000 } }

/-- Write bytes at the writer's position and move it on. -/
def State.tracePut (s : State) (k : Nat) (bs : List Byte) : State :=
  match s.regions.find k with
  | none => s
  | some r =>
    match s.traceBytes k r (r.trace.base.toNat + r.trace.wptr) bs with
    | some s => s.modRegion k fun r => { r with trace := { r.trace with wptr := r.trace.wptr + bs.length } }
    | none => s.traceFault k

/-- Cycles since activation, time SAVED left out: CYC of mailbox word 14 (R390). -/
def State.regionCyc (s : State) (r : Region) : Nat := s.cycle - r.activated - r.savedCyc

/-- At the end of the buffer: wrap, or full (R421). -/
def State.traceWrap (s : State) (k : Nat) : State :=
  s.modRegion k fun r =>
    let t := r.trace
    if t.wptr < t.size.toNat then r
    else if flag t.ctl 62 then { r with trace := { t with wptr := 0, stat := t.stat ||| 0x2000000000000000 } }
    else { r with trace := { t with stat := t.stat ||| 0x8000000000000000 } }

/-- Is the trace of a region running? -/
def TraceSt.on (t : TraceSt) : Bool := flag t.ctl 63 && !flag t.stat 63 && !flag t.stat 62

/-- The SYNC at the beginning of a 4 KiB block (R421). -/
def State.traceSync (s : State) (k : Nat) : State :=
  match s.regions.find k with
  | some r =>
    if r.trace.on && r.trace.wptr % 4096 = 0 then
      let s := s.tracePut k (0x10#8 :: leBytes (s.regionCyc r) 8 ++ leBytes (keyRid k) 2 ++ leBytes (keyDie k) 1)
      s.modRegion k fun r => { r with trace := { r.trace with lastCyc := s.cycle } }
    else s
  | none => s

/-- Write one record; `body` gives its bytes after the dcyc varint, `head` its first byte (R421). -/
def State.traceRec (s : State) (k : Nat) (head : Nat) (body : List Byte) : State :=
  let s := (s.traceWrap k).traceSync k
  match s.regions.find k with
  | none => s
  | some r =>
    if !r.trace.on then s
    else
      let mk (r : Region) : List Byte := BitVec.ofNat 8 head :: varint (s.cycle - r.trace.lastCyc) ++ body
      let room := 4096 - r.trace.wptr % 4096
      let s := if (mk r).length ≤ room then s
        else ((s.tracePut k (List.replicate room 0)).traceWrap k).traceSync k
      match s.regions.find k with
      | none => s
      | some r =>
        if !r.trace.on then s
        else
          let s := s.tracePut k (mk r)
          s.modRegion k fun r => { r with trace := { r.trace with lastCyc := s.cycle } }

/-- The position of an agent's cell in its region: POS (R421). -/
def State.posOf (s : State) (a : Agent) : Nat :=
  match a, s.regions.find (s.regionOf a) with
  | .task d p _, some r =>
    r.rect * 256 + (((s.die d).logRow (p / 16)).getD 0 - r.row0) * 16 + (p % 16 - r.col0)
  | _, _ => 0

/-- The NODE record of a firing (R421). -/
def State.traceNode (s : State) (a : Agent) (slot : Nat) : State :=
  let k := s.regionOf a
  match s.regions.find k with
  | none => s
  | some r =>
    if !(r.trace.on && flag r.trace.ctl 61) then s
    else
      let nd := s.nodeInfo a slot
      if nd.1 < field r.trace.nf 31 0 || field r.trace.nf 63 32 < nd.1 then s
      else
        let pos := s.posOf a
        let same := r.trace.lastPos == some pos
        let body := (if same then [] else varint pos) ++ varint nd.1 ++ nd.2.flatMap varint
        let s := s.traceRec k (0x20 + 2 * nd.2.length + bit same) body
        s.modRegion k fun r => { r with trace := { r.trace with lastPos := some pos } }

/-- An EVENT record (R421): 1 waypoint, 2 fault, 3 halt, 4 run, 5 pre-empted, 6 restored, 7 phase end. -/
def State.traceEvent (s : State) (k ev arg : Nat) : State :=
  match s.regions.find k with
  | some r => if r.trace.on && flag r.trace.ctl 58 then s.traceRec k (0x60 + ev) (varint arg) else s
  | none => s

/-- Count killed lanes of a group for the KILL record of the window (R421). -/
def State.traceKill (s : State) (k grp n : Nat) : State :=
  s.modRegion k fun r =>
    let ks := r.trace.kills ++ List.replicate (8 - r.trace.kills.length) 0
    { r with trace := { r.trace with kills := listModify ks grp (· + n) } }

/-- Count an elided row (R100, R421). -/
def State.traceElide (s : State) (k : Nat) : State :=
  s.modRegion k fun r => { r with trace := { r.trace with elided := r.trace.elided + 1 } }

end Sys2Proof.Machine
end

