-- ==== Sys2Proof/Machine/Fire.lean ====
section
/-! DEFINITION. Firing an instruction of a block: what makes it ready, where its tokens go, nulls and stop
pass-throughs (R154, R155, R158-R160, R237-R241, R289, R301, R345). -/

namespace Sys2Proof.Machine

/-! ## Faults of a block -/

/-- A block fault at a slot (R158-R161, R387); nothing when the task has already stopped, but at a BRK, where what had issued
completes (R270). -/
def State.blockFault (s : State) (a : Agent) (slot : Option Nat) (fclass detail addr : Nat) : State :=
  if (s.task a).st == .active || s.paused a then
    (s.takeFault a (s.faultOf a slot fclass detail addr)).traceEvent (s.regionOf a) 2 fclass
  else s

/-- BCAUSE of R160. -/
def bcNoExit : Nat := 1
def bcMultiExit : Nat := 2
def bcTwice : Nat := 3
def bcUnwritten : Nat := 4
def bcOperand : Nat := 5
def bcWave : Nat := 6
def bcOver : Nat := 7
def bcUnder : Nat := 8
def bcKind : Nat := 9

/-! ## Where tokens go -/

/-- Digit fields that take a whole fibre or row of groups (R298, R299, R340). -/
def manyGroups (op : Nat) : Bool := op = 0x5D || op = 0x5E || op = 0x62

/-- What a field does with a token that reaches it. -/
inductive Reach where | keep | drop | operand | kind
deriving DecidableEq, Repr

/-- Has the instruction completed, as itself, a null or a pass-through? -/
def Slot.done (sl : Slot) : Bool := sl.st == .fired || sl.st == .nulled || sl.st == .passed
/-- Has the instruction fired, whether or not it has completed? -/
def Slot.hasFired (sl : Slot) : Bool := sl.done || sl.st == .pending || sl.st == .running

/-- Does the L field of a MOV with SH 10 hold a group's head, so that digit tokens follow it (R243)? -/
def openGroup (fs : FieldSt) (e : Engine) : Bool :=
  optB fs.q.head? (fun y => y.tok.kind == .head || y.tok.kind == .digit) || e != .none

/-- What a field does with a token (R158, R160, R239, R289, R291, R345). -/
def reach (op : Nat) (f : Fmt) (sl : Slot) (x : Fld) (tok : Token) : Reach :=
  let fs := sl.fld x
  if digitField op f x then
    if tok.stop = 0 && (tok.kind == .word || tok.kind == .vector || tok.kind == .splice || (tok.kind == .scale && op != 0x62))
    then .kind
    else if tok.stop = 0 && tok.kind == .digit then
      (if !fs.got then .kind else if sl.done then .drop else .keep)
    else if manyGroups op then (if sl.done && fs.got then .operand else if sl.done then .drop else .keep)
    else if fs.got then .operand
    else if sl.done then .drop else .keep
  else if streamField op x then
    (if sl.st == .fired then .operand else if sl.done then (if fs.got then .operand else .drop) else .keep)
  else if op = 0x01 && f.sh == .digit && tok.kind == .digit && tok.stop = 0 && fs.got then
    (if sl.done then .drop else if openGroup fs sl.eng then .keep else .operand)
  else if fs.got then .operand
  else if sl.hasFired then .drop else .keep

/-- A slot's state changed. -/
def State.setSlot (s : State) (a : Agent) (i : Nat) (g : Slot → Slot) : State :=
  s.modWin a fun w => { w with slots := listModify w.slots i g }

/-- A field with a token added behind those it holds. -/
def FieldSt.push (fs : FieldSt) (tok : Token) (at0 src : Nat) : FieldSt :=
  { fs with got := true, q := fs.q ++ [{ tok := tok, at0 := at0, src := src }] }

/-- A token of slot `i` reaches a field of a slot in `lat` cycles (R158, R241). Faults are raised when it is sent (DESIGN CHOICE,
log entry 8). -/
def State.give (s : State) (a : Agent) (i n : Nat) (x : Fld) (tok : Token) (lat : Nat) : State :=
  match s.win a with
  | none => s
  | some w =>
    match w.slots[n]?, s.fieldsAt a w.baddr n with
    | some sl, some (op, f) =>
      if (sl.fld x).skip ≠ 0 then s.setSlot a n fun sl => sl.setFld x { sl.fld x with skip := (sl.fld x).skip - 1 }
      else
      match reach op f sl x tok with
      | .operand => if op = 0x62 && x == .l then s.blockFault a (some n) fcShape 1 0 else s.blockFault a (some n) fcWmask bcOperand 0
      | .kind => s.blockFault a (some n) fcWmask bcKind 0
      | .drop => s.setSlot a n fun sl => sl.setFld x { sl.fld x with got := true }
      | .keep =>
        -- behind a predicate that does not match, a token is discarded (R158)
        if sl.st == .waiting && x != .p && !tok.isNull && s.verdictAt a op f false sl (s.cycle + lat) == .dead then
          s.setSlot a n fun sl => sl.setFld x { sl.fld x with got := true }
        else s.setSlot a n fun sl => sl.setFld x (sl.fld x |>.push tok (s.cycle + lat) (i + 1))
    | _, _ => s

/-- The value a register takes from a token: none for a null (R240). Register numbers are those of READ. -/
def regValue (n : Nat) (tok : Token) : Option Payload :=
  if tok.stop != 0 then none
  else if n < 32 then (if tok.kind == .word then some tok.payload else none)
  else if tok.kind == .vector then some tok.payload else none

/-- A delivery to a register target: the second one is TWICE (R159, R160, R240). -/
def State.giveReg (s : State) (a : Agent) (i n : Nat) (v : Option Payload) : State :=
  match s.win a with
  | none => s
  | some w =>
    if (w.regs.find n).isSome then s.blockFault a (some i) fcWmask bcTwice 0
    else s.modWin a fun w => { w with regs := w.regs.put n v }

/-- The colour of a channel token: CTX.COLOR, or the X operand's bits [5:0] (R155). A pass-through sends its stop token although X may
not have arrived; the spec gives no colour then, and the model takes 0 (DESIGN CHOICE, log entry 111). -/
def State.chanColour (s : State) (a : Agent) (sl : Slot) (fromX : Bool) : Nat :=
  if fromX then (match sl.tok? .x with | some t => t.w64 % 64 | none => 0) else (s.task a).color

/-- A channel token: it leaves at commit, in firing order (R159); one of a digit producer or a stream instruction
leaves as it is produced (R290, R345). -/
def State.giveChan (s : State) (a : Agent) (i j : Nat) (fromX : Bool) (op : Nat) (f : Fmt) (tok : Token) : State :=
  match s.win a with
  | none => s
  | some w =>
    if tok.isNull then s
    else
      let tok := { tok with color := s.chanColour a ((w.slots[i]?).getD .fresh) fromX
                            origin := if digitProducer op f && tok.kind == .head then some (a, w.seq, i) else tok.origin }
      match a with
      | .helm _ => s
      | .task d p _ =>
        match (digitProducer op f || keepsPlace op), (s.task a).outCircuit j with
        | true, some c => s.modCell (cellKey d p) fun x => x.latchPut (64 * 4 + c) tok s.cycle
        | _, _ => s.modWin a fun w =>
            { w with outs := w.outs ++ [{ chan := j, tok := tok, fired := ((w.slots[i]?).getD .fresh).ord / 1024, slot := i }] }

/-- Send a token to a target (R158, R214, R237, R240). Nothing follows a fault; a BRK lets what had issued complete (R270). -/
def State.send (s : State) (a : Agent) (i op : Nat) (f : Fmt) (tgt : Target) (tok : Token) (lat : Nat) : State :=
  if (s.task a).fault.isSome && !s.paused a then s
  else
    match tgt with
    | .none => s
    | .slot n x => s.give a i n.val x tok lat
    | .sreg n => s.giveReg a i n.val (regValue n.val tok)
    | .vreg n => s.giveReg a i (32 + n.val) (regValue (32 + n.val) tok)
    | .chan n x => s.giveChan a i n.val x op f tok

/-- Send one token to TA, then to TB (R237). -/
def State.sendBoth (s : State) (a : Agent) (i op : Nat) (f : Fmt) (tok : Token) (lat : Nat) : State :=
  (s.send a i op f f.ta tok lat).send a i op f f.tb tok lat

/-! ## Counting a firing -/

/-- A firing is numbered (by cycle, then by its place in the block's attempt), traced and counts as movement (R174, R176, R415, R421). -/
def State.countFiring (s : State) (a : Agent) (i : Nat) (st : SlotSt) : State :=
  let s := s.traceNode a i
  let s := s.setSlot a i fun sl => { sl with st := st, ord := s.cycle * 1024 + (match s.win a with | some w => w.count | none => 0) }
  let s := s.modWin a fun w => { w with count := w.count + 1 }
  match a with
  | .task d p t =>
    let k := s.regionOf a
    let key := cellKey d p
    let s := s.spend k 0 1
    let s := s.modRegion k fun r =>
      let fill := r.fillCells.filter (· ≠ key)
      { r with moved := s.cycle, everFired := true, fillCells := fill
               fillDone := if fill.isEmpty && r.fillDone.isNone then some (s.cycle - r.activated - r.savedCyc) else r.fillDone }
    s.modCell (cellKey d p) fun c =>
      { (c.modCctx (c.task t).cctx fun x => { x with firedOnce := true }) with lastBusy := s.cycle }
  | .helm _ => s

/-! ## When an instruction may fire -/

/-- Is a slot's wave resolved: fired as an access, as a null or as a pass-through (R305)? -/
def Slot.resolved (sl : Slot) : Bool := sl.st != .waiting && sl.st != .dead

/-- The WV of a word of format M. -/
def Fmt.wave : Fmt → Option Nat | .m fm => some fm.wv.toNat | _ => none

/-- Are all waves of a block below `w0` resolved (R305)? -/
def State.wavesBelow (s : State) (a : Agent) (w : Win) (w0 : Nat) : Bool :=
  (List.range w.slots.length).all fun i =>
    match s.fieldsAt a w.baddr i, w.slots[i]? with
    | some (_, f), some sl => (match f.wave with | some v => w0 ≤ v || sl.resolved | none => true)
    | _, _ => true

/-- Do slots of lower waves exist for each number below (a wave without an instruction stays open)? -/
def State.waveSlot (s : State) (a : Agent) (w : Win) (v : Nat) : Option Nat :=
  (List.range w.slots.length).find? fun i =>
    match s.fieldsAt a w.baddr i with
    | some (_, f) => f.wave == some v
    | none => false

/-- Operators and engines per cell, by class (R289, R344): SRC 0, SINK 1, ADD 2, MUL 3, DSE 4, CMP 5, SCAN 6, ISECT 7,
REPEAT 8, SACC 9, GATHER 10. -/
def unitCount (c : Nat) : Nat :=
  match c with | 0 => 4 | 1 => 4 | 2 => 2 | 3 => 1 | 4 => 1 | 5 => 1 | 6 => 2 | 7 => 1 | 8 => 2 | 9 => 1 | _ => 2

/-- The operators or engines an opcode holds (R289, R344). -/
def unitsOf (op : Nat) : List Nat :=
  if op = 0x50 then [0] else if op = 0x51 then [1]
  else if op = 0x52 || op = 0x53 || op = 0x5D || op = 0x5E || op = 0x5F then [2]
  else if op = 0x54 then [3] else if op = 0x55 || op = 0x56 || op = 0x5C then [4]
  else if op = 0x57 then [3, 2] else if 0x58 ≤ op && op ≤ 0x5B then [5]
  else if op = 0x72 then [6] else if op = 0x73 || op = 0x74 then [7] else if op = 0x75 then [8]
  else if op = 0x76 then [9] else if 0x77 ≤ op && op ≤ 0x79 then [10] else []

/-- Operators of a class held in a cell. -/
def State.unitsHeld (s : State) (d p c : Nat) : Nat :=
  let cell := s.cell (cellKey d p)
  cell.tasks.foldl (fun n e =>
    -- a faulting block releases its digit operators (R301)
    match (if c ≤ 5 && e.2.fault.isSome && !s.paused (.task d p e.1) then none else e.2.win) with
    | none => n
    | some w =>
      (List.range w.slots.length).foldl (fun n i =>
        match w.slots[i]?, s.fieldsAt (.task d p e.1) w.baddr i with
        | some sl, some (op, _) => if sl.st == .running && (unitsOf op).contains c then n + 1 else n
        | _, _ => n) n) 0

/-- Is a unit of every class that an opcode holds free (R162, R289, R344)? -/
def State.unitsFree (s : State) (a : Agent) (op : Nat) : Bool :=
  match a with
  | .helm _ => true
  | .task d p _ => (unitsOf op).all fun c => s.unitsHeld d p c < unitCount c

/-- Is an access one of an earlier block of an agent? What a stream port has under way is none: it is ordered by SBIND and SBAR
alone (R109). -/
def Access.earlier (x : Access) (a : Agent) (seq : Nat) : Bool := x.agent == a && x.seq < seq && x.kind != .elem

/-- Have all accesses of earlier blocks of an agent performed (R323)? -/
def State.earlierDone (s : State) (a : Agent) (seq : Nat) : Bool := s.accs.all fun x => !x.earlier a seq

/-- May an IN take its token: one kept from a faulted attempt, or the oldest on its channel, with no lower IN on that
channel still to take one (R161, R248)? -/
def State.inReady (s : State) (a : Agent) (w : Win) (i j : Nat) : Bool :=
  (w.taken.any fun e => e.1 == i) ||
  ((match s.chanTok a j with | some y => y.at0 ≤ s.cycle | none => false) &&
    (List.range i).all fun k =>
      match s.fieldsAt a w.baddr k, w.slots[k]? with
      | some (op, f), some sl =>
        !(op = 0x06 && f.aux % 16 = j && sl.st == .waiting && s.verdictAt a op f false sl (s.cycle + 64) != .dead)
      | _, _ => true)

/-- Instructions at the start of their block whose accesses are reads: TLOAD, TDIR, TCLASS, SCAN, GATHER, SCATA, SEMW, SEMR (R109,
R334). -/
def readsAtStart (op : Nat) : Bool :=
  op = 0x60 || op = 0x65 || op = 0x66 || op = 0x72 || op = 0x77 || op = 0x79 || op = 0xB3 || op = 0xB5
/-- Those whose accesses are reads or writes: TFILL, SCATTER and SEMA too. -/
def accessesAtStart (op : Nat) : Bool := readsAtStart op || op = 0x67 || op = 0x78 || op = 0xB4

/-- Have the instructions of some kind that stand at the start of a block all been done, or can they not fire any more? -/
def State.startAccesses (s : State) (a : Agent) (w : Win) (kind : Nat → Bool) : Bool :=
  (List.range w.slots.length).all fun i =>
    match s.fieldsAt a w.baddr i, w.slots[i]? with
    | some (op, f), some sl =>
      !kind op || sl.done || (sl.st == .waiting && s.verdict a op f (lFed s a w.baddr w.slots.length i) sl == .dead)
    | _, _ => true

/-- May a FENCE fire (R315): its lower waves are resolved; with an acquire part every earlier read of the task has returned;
an sc one has every earlier access performed before it (R119, R308). -/
def State.fenceReady (s : State) (a : Agent) (w : Win) (g : FmtM) : Bool :=
  let before (x : Access) : Bool := x.earlier a w.seq || (x.agent == a && x.seq == w.seq &&
    (match x.wave with | some v => v < g.wv.toNat | none => true))
  let isRead (x : Access) : Bool := x.kind != .write && x.kind != .presence && x.kind != .fence
  s.wavesBelow a w g.wv.toNat &&
  (g.ord == .rel || (s.startAccesses a w (if g.ord == .sc then accessesAtStart else readsAtStart) && s.accs.all fun x => !(before x && (g.ord == .sc || isRead x))))

/-- Does the release part of a FENCE of an earlier block still stand, behind which a channel token waits (R114, R315)? -/
def State.behindFence (s : State) (a : Agent) (w : Win) : Bool := s.accs.any fun x => x.agent == a && x.seq < w.seq && x.kind == .fence

/-- Does an instruction send on a channel as it goes, not at its block's commit (R290, R345)? -/
def sendsNow (op : Nat) (f : Fmt) : Bool :=
  (digitProducer op f || keepsPlace op) && (match f.ta, f.tb with | .chan _ _, _ => true | _, .chan _ _ => true | _, _ => false)

/-- Instructions whose place is the start of their block (R323, R334). -/
def atStart (op : Nat) : Bool :=
  (0xB0 ≤ op && op ≤ 0xB5) || op = 0x60 || (0x65 ≤ op && op ≤ 0x67) || op = 0x70 || op = 0x71 || op = 0x72
  || (0x77 ≤ op && op ≤ 0x79) || op = 0xC2 || op = 0xC6 || op = 0xC7 || op = 0xD0 || op = 0xD2 || op = 0xDB

/-- What an instruction needs besides its operands: a free unit, no release FENCE before its channel tokens, its channel's token, its lower waves (FENCE), earlier
accesses that its place or its release part waits for, the matrix unit, room at a barrier, an event (R162, R248, R289, R315,
R323, R324, R334, R336, R379). -/
def State.canGo (s : State) (a : Agent) (op : Nat) (f : Fmt) (w : Win) (i : Nat) : Bool :=
  s.unitsFree a op &&
  !(sendsNow op f && s.behindFence a w) &&
  (if op = 0x06 then s.inReady a w i (f.aux % 16)
   else if op = 0x90 then (match f with | .m g => s.fenceReady a w g | _ => true)
   else if 0x60 ≤ op && op ≤ 0x64 then
     (match a with
      | .task d p _ =>
        let m := (s.cell (cellKey d p)).mat
        m.row.isNone && (!(op = 0x60 || op = 0x61) || m.load.isNone)
      | .helm _ => true)
   else if op = 0xB0 || op = 0xB1 then
     (match f with
      | .s g => s.earlierDone a w.seq && ((w.kept.find i).isSome || s.replays a || s.barRoom a g)
      | _ => true)
   else if op = 0xDF then !(s.die a.die).events.isEmpty
   else if op = 0xDA || op = 0xB4 || op = 0xC2 || (0x65 ≤ op && op ≤ 0x67) then s.earlierDone a w.seq
   else true)

/-! ## Nulls, pass-throughs and normal firings -/

/-- A null firing (R158, R243, R245): slot targets receive NULL, register targets are nulled, channels send nothing. -/
def State.fireNull (s : State) (a : Agent) (i op : Nat) (f : Fmt) : State :=
  (s.countFiring a i .nulled).sendBoth a i op f nullToken 1

/-- A stop pass-through (R239): Sk to slot and channel targets, register targets nulled. An exit sends nothing. -/
def State.firePass (s : State) (a : Agent) (i op : Nat) (f : Fmt) (k : Nat) : State :=
  let s := s.countFiring a i .passed
  if isExit op && (match f.ta with | .sreg _ | .vreg _ => false | _ => true) then s
  else s.sendBoth a i op f (stopToken k) 1

/-- The stop or NULL token that an input channel brought in place of L is consumed (R291, R345). -/
def State.dropChl (s : State) (a : Agent) (op : Nat) (f : Fmt) (sl : Slot) : State :=
  match chlOf op f with
  | some j =>
    if !sl.l.q.isEmpty then s
    else
      match s.offered a op f sl .l with
      | some y => if y.at0 ≤ s.cycle && (y.tok.stop != 0 || y.tok.isNull) then s.takeChan a j else s
      | none => s
  | none => s

/-- All 32 lanes. -/
def allLanes : Nat := 0xFFFFFFFF

/-- A message that ends lanes of the group of a head that arrived on a circuit of an agent's cell (R201). -/
def State.endHead (s : State) (a : Agent) (c lanes : Nat) (kg : Option Nat) (hd : Token) : State :=
  match a, hd.origin with
  | .task d p _, some (b, q, k) =>
    { s with kills := s.kills ++ [{ agent := b, slot := k, seq := q, target := 0, lanes := lanes, kg := kg, rcv := some (cellKey d p, c) }] }
  | _, _ => s

/-- A pass-through of a digit instruction ends at once every lane of a group that its channel has begun to bring, and takes its head
(R291); what follows of it is discarded. -/
def State.passChl (s : State) (a : Agent) (op : Nat) (f : Fmt) (sl : Slot) : State :=
  match chlOf op f with
  | none => s
  | some j =>
    match digitField op f .l, (s.task a).inCircuit j, s.offered a op f sl .l with
    | true, some c, some y =>
      if y.tok.kind == .head && y.tok.stop = 0 && y.at0 ≤ s.cycle then
        (if sl.l.q.isEmpty then s.takeHead a j else s).endHead a c allLanes none y.tok
      else s
    | _, _, _ => s

/-- The frame of every instruction's meaning: what the agent `s.here` names does with the instruction of its slot in
this cycle. `go` is the effect when every operand holds its token (R158). -/
def fireWith (s : State) (op : Nat) (f : Fmt) (go : State → Agent → Nat → Slot → State) :
    Host.Outcome State Fault Refusal :=
  let a := s.here.agent
  let i := s.here.slot
  match s.win a with
  | none => .next s
  | some w =>
    match w.slots[i]? with
    | none => .next s
    | some sl =>
      if sl.st ≠ .waiting || w.stopped || (s.task a).st ≠ .active then .next s
      else
        match s.verdict a op f (lFed s a w.baddr w.slots.length i) sl with
        | .wait => .next s
        | .dead => .next s
        | .null => .next ((s.dropChl a op f sl).fireNull a i op f)
        | .pass k => .next (((s.dropChl a op f sl).passChl a op f sl).firePass a i op f k)
        | .go => if s.canGo a op f w i then .next (go (s.countFiring a i .fired) a i sl) else .next s

/-- The operand token of a field; a zero word where the field holds none. -/
def Slot.tok (sl : Slot) (x : Fld) : Token := (sl.tok? x).getD (wordTok 0)

/-- An instruction whose effect is one token for both targets; `res` computes it from the state before the firing. -/
def fireTok (s : State) (op : Nat) (f : Fmt) (lat : Nat) (res : State → Agent → Nat → Slot → Token × Nat) :
    Host.Outcome State Fault Refusal :=
  fireWith s op f fun t a i sl =>
    let r := res s a i sl
    (t.modWin a fun w => w.raise r.2).sendBoth a i op f r.1 lat

end Sys2Proof.Machine
end

