-- ==== Sys2Proof/Machine/Dataflow.lean ====
section
/-! DEFINITION. The dataflow instructions 01-09 (R242-R251). -/

namespace Sys2Proof.Machine

/-- A digit operator at the start of its work (R191): a target that names nothing needs no digit. -/
def DigEng.fresh (ta tb : Target) : DigEng :=
  let m (t : Target) : Nat := if t = .none then allLanes else 0
  { heads := [none, none, none], digs := [[], [], []], word := none, endIn := [0, 0, 0], endOut := [m ta, m tb]
    killOut := [m ta, m tb], outHead := none, sent := 0, decided := 0, recs := [], best := none, begun := false, stop := 0, pos := 1
    srcs := [0, 0, 0] }

/-- A field without its oldest token. -/
def FieldSt.pop (fs : FieldSt) : FieldSt := { fs with q := fs.q.drop 1 }

/-- The operand token as an element of every lane, or of the one a scalar shape reads. -/
def spread (sh : Sh) (ty : Ty) (e : Nat) : Token :=
  if sh == .vector then lanesTok ty (List.replicate 32 e) else elemTok ty e

/-- MOV (R243): the L token to both targets. With SH 10 a head opens a group, whose digit tokens follow. -/
def execMov (f : FmtG) (s : State) : Host.Outcome State Fault Refusal :=
  fireWith s 0x01 (.g f) fun s a i sl =>
    let tok := sl.tok .l
    if f.sh == .digit && tok.kind == .head && tok.stop == 0 then
      let src := match sl.l.q.head? with | some y => y.src | none => 0
      let e := { DigEng.fresh f.ta f.tb with heads := [some tok.payload, none, none], outHead := some tok.payload, srcs := [src, 0, 0] }
      let s := s.setSlot a i fun sl => { sl with st := .running, eng := .digit e, l := sl.l.pop }
      s.sendBoth a i 0x01 (.g f) tok 1
    else s.sendBoth a i 0x01 (.g f) tok 1

/-- MOVI (R244): the immediate of R188, in every lane with SH 01. -/
def execMovi (f : FmtI) (s : State) : Host.Outcome State Fault Refusal :=
  fireTok s 0x02 (.i f) 1 fun _ _ _ _ =>
    (spread f.sh f.ty ((immediate f.ty f.imm.toNat f.ipos).getD 0), 0)

/-- NULL (R245): a NULL token to both targets. -/
def execNullTok (f : FmtG) (s : State) : Host.Outcome State Fault Refusal :=
  fireTok s 0x03 (.g f) 1 fun _ _ _ _ => (nullToken, 0)

/-- READ (R246): the register's value as the predecessor's commit left it; register writes wait for the commit. -/
def execReadReg (f : FmtG) (s : State) : Host.Outcome State Fault Refusal :=
  fireTok s 0x04 (.g f) 1 fun s a _ _ =>
    let n := f.aux.toNat
    let v := ((s.task a).readReg n).toNat
    (if n < 32 then wordTok v else vecTok v, 0)

/-- SEL (R247): L when X is true, R when it is false. -/
def execSel (f : FmtG) (s : State) : Host.Outcome State Fault Refusal :=
  fireTok s 0x05 (.g f) 1 fun _ _ _ sl => (if (sl.tok .x).isTrue then sl.tok .l else sl.tok .r, 0)

/-- The token an IN takes: the one its faulted attempt took (R161), or the oldest on its channel. -/
def State.inToken (s : State) (a : Agent) (i j : Nat) : Option Token :=
  match s.win a with
  | none => none
  | some w =>
    match w.taken.find? fun e => e.1 == i with
    | some e => some e.2
    | none => (s.chanTok a j).map fun y => { y.tok with origin := none }

/-- Take the token for an IN and keep it for a re-execution (R161, R248). -/
def State.inTake (s : State) (a : Agent) (i j : Nat) (tok : Token) : State :=
  match s.win a with
  | none => s
  | some w =>
    if w.taken.any fun e => e.1 == i then s
    else (s.takeChan a j).modWin a fun w => { w with taken := w.taken ++ [(i, tok)] }

/-- IN (R248): the oldest token of the task's colour on the channel; a NULL makes it fire as a null. -/
def execInTok (f : FmtG) (s : State) : Host.Outcome State Fault Refusal :=
  fireWith s 0x06 (.g f) fun s a i _ =>
    let j := f.aux.toNat % 16
    match s.inToken a i j with
    | none => s
    | some tok =>
      let s := s.inTake a i j tok
      let s := if tok.isNull then s.setSlot a i fun sl => { sl with st := .nulled } else s
      s.sendBoth a i 0x06 (.g f) tok 1

/-- STOP (R249): a stop token Sk to both targets. -/
def execStopTok (f : FmtG) (s : State) : Host.Outcome State Fault Refusal :=
  fireTok s 0x07 (.g f) 1 fun _ _ _ _ => (stopToken (f.aux.toNat % 8), 0)

/-- TOKT (R250): the test of L's kind to TA, L itself to TB. -/
def execTokt (f : FmtG) (s : State) : Host.Outcome State Fault Refusal :=
  fireWith s 0x08 (.g f) fun s a i sl =>
    let tok := sl.tok .l
    let k := f.aux.toNat % 8
    let r := if k = 0 then tok.stop == 0 else decide (k ≤ tok.stop)
    (s.send a i 0x08 (.g f) f.ta (wordTok (bit r)) 1).send a i 0x08 (.g f) f.tb tok 1

/-- COLOR (R251): CTX.COLOR as an I64 word, in every lane with SH 01. -/
def execColor (f : FmtG) (s : State) : Host.Outcome State Fault Refusal :=
  fireTok s 0x09 (.g f) 1 fun s a _ _ => (spread f.sh .i64 (s.task a).color, 0)

end Sys2Proof.Machine
end

