-- ==== Sys2Proof/Machine/Router.lean ====
section
/-! DEFINITION. Routers (R165, R166): latches, circuits, the four operators, and what they record for replay (R145). A
latch holds four tokens (the latch entries of R419); a tile in FIFO circuit mode deepens its circuit by 64 KiB (R60;
DESIGN CHOICE, log entry 10: the size changes no value or order). -/

namespace Sys2Proof.Machine

/-- What a mesh port of a cell leads to: a cell or a memory port of its die (R17, R165, R454). -/
inductive Beyond where
  | cell (p : Nat)
  | port (n : Nat)
  | nothing
deriving DecidableEq, Repr

/-- The neighbour of a physical cell through a mesh port: 0 north, 1 east, 2 south, 3 west. -/
def Die.beyond (d : Die) (p port : Nat) : Beyond :=
  let x := p % 16
  let y := p / 16
  match d.logRow y with
  | none => .nothing
  | some r =>
    let row (r : Nat) : Beyond := match d.physRow r with | some cy => .cell (16 * cy + x) | none => .nothing
    if port = 0 then (if r = 0 then .port x else row (r - 1))
    else if port = 1 then (if x = 15 then .port (16 + y) else .cell (p + 1))
    else if port = 2 then (if r + 1 = d.nRows then .port (32 + x) else row (r + 1))
    else if port = 3 then (if x = 0 then .port (48 + y) else .cell (p - 1))
    else .nothing

/-- The cell and mesh port at which a memory port joins the mesh (R17, R165). -/
def Die.portCell (d : Die) (n : Nat) : Option (Nat × Nat) :=
  let i := n % 16
  match n / 16 with
  | 0 => (d.physRow 0).map fun cy => (16 * cy + i, 0)
  | 1 => some (16 * i + 15, 1)
  | 2 => (d.physRow (d.nRows - 1)).map fun cy => (16 * cy + i, 2)
  | _ => some (16 * i, 3)

/-- Router entry fields (R165). -/
def rOpk (e : Word) : Nat := field e 63 61
def rCid (e : Word) : Nat := field e 60 55
/-- Input `i` of an entry, A, B or C, as a latch key: the attachment is port 4 (R165). -/
def rIn (e : Word) (i : Nat) : Nat :=
  let p := fieldN e.toNat (54 - 10 * i) (51 - 10 * i)
  let c := fieldN e.toNat (50 - 10 * i) (45 - 10 * i)
  64 * (if 4 ≤ p && p ≤ 7 then 4 else p) + c
def rOutA (e : Word) : Nat := field e 24 16
def rOutB (e : Word) : Nat := field e 15 7

/-- The number of inputs of an operator (R165). -/
def rInputs (e : Word) : Nat := match rOpk e with | 0 => 1 | 1 => 2 | 2 => 3 | 3 => 2 | _ => 3

/-- Does a mask name the attachment, ports 4 to 7 (R165)? -/
def toEngine (mask : Nat) : Bool := mask / 16 % 16 != 0

/-- Bits of a vector token's lane. -/
def Token.laneBits (t : Token) : Nat := if t.width = 0 then 64 else t.width

/-- Bytes of payload and tag of a token in a FIFO tile: 8 of a word, the beat of a digit, head or scale token, and 32 lanes of a
vector (R60, R155; log entry 10). -/
def Token.bytes (t : Token) : Nat :=
  2 + (if t.stop ≠ 0 then 0 else match t.kind with | .word => 8 | .vector => 4 * t.laneBits | .digit | .head | .scale => 64 | _ => 0)

/-- Beats of a token on a fabric link (R155). -/
def Token.beats (t : Token) : Nat := if t.stop = 0 && t.kind == .vector then max 1 (cdiv (32 * t.laneBits) 512) else 1

/-- The tiles in FIFO circuit mode that deepen a circuit of a cell (R60). -/
def Cell.deepens (c : Cell) (circ : Nat) : Nat :=
  (c.tiles.filter fun e => e.2.role == 2 && !flag e.2.desc 60 && field e.2.desc 40 35 == circ).length

/-- Bytes that a circuit's FIFO tile holds: what the latches do not (R60). -/
def Cell.tileBytes (c : Cell) (circ : Nat) : Nat :=
  let spill (l : List Token) : Nat := (l.drop 4).foldl (fun n t => n + t.bytes) 0
  spill ((c.inbox.get circ []).map (·.tok)) + c.latch.foldl (fun n e => if e.1 % 64 = circ then n + spill e.2 else n) 0

/-- Room for a token behind those that wait on a circuit: one of the four entries of a latch, or its bytes in the circuit's tiles. -/
def Cell.roomBehind (c : Cell) (l : List Token) (circ : Nat) (t : Token) : Bool :=
  l.length < 4 || Nat.ble (c.tileBytes circ + t.bytes) (65536 * c.deepens circ)

/-- Room in a latch of a cell. -/
def Cell.latchRoom (c : Cell) (key : Nat) (t : Token) : Bool := c.roomBehind (c.latch.get key []) (key % 64) t
/-- Room for a circuit at the attachment of a cell whose units run (R408). -/
def Cell.inboxRoom (c : Cell) (circ : Nat) (t : Token) : Bool := !c.gated && c.roomBehind ((c.inbox.get circ []).map (·.tok)) circ t

/-- Do tokens only pass through a cell's router: the cell is retired, or holds no configuration context (R19, R408, R452)? -/
def State.passesBy (s : State) (d p : Nat) : Bool :=
  (s.die d).holes.contains p || (List.range 4).all fun i => ((s.cell (cellKey d p)).cctx i).st == .free

/-- What a token that leaves a cell by a mesh port reaches: it goes straight on past the routers that tokens only pass through
(R19, R408, R452; DEDUCED, log entry 101). -/
def State.reach (s : State) (d port : Nat) : Nat → Nat → Beyond
  | 0, _ => .nothing
  | n + 1, p =>
    match (s.die d).beyond p port with
    | .cell q => if s.passesBy d q then State.reach s d port n q else .cell q
    | b => b

/-- The neighbour of a cell, or what lies behind routers that tokens only pass through. -/
def State.beyond (s : State) (d p port : Nat) : Beyond := s.reach d port 16 p

/-- The cell and side at which a token of a memory port enters the mesh (R17, R165): the port's own cell, or what lies behind it. -/
def State.portEnd (s : State) (d n : Nat) : Option (Nat × Nat) :=
  (((s.die d).portCell n).bind fun e =>
    if s.passesBy d e.1 then (match s.beyond d e.1 ((e.2 + 2) % 4) with | .cell q => some (q, e.2) | _ => none) else some e)

/-- Has every destination of an output mask room for a token of circuit `circ`? -/
def State.outRoom (s : State) (d p mask circ : Nat) (tok : Token) : Bool :=
  ((List.range 4).all fun port =>
    !mask.testBit port ||
    (match s.beyond d p port with
     | .cell q => (s.cell (cellKey d q)).latchRoom (64 * ((port + 2) % 4) + circ) tok
     | .port n => ((s.port (64 * d + n)).inq.get circ []).length < 4
     | .nothing => false)) &&
  (!toEngine mask || (s.cell (cellKey d p)).inboxRoom circ tok) &&
  (!mask.testBit 8 || (s.cell (cellKey d p)).latchRoom (64 * 8 + circ) tok)

/-- A token put at the end of a latch. -/
def State.latchPut (s : State) (key lk : Nat) (tok : Token) : State :=
  s.modCell key fun c => c.latchPut lk tok s.cycle

/-- A token delivered to the attachment of a cell, usable one cycle later (R165). -/
def State.inboxPut (s : State) (key circ : Nat) (tok : Token) : State :=
  s.modCell key fun c => { c with inbox := c.inbox.put circ (c.inbox.get circ [] ++ [{ tok := tok, at0 := s.cycle + 1 }]) }

/-- The region of a colour at a cell; 0 where the colour is mapped to none (R153). -/
def State.colourRegion (s : State) (key col : Nat) : Nat :=
  let b := (s.cell key).cmap.get col 0
  if b.testBit 7 then ((s.cell key).cctx (b / 32 % 4)).region else 0

/-- A token enters a region from outside it (R174, R384). -/
def State.entered (s : State) (k : Nat) : State := s.modRegion k fun r => { r with moved := s.cycle, lastIn := s.cycle }

/-- A token of region `k0` on one mesh port of a cell. -/
def State.emitPort (s : State) (k0 d p circ : Nat) (tok : Token) (port : Nat) : State :=
  match s.beyond d p port with
  | .cell q =>
    let k := s.colourRegion (cellKey d q) tok.color
    let s := if k = 0 || k = k0 then s else s.entered k
    s.latchPut (cellKey d q) (64 * ((port + 2) % 4) + circ) tok
  | .port n => s.modPort (64 * d + n) fun x => { x with inq := x.inq.put circ (x.inq.get circ [] ++ [tok]) }
  | .nothing => s

/-- A copy of a token of region `k0` to every port of an output mask (R165). -/
def State.emit (s : State) (k0 d p mask circ : Nat) (tok : Token) : State :=
  let s := s.spend k0 4 (tok.beats * (bitsOf mask 4).length)
  let s := (bitsOf mask 4).foldl (fun s port => s.emitPort k0 d p circ tok port) s
  let s := if toEngine mask then s.inboxPut (cellKey d p) circ tok else s
  if mask.testBit 8 then s.latchPut (cellKey d p) (64 * 8 + circ) tok else s

/-- The entry of a circuit in a configuration context. -/
def CfgCtx.entryOf (x : CfgCtx) (cid : Nat) : Option Word := x.routes.find? fun e => rCid e == cid

/-- Does a colour belong to a configuration context of a cell (R153)? -/
def Cell.colourIn (c : Cell) (cctx col : Nat) : Bool :=
  let b := c.cmap.get col 0
  b.testBit 7 && b / 32 % 4 == cctx

/-- The head of a latch, if an active configuration context may route it: one whose colour that context holds, or one whose
colour the cell does not map, which only passes by (R153). -/
def State.headAt (s : State) (key cctx lk : Nat) : Option Token :=
  let c := s.cell key
  match c.latch.get lk [] with
  | t :: _ =>
    if (c.colourIn cctx t.color || !(c.cmap.get t.color 0).testBit 7) && (c.cctx cctx).st == .active then some t else none
  | [] => none

/-- May a token leave on an output mask: each destination has room, and a token for the attachment has a colour that the
cell maps; one with V = 0 is held in the latch (R153). -/
def State.mayLeave (s : State) (d p mask circ : Nat) (tok : Token) : Bool :=
  s.outRoom d p mask circ tok && (!toEngine mask || ((s.cell (cellKey d p)).cmap.get tok.color 0).testBit 7)

/-- The region of a configuration context of a cell. -/
def State.cctxRegion (s : State) (key cctx : Nat) : Nat := ((s.cell key).cctx cctx).region

/-- A latch without its head. -/
def State.latchPop (s : State) (key lk : Nat) : State :=
  s.modCell key fun c =>
    { c with latch := c.latch.put lk ((c.latch.get lk []).drop 1), latchAt := c.latchAt.put lk ((c.latchAt.get lk []).drop 1) }

/-- The cycle in which the head of a latch arrived (R166). -/
def Cell.headTime (c : Cell) (lk : Nat) : Nat := (c.latchAt.get lk []).headD 0

/-- A token advanced: movement of its region (R174). -/
def State.routed (s : State) (key cctx : Nat) : State := s.moved ((s.cell key).cctx cctx).region

/-- The cell notes a splice token that an input has delivered and keeps it for the switch-over (R171). -/
def State.spliceAt (s : State) (key cctx lk : Nat) : State :=
  ((s.latchPop key lk).modCell key fun c => c.modCctx cctx fun x => { x with splices := setAdd x.splices lk }).routed key cctx

/-- Is the head of a latch a splice token? -/
def Token.isSplice (t : Token) : Bool := t.kind == .splice

/-- The splice tokens at the heads of an entry's inputs taken (R171). -/
def State.takeSplices (s : State) (key cctx : Nat) (e : Word) : Option State :=
  match ((List.range (rInputs e)).map (rIn e)).find? fun lk => optB (s.headAt key cctx lk) Token.isSplice with
  | some lk => some (s.spliceAt key cctx lk)
  | none => none

/-- The false arm of a steer leaves as CID + 1 mod 64 (R165). -/
def rFalse (e : Word) : Nat := (rCid e + 1) % 64

/-- An operator's turn: the entry of operator kind `k` that a context holds for a circuit; a splice token at one of its
inputs goes first. -/
def State.routeWith (s : State) (key cctx cid k : Nat) (go : State → Word → State) : Host.Outcome State Fault Refusal :=
  match ((s.cell key).cctx cctx).entryOf cid with
  | none => .next s
  | some e =>
    if rOpk e ≠ k then .next s
    else
      match s.takeSplices key cctx e with
      | some s => .next s
      | none => .next (go s e)

/-- CIRCUIT_FORWARD (R166): the head of the circuit goes to every port of the mask. -/
def execCircuitForward (key cctx cid : Nat) (s : State) : Host.Outcome State Fault Refusal :=
  s.routeWith key cctx cid 0 fun s e =>
    match s.headAt key cctx (rIn e 0) with
    | some t =>
      if s.mayLeave (key / 256) (key % 256) (rOutA e) cid t then
        ((s.latchPop key (rIn e 0)).emit (s.cctxRegion key cctx) (key / 256) (key % 256) (rOutA e) cid t).routed key cctx
      else s
    | none => s

/-- ROUTER_STEER (R166): data and predicate pair; a stop pairs with an equal stop and goes to both arms. -/
def execRouterSteer (key cctx cid : Nat) (s : State) : Host.Outcome State Fault Refusal :=
  s.routeWith key cctx cid 1 fun s e =>
    let d := key / 256
    let p := key % 256
    let k0 := s.cctxRegion key cctx
    match s.headAt key cctx (rIn e 0), s.headAt key cctx (rIn e 1) with
    | some x, some y =>
      let roomA := s.mayLeave d p (rOutA e) cid x
      let roomB := s.mayLeave d p (rOutB e) (rFalse e) x
      let popped := (s.latchPop key (rIn e 0)).latchPop key (rIn e 1)
      if x.stop ≠ 0 || y.stop ≠ 0 then
        (if x.stop = y.stop && roomA && roomB then
          ((popped.emit k0 d p (rOutA e) cid x).emit k0 d p (rOutB e) (rFalse e) x).routed key cctx else s)
      else if y.isTrue then (if roomA then (popped.emit k0 d p (rOutA e) cid x).routed key cctx else s)
      else if roomB then (popped.emit k0 d p (rOutB e) (rFalse e) x).routed key cctx
      else s
    | _, _ => s

/-- ROUTER_MERGE (R166): the predicate picks the arm; a stop takes one equal stop from each arm. -/
def execRouterMerge (key cctx cid : Nat) (s : State) : Host.Outcome State Fault Refusal :=
  s.routeWith key cctx cid 2 fun s e =>
    let d := key / 256
    let p := key % 256
    let k0 := s.cctxRegion key cctx
    match s.headAt key cctx (rIn e 2) with
    | none => s
    | some y =>
      if y.stop ≠ 0 then
        match s.headAt key cctx (rIn e 0), s.headAt key cctx (rIn e 1) with
        | some a, some b =>
          if a.stop = y.stop && b.stop = y.stop && s.mayLeave d p (rOutA e) cid y then
            ((((s.latchPop key (rIn e 2)).latchPop key (rIn e 0)).latchPop key (rIn e 1)).emit k0 d p (rOutA e) cid y).routed key cctx
          else s
        | _, _ => s
      else
        let arm := rIn e (if y.isTrue then 0 else 1)
        match s.headAt key cctx arm with
        | some x =>
          if x.stop ≠ 0 || !s.mayLeave d p (rOutA e) cid x then s
          else (((s.latchPop key (rIn e 2)).latchPop key arm).emit k0 d p (rOutA e) cid x).routed key cctx
        | none => s

/-! ## What cells record for replay (R134, R145) -/

/-- Word 0 of an NDM entry (R134). -/
def ndmWord (key cid n : Nat) : Nat := 5 * 2 ^ 60 + key / 256 * 2 ^ 46 + key % 256 * 2 ^ 38 + cid * 2 ^ 32 + n

/-- The index of the next entry ahead in a sub-log during replay whose word 0 satisfies a test (R145). -/
def State.replayAt (s : State) (ln sub : Nat) (p : Nat → Bool) : Option Nat :=
  match s.log ln with
  | none => none
  | some l =>
    let u := l.sub sub
    ((List.range u.ahead).map fun j => (u.tail + j) % max 1 u.cap).find? fun i => p (s.entryWord ln sub i 0)

/-- That entry. -/
def State.replayNext (s : State) (ln sub : Nat) (p : Nat → Bool) : Option (Nat × Nat) :=
  (s.replayAt ln sub p).map fun i => (s.entryWord ln sub i 0, s.entryWord ln sub i 1)

/-- The recorded arm of an ndmerge's next token during replay: none when it is free to choose. -/
def State.ndmRecorded (s : State) (key cctx cid : Nat) : Option Bool :=
  let ln := s.cctxLog key cctx
  match s.log ln with
  | none => none
  | some l =>
    if !l.replaying (choiceKey key) then none
    else
      let i := ((s.cell key).ndm.get (64 * cctx + cid) []).length
      match s.replayNext ln (choiceKey key) (fun w => w / 2 ^ 32 == ndmWord key cid 0 / 2 ^ 32) with
      | some e => if i < e.1 % 128 then some (e.2.testBit i) else none
      | none => none

/-- The bits of an ndmerge's choices. -/
def ndmBits : List Bool → Nat
  | [] => 0
  | b :: r => bit b + 2 * ndmBits r

/-- ROUTER_CARRY (R166): from I in state INIT; in LOOP the control takes B's head or returns to INIT. -/
def execRouterCarry (key cctx cid : Nat) (s : State) : Host.Outcome State Fault Refusal :=
  s.routeWith key cctx cid 4 fun s e =>
    let d := key / 256
    let p := key % 256
    let k0 := s.cctxRegion key cctx
    let set (s : State) (v : Nat) : State := s.modCell key fun c => c.modCctx cctx fun x => { x with opst := x.opst.put cid v }
    if ((s.cell key).cctx cctx).opst.get cid 0 = 0 then
      match s.headAt key cctx (rIn e 0) with
      | some x =>
        if !s.mayLeave d p (rOutA e) cid x then s
        else
          let s := ((s.latchPop key (rIn e 0)).emit k0 d p (rOutA e) cid x).routed key cctx
          if x.stop = 0 then set s 1 else s
      | none => s
    else
      match s.headAt key cctx (rIn e 2) with
      | none => s
      | some y =>
        if y.stop ≠ 0 then s
        else if !y.isTrue then (set (s.latchPop key (rIn e 2)) 0).routed key cctx
        else
          match s.headAt key cctx (rIn e 1) with
          | some x =>
            if x.stop ≠ 0 || !s.mayLeave d p (rOutA e) cid x then s
            else (((s.latchPop key (rIn e 2)).latchPop key (rIn e 1)).emit k0 d p (rOutA e) cid x).routed key cctx
          | none => s

/-! ## Tracing a circuit (R201) -/

/-- The engine circuits that a producer's output reaches, joined over branches: `f` on a delivery at a cell, combined
by `meet` over the copies of a multicast and by `join` over the arms of a steer. -/
def State.follow {α : Type} (s : State) (cctxOf : Nat → Nat) (f : Nat → Nat → α) (meet join : α → α → α) (top bot : α) :
    Nat → Nat → Nat → α
  | 0, _, _ => top
  | fuel + 1, key, lk =>
    let d := key / 256
    let p := key % 256
    let es := ((s.cell key).cctx (cctxOf key)).routes.filter fun e => (List.range (rInputs e)).any fun i => rIn e i == lk
    let out (mask circ : Nat) : α :=
      let viaMesh := (bitsOf mask 4).foldl (fun acc port =>
        match s.beyond d p port with
        | .cell q => meet acc (State.follow s cctxOf f meet join top bot fuel (cellKey d q) (64 * ((port + 2) % 4) + circ))
        | _ => acc) top
      let viaTile := if mask.testBit 8 then meet viaMesh (State.follow s cctxOf f meet join top bot fuel key (64 * 8 + circ)) else viaMesh
      if toEngine mask then meet viaTile (f key circ) else viaTile
    es.foldl (fun acc e =>
      let a := out (rOutA e) (rCid e)
      meet acc (if rOpk e = 1 then join a (out (rOutB e) (rFalse e)) else a)) top

end Sys2Proof.Machine
end

