-- ==== Sys2Proof/Machine/DigitMath.lean ====
section
/-! DEFINITION. The arithmetic of digit streams (R189-R200, R206, R207): heads, prefixes, operator targets, the
recurrence, DEXP2, decisions, DSINK, and the accumulator records of DACC, DRED and the matrix unit. -/

namespace Sys2Proof.Machine

/-! ## Accumulator records (R206, R207) -/

/-- Fields of an accumulator record (R206). -/
def accCls (r : AccRec) : Nat := fieldN r.toNat 127 126
def accInv (r : AccRec) : Bool := r.getLsbD 125
def accStk (r : AccRec) : Bool := r.getLsbD 124
def accExp (r : AccRec) : Int := sextN (fieldN r.toNat 123 112) 12
def accSig (r : AccRec) : Int := sextN r.toNat 96

/-- A record from its fields, each of which keeps the low bits of what is assigned to it (R8). -/
def accMk (cls : Nat) (inv stk : Bool) (e sig : Int) : AccRec :=
  BitVec.ofNat 128 (cls * 2 ^ 126 + bit inv * 2 ^ 125 + bit stk * 2 ^ 124 + wrapN e 12 * 2 ^ 112 + wrapN sig 96)

/-- The class combine of R206: NaN wins; infinities of opposite sign give NaN with INV. -/
def accCombine (c : Nat) (inv : Bool) (d : Nat) : Nat × Bool :=
  if c = 3 then (3, inv)
  else if d = 3 then (3, inv)
  else if (c = 1 && d = 2) || (c = 2 && d = 1) then (3, true)
  else if d = 0 then (c, inv) else (d, inv)

/-- Halve a significand until it lies below 2^94 (R206). -/
def accFit : Nat → Int → Bool → Int → Int × Bool × Int
  | 0, x, s, k => (x, s, k)
  | n + 1, x, s, k =>
    if x.natAbs < 2 ^ 94 then (x, s, k) else accFit n (Int.fdiv x 2) (s || x % 2 != 0) (k + 1)

/-- `add` of R206. -/
def accAdd (r : AccRec) (p e : Int) (cls : Nat) : AccRec :=
  let ci := accCombine (accCls r) (accInv r) cls
  if cls ≠ 0 || p = 0 then accMk ci.1 ci.2 (accStk r) (accExp r) (accSig r)
  else
    let lo := if accSig r = 0 && !accStk r then e else if accStk r then accExp r else min (accExp r) e
    let sh := e - lo
    let q := if 0 ≤ sh then p * (2 : Int) ^ sh.toNat else Int.fdiv p ((2 : Int) ^ (-sh).toNat)
    let lost := sh < 0 && q * (2 : Int) ^ (-sh).toNat != p
    let x := accSig r * (2 : Int) ^ (accExp r - lo).toNat + q
    let y := accFit (Nat.log2 x.natAbs + 1) x (accStk r || lost) lo
    accMk ci.1 ci.2 y.2.1 y.2.2 y.1

/-- The exact value of a finite record: (2·SIG + STK)·2^(EXP-1) (R207). -/
def accNum (r : AccRec) : Num :=
  match accCls r with
  | 1 => .inf false
  | 2 => .inf true
  | 3 => .nan
  | _ =>
    let m := 2 * accSig r + (if accStk r then 1 else 0)
    .fin (m < 0) m.natAbs (accExp r - 1) false

/-- MMOUT of one record (R207): NV for a NaN with INV. -/
def accOut (t : Ty) (rm : Rm) (sat : Bool) (gen : Nat) (r : AccRec) : Res :=
  let x := roundNum t rm sat gen (accNum r)
  if accCls r = 3 && accInv r then { x with flags := x.flags ||| fNV } else x

/-! ## Heads and digits (R189-R192) -/

/-- One lane of a head token (R190): class 0 ZERO, 1 NORMAL, 2 INF, 3 NAN. -/
structure DHead where
  sign : Bool
  cls : Nat
  q : Int
deriving DecidableEq, Repr

/-- Lane `i` of a head token's payload (R190). -/
def headLane (p : Payload) (i : Nat) : DHead :=
  let x := laneOf 16 p i
  { sign := x.testBit 15, cls := fieldN x 14 13, q := sextN x 12 }

/-- The 16 bits of a lane's head (R190). -/
def DHead.code (h : DHead) : Nat := bit h.sign * 2 ^ 15 + h.cls * 2 ^ 13 + wrapN h.q 12

/-- A head token's payload. -/
def packHeads (l : List DHead) : Payload := BitVec.ofNat 2048 (packLanes 16 (l.map DHead.code))

/-- Digit of lane `i` in a digit token; a lane that holds no digit counts 0 (R189). -/
def digitLane (p : Payload) (i : Nat) : Int := let x := p.toNat / 2 ^ (3 * i) % 8; if x = 4 then 0 else sextN x 3

/-- N = X(k) · 4^k of the first `k` digits, missing ones counting 0 (R190). -/
def prefixN : Nat → List Int → Int
  | 0, _ => 0
  | k + 1, l => (l.headD 0) * (4 : Int) ^ k + prefixN k (l.drop 1)

/-- ceil(n / 2). -/
def half (n : Int) : Int := Int.fdiv (n + 1) 2

/-- The range rule of R195 on a NORMAL head, with its flags. -/
def headRange (h : DHead) : DHead × Nat :=
  if h.cls ≠ 1 then (h, 0)
  else if 2047 < h.q then ({ h with cls := 2, q := 0 }, fOF ||| fNX)
  else if h.q < -2048 then ({ h with cls := 0, q := 0 }, fUF ||| fNX)
  else (h, 0)

/-- The head DSRC gives a value (R192); other classes carry Q = 0. -/
def srcHead (x : Num) : DHead :=
  match x with
  | .nan => { sign := false, cls := 3, q := 0 }
  | .inf n => { sign := n, cls := 2, q := 0 }
  | .fin n m e _ =>
    if m = 0 then { sign := n, cls := 0, q := 0 }
    else { sign := n, cls := 1, q := half ((Nat.log2 m : Int) + e + 1) }

/-- Digit `j` that DSRC gives a value (R192). -/
def srcDigit (x : Num) (j : Nat) : Int :=
  match x with
  | .fin n m e _ =>
    if m = 0 then 0
    else
      let sh := e + 2 * ((j : Int) - (srcHead x).q)
      let v : Nat := if 0 ≤ sh then m * 2 ^ sh.toNat else m / 2 ^ (-sh).toNat
      let d : Int := ((v % 4 : Nat) : Int)
      if n then -d else d
  | _ => 0

/-! ## Targets (R194) and the recurrence (R193) -/

/-- A fraction: numerator and positive denominator. -/
structure Frac where
  n : Int
  d : Nat
deriving DecidableEq, Repr

def Frac.add (a b : Frac) : Frac := { n := a.n * b.d + b.n * a.d, d := a.d * b.d }
def Frac.sub (a b : Frac) : Frac := { n := a.n * b.d - b.n * a.d, d := a.d * b.d }
def Frac.mul (a b : Frac) : Frac := { n := a.n * b.n, d := a.d * b.d }
/-- a < b. -/
def Frac.lt (a b : Frac) : Bool := a.n * b.d < b.n * a.d
/-- 2^e · a. -/
def Frac.shift (a : Frac) (e : Int) : Frac :=
  if 0 ≤ e then { a with n := a.n * (2 : Int) ^ e.toNat } else { a with d := a.d * 2 ^ (-e).toNat }
/-- |a|. -/
def Frac.abs (a : Frac) : Frac := { a with n := (a.n.natAbs : Int) }

/-- X(k) of a digit list. -/
def prefixF (l : List Int) (k : Nat) : Frac := { n := prefixN k l, d := 4 ^ k }

/-- A finite number as a fraction. -/
def Num.frac (x : Num) : Frac :=
  match x with
  | .fin n m e _ => Frac.shift { n := signedM n m, d := 1 } e
  | _ => { n := 0, d := 1 }

/-- floor(16·v) of a fraction. -/
def Frac.floor16 (a : Frac) : Int := Int.fdiv (16 * a.n) a.d

/-- One digit from floor(16·v) (R193). -/
def selDigit (v16 : Int) : Int := min 3 (max (-3) (Int.fdiv (v16 + 8) 16))

/-- The digits of R193 from `t j` = floor(16·4^j·A(j + δ)): digits `j` on, `z` being 4^(j-1)·Z. -/
def recurGo (t : Nat → Int) : Nat → Nat → Int → List Int
  | 0, _, _ => []
  | n + 1, j, z =>
    let d := selDigit (t j - 64 * z)
    d :: recurGo t n (j + 1) (4 * z + d)

/-- The first `m` output digits of an operator (R193). -/
def recurDigits (t : Nat → Int) (m : Nat) : List Int := recurGo t m 1 0

/-- 16·4^j·A rounded down, for an exact target. -/
def scaled (j : Nat) (a : Frac) : Int := (a.shift (2 * (j : Int))).floor16

/-- A lane of an operand: head and digits; a ZERO operand takes the other's Q and digits 0 (R194). -/
structure DLane where
  h : DHead
  digs : List Int
deriving DecidableEq, Repr

/-- The digit exponent with which an operand takes part beside another of exponent `other`. -/
def DLane.qIn (a : DLane) (other : Int) : Int := if a.h.cls = 0 then other else a.h.q
/-- X(k) of an operand, 0 for class ZERO. -/
def DLane.x (a : DLane) (k : Nat) : Frac := if a.h.cls = 0 then { n := 0, d := 1 } else prefixF a.digs k

/-- Qm of two operands (R194). -/
def qMax (x y : DLane) : Int := max (x.qIn y.h.q) (y.qIn x.h.q)

/-- The target of DADD and DSUB (R194). -/
def addTarget (neg : Bool) (x y : DLane) (k : Nat) : Frac :=
  let qm := qMax x y
  let a := (x.x k).shift (2 * (x.qIn y.h.q - qm))
  let b := (y.x k).shift (2 * (y.qIn x.h.q - qm))
  (if neg then a.sub b else a.add b).shift (-2)

/-- The target of DFMA (R194). -/
def fmaTarget (x y c : DLane) (k : Nat) : Frac :=
  if x.h.cls = 0 || y.h.cls = 0 then (c.x k).shift (-2)
  else
    let qp := x.h.q + y.h.q
    let qc := c.qIn qp
    let qm := max qp qc
    (((x.x k).mul (y.x k)).shift (2 * (qp - qm)) |>.add ((c.x k).shift (2 * (qc - qm)))).shift (-2)

/-- ey of a divisor (R194): even, with 1/4 ≤ |m| < 1. -/
def divExp (y : Num) : Int :=
  match y with
  | .fin _ m e _ => let t := (Nat.log2 m : Int) + e; 2 * half (t + 1)
  | _ => 0

/-- The target of DDIV (R194): X(k) / (4m). -/
def divTarget (x : DLane) (y : Num) (k : Nat) : Frac :=
  let m := y.frac.shift (2 - divExp y)
  let a := x.x k
  if m.n = 0 then { n := 0, d := 1 }
  else { n := a.n * m.d * (if m.n < 0 then -1 else 1), d := a.d * m.n.natAbs }

/-- floor(16·4^j·sqrt(max(0, 4^(Qx-2Qo)·X(k)))) (R194). -/
def sqrtScaled (x : DLane) (j k : Nat) : Int :=
  let a := (x.x k).shift (2 * (x.h.q - 2 * half x.h.q) + 4 * (j : Int) + 8)
  if a.n ≤ 0 then 0 else (isqrt (a.n.toNat / a.d) : Int)

/-! ## DEXP2 (R196) -/

/-- log2(1 + d·4^-i) at 40 fraction bits, rounded to nearest, d = -3 to 3, for i = 1 to 7 (R196). -/
def exp2TableA : List (List Int) :=
  [[-2199023255552, -1099511627776, -456338556420, 0, 353963683636, 643173071356, 887696124545],
   [-329370013124, -211815503231, -102374872784, 0, 96166410953, 186834514936, 272599183877],
   [-76155102720, -50361689325, -24980988296, 0, 24593670513, 48811850439, 72665833379],
   [-18698762371, -12441318466, -6208461831, 0, 6184257240, 12344497886, 18480907754],
   [-4654066828, -3101193505, -1549838885, 0, 1548326109, 3095142392, 4640451791],
   [-1162237179, -774730161, -387317783, 0, 387223235, 774351967, 1161386243],
   [-290479471, -193647070, -96820580, 0, 96814671, 193623433, 290426287]]
/-- The same for i = 8 to 14. -/
def exp2TableB : List (List Int) :=
  [[-72614881, -48409551, -24204591, 0, 24204222, 48408074, 72611557],
   [-18153409, -12102249, -6051113, 0, 6051090, 12102157, 18153201],
   [-4538333, -3025554, -1512776, 0, 1512775, 3025548, 4538320],
   [-1134582, -756388, -378194, 0, 378194, 756388, 1134581],
   [-283645, -189097, -94548, 0, 94548, 189097, 283645],
   [-70911, -47274, -23637, 0, 23637, 47274, 70911],
   [-17728, -11819, -5909, 0, 5909, 11819, 17728]]
/-- The same for i = 15 to 21; from i = 22 on every entry rounds to 0. -/
def exp2TableC : List (List Int) :=
  [[-4432, -2955, -1477, 0, 1477, 2955, 4432],
   [-1108, -739, -369, 0, 369, 739, 1108],
   [-277, -185, -92, 0, 92, 185, 277],
   [-69, -46, -23, 0, 23, 46, 69],
   [-17, -12, -6, 0, 6, 12, 17],
   [-4, -3, -1, 0, 1, 3, 4],
   [-1, -1, 0, 0, 0, 1, 1]]

/-- L(d, i) in units of 2^-40 (R196). -/
def exp2L (d : Int) (i : Nat) : Int :=
  let row := if i ≤ 7 then (exp2TableA[i - 1]?).getD [] else if i ≤ 14 then (exp2TableB[i - 8]?).getD []
    else (exp2TableC[i - 15]?).getD []
  (row[(d + 3).toNat]?).getD 0

/-- The d of R196 that lies nearest to f; the larger on a tie. -/
def exp2Pick (f : Frac) (i : Nat) : Int :=
  let dist (d : Int) : Frac := (f.sub { n := exp2L d i, d := 2 ^ 40 }).abs
  [-2, -1, 0, 1, 2, 3].foldl (fun b d => if (dist b).lt (dist d) then b else d) (-3)

/-- The loop of R196: steps left, the index, f and P. -/
def exp2Go : Nat → Nat → Frac → Frac → Frac
  | 0, _, _, p => p
  | n + 1, i, f, p =>
    let e := exp2Pick f i
    exp2Go n (i + 1) (f.sub { n := exp2L e i, d := 2 ^ 40 }) (p.mul { n := (4 : Int) ^ i + e, d := 4 ^ i })

/-- Qi of an input lane (R196); 0 for a lane that carries no digits. -/
def exp2Qi (x : DLane) : Nat := if x.h.cls = 1 then x.h.q.toNat else 0

/-- n of an input lane (R196). -/
def exp2N (x : DLane) : Int := if x.h.cls = 1 && 0 < x.h.q then prefixN x.h.q.toNat x.digs else 0

/-- Qo of DEXP2 (R196). -/
def exp2Q (x : DLane) : Int := half (exp2N x + 2)

/-- The target A(k) of DEXP2 (R196). -/
def exp2Target (x : DLane) (k : Nat) : Frac :=
  let f := ((x.x (exp2Qi x + k)).shift (2 * (if x.h.cls = 1 then x.h.q else 0))).sub { n := exp2N x, d := 1 }
  (exp2Go k 1 f { n := 1, d := 1 }).shift (exp2N x - 2 * exp2Q x)

/-! ## Heads (R195, R200, R296) -/

/-- Heads of DADD, DSUB and DFMA's sum: `neg` inverts Y's SIGN. R195 gives a NAN head no SIGN, and a NAN, INF or ZERO head no QEXP:
here, as with every other operator but DSQRT, SIGN of NAN and QEXP of all three are 0 (DESIGN CHOICE, log entry 113). -/
def addHead (neg : Bool) (x y : DHead) : DHead × Nat :=
  let sy := y.sign != neg
  let both := x.sign && sy
  if x.cls = 3 || y.cls = 3 then ({ sign := false, cls := 3, q := 0 }, 0)
  else if x.cls = 2 && y.cls = 2 then
    (if x.sign == sy then ({ sign := sy, cls := 2, q := 0 }, 0) else ({ sign := false, cls := 3, q := 0 }, fNV))
  else if x.cls = 2 then ({ sign := x.sign, cls := 2, q := 0 }, 0)
  else if y.cls = 2 then ({ sign := sy, cls := 2, q := 0 }, 0)
  else if x.cls = 0 && y.cls = 0 then ({ sign := both, cls := 0, q := 0 }, 0)
  else
    let q := max (if x.cls = 0 then y.q else x.q) (if y.cls = 0 then x.q else y.q)
    ({ sign := both, cls := 1, q := q + 1 }, 0)

/-- Heads of DMUL. -/
def mulHead (x y : DHead) : DHead × Nat :=
  let sg := x.sign != y.sign
  if x.cls = 3 || y.cls = 3 then ({ sign := false, cls := 3, q := 0 }, 0)
  else if x.cls = 2 || y.cls = 2 then
    (if x.cls = 0 || y.cls = 0 then ({ sign := false, cls := 3, q := 0 }, fNV) else ({ sign := sg, cls := 2, q := 0 }, 0))
  else if x.cls = 0 || y.cls = 0 then ({ sign := sg, cls := 0, q := 0 }, 0)
  else ({ sign := sg, cls := 1, q := x.q + y.q }, 0)

/-- Heads of DFMA. -/
def fmaHead (x y c : DHead) : DHead × Nat :=
  if x.cls = 3 || y.cls = 3 || c.cls = 3 then ({ sign := false, cls := 3, q := 0 }, 0)
  else
    let p := mulHead x y
    let r := addHead false p.1 c
    (r.1, p.2 ||| r.2)

/-- Heads of DDIV. -/
def divHead (x : DHead) (y : Num) : DHead × Nat :=
  let sg := x.sign != y.neg
  let nan : DHead := { sign := false, cls := 3, q := 0 }
  if x.cls = 3 || y.isNan then (nan, 0)
  else
    match y with
    | .inf _ => if x.cls = 2 then (nan, fNV) else ({ sign := sg, cls := 0, q := 0 }, 0)
    | y =>
      if y.isZero then (if x.cls = 0 then (nan, fNV) else ({ sign := sg, cls := 2, q := 0 }, fDZ))
      else if x.cls = 2 then ({ sign := sg, cls := 2, q := 0 }, 0)
      else if x.cls = 0 then ({ sign := sg, cls := 0, q := 0 }, 0)
      else ({ sign := sg, cls := 1, q := x.q + 1 - divExp y / 2 }, 0)

/-- Heads of DSQRT. A ZERO, +INF or NAN head is its input's, with the fields that R195 leaves open (DESIGN CHOICE, log entry 113). -/
def sqrtHead (x : DHead) : DHead × Nat :=
  if x.cls = 2 && x.sign then ({ sign := false, cls := 3, q := 0 }, fNV)
  else if x.cls = 1 then ({ x with q := half x.q }, 0) else (x, 0)

/-- Heads of DEXP2. -/
def exp2Head (x : DLane) : DHead × Nat :=
  if x.h.cls = 3 then ({ sign := false, cls := 3, q := 0 }, 0)
  else if x.h.cls = 2 then (if x.h.sign then ({ sign := false, cls := 0, q := 0 }, 0) else ({ sign := false, cls := 2, q := 0 }, 0))
  else ({ sign := false, cls := 1, q := exp2Q x }, 0)

/-- Heads of DRELU (R200). -/
def reluHead (x : DHead) : DHead :=
  if x.cls = 1 then { x with sign := false }
  else if x.cls = 2 && x.sign then { sign := false, cls := 0, q := 0 }
  else if x.cls = 0 then { x with sign := false } else x

/-- Does an infinite operand settle DMAX or DMIN: it wins (R200)? -/
def infWins (isMax : Bool) (h : DHead) : Bool := h.cls == 2 && (h.sign != isMax)

/-- Heads of DMAX and DMIN (R195, R200). -/
def maxHead (isMax : Bool) (x y : DHead) : DHead :=
  if x.cls = 3 || y.cls = 3 then { sign := false, cls := 3, q := 0 }
  else if infWins isMax x || infWins isMax y || (x.cls = 2 && y.cls = 2) then
    { sign := if infWins isMax x || infWins isMax y then !isMax else isMax, cls := 2, q := 0 }
  else
    let q := if x.cls = 2 then y.q else if y.cls = 2 then x.q
      else max (if x.cls = 0 then y.q else x.q) (if y.cls = 0 then x.q else y.q)
    { sign := if isMax then x.sign && y.sign else x.sign || y.sign, cls := 1, q := q }

/-- Heads of DSCL (R296). -/
def sclHead (sc : Int) (x : DHead) : DHead × Nat := headRange (if x.cls = 1 then { x with q := x.q + half sc } else x)

/-! ## Decisions (R200) -/

/-- The scaled prefix of a DMAX operand. -/
def maxTerm (x y : DLane) (k : Nat) : Frac := (x.x k).shift (2 * (x.qIn y.h.q - qMax x y))

/-- When DMAX or DMIN of two finite lanes decides: the first k of R200, within the first `n`; none before that. -/
def maxDecided (x y : DLane) (dd n : Nat) : Option Nat :=
  ((List.range n).map (· + 1)).find? fun k =>
    k == dd || ({ n := 2, d := 4 ^ k } : Frac).lt ((maxTerm x y k).sub (maxTerm y x k)).abs

/-- Does x win DMAX or DMIN at depth k (R200)? -/
def maxXWins (isMax : Bool) (x y : DLane) (k : Nat) : Bool :=
  if isMax then !(maxTerm x y k).lt (maxTerm y x k) else !(maxTerm y x k).lt (maxTerm x y k)

/-- The target of DMAX and DMIN (R200): the winner's prefix once decided, the larger (smaller) until then. -/
def maxTarget (isMax : Bool) (dd : Nat) (x y : DLane) (k : Nat) : Frac :=
  if x.h.cls = 2 then y.x k
  else if y.h.cls = 2 then x.x k
  else
    match maxDecided x y dd k with
    | some n => if maxXWins isMax x y n then maxTerm x y k else maxTerm y x k
    | none => if maxXWins isMax x y k then maxTerm x y k else maxTerm y x k

/-- The position of the first nonzero digit among the first `n` (R200). -/
def firstNonzero (l : List Int) (n : Nat) : Option Nat := firstIdx (· != 0) (l.take n)

/-- The digits of DRELU (R200). -/
def reluDigit (x : DLane) (j : Nat) : Int :=
  match firstNonzero x.digs j with
  | some i => if (x.digs[i]?).getD 0 < 0 then 0 else (x.digs[j - 1]?).getD 0
  | none => 0

/-- A decision of DTHR within the first `n` digits: some true to fill, some false to pass (R200). Of -INF, which fills, and a NaN
threshold, which passes x, the threshold is judged first (DESIGN CHOICE, log entry 114). -/
def thrDecided (x : DLane) (th : Num) (dd n : Nat) : Option Bool :=
  if x.h.cls = 3 || th.isNan then some false
  else if x.h.cls = 2 then some x.h.sign
  else if x.h.cls = 0 then some (cmpNum (.fin false 0 0 false) th < 0)
  else
    match th with
    | .inf neg => if n = 0 then none else some (!neg)
    | th =>
      let t := th.frac
      let v (k : Nat) (d : Int) : Frac := ((x.x k).add { n := d, d := 4 ^ k }).shift (2 * x.h.q)
      match ((List.range n).map (· + 1)).find? fun k => k == dd || (v k 1).lt t || !(v k (-1)).lt t with
      | some k =>
        if (v k 1).lt t then some true
        else if !(v k (-1)).lt t then some false
        else some ((v dd 0).lt t)
      | none => none

/-! ## DSINK (R198, R199) -/

/-- Default PD of a target type (R199). -/
def defaultPd (t : Ty) : Nat :=
  match t with
  | .e4m3 | .e5m2 => 3 | .e2m1 => 2 | .bf16 => 5 | .f16 => 7 | .f32 => 13 | .i8 | .n8 => 5 | .i16 | .n16 => 9
  | .i32 | .n32 => 17 | .i64 | .n64 => 33 | _ => 1

/-- The exact value that a lane delivers from its first `pd` digits (R198). -/
def sinkNum (x : DLane) (pd : Nat) : Num :=
  match x.h.cls with
  | 0 => .fin x.h.sign 0 0 false
  | 1 =>
    let n := prefixN pd x.digs
    if n = 0 then .fin x.h.sign 0 0 false else .fin (n < 0) n.natAbs (2 * x.h.q - 2 * (pd : Int)) false
  | 2 => .inf x.h.sign
  | _ => .nan

/-- FEXP2 of one element (R284): DSRC, DEXP2 and DSINK at the default PD, with the flags of the head and of the
rounding. -/
def fexp2Elem (t : Ty) (rm : Rm) (sat : Bool) (gen b : Nat) : Res :=
  let v := Num.decode t b
  let h := srcHead v
  let pd := defaultPd t
  let x : DLane := { h := h, digs := (List.range (h.q.toNat + pd + 6)).map fun j => srcDigit v (j + 1) }
  let hd := exp2Head x
  let oh := headRange hd.1
  let digs := if oh.1.cls = 1 then recurDigits (fun j => scaled j (exp2Target x (j + 5))) pd else []
  let r := roundNum t rm sat gen (sinkNum { h := oh.1, digs := digs } pd)
  ⟨r.bits, r.flags ||| hd.2 ||| oh.2, r.gen⟩

end Sys2Proof.Machine
end

