-- ==== Sys2Proof/Machine/Digit.lean ====
section
/-! DEFINITION. The digit instructions 50-5F, FEXP2, and the events DIGIT_STEP and KILL_MESSAGE (R191-R202, R288-R301). -/

namespace Sys2Proof.Machine

/-! ## Inputs of a digit operator -/

/-- The number of an operand field in a digit operator's lists. -/
def Fld.idx : Fld → Nat | .l => 0 | .r => 1 | _ => 2

/-- The digit fields of an opcode; the L field of MOV with SH 10 counts as one. -/
def digitFields (op : Nat) (f : Fmt) : List Fld :=
  if op = 0x01 then [.l] else [Fld.l, .r, .x].filter (digitField op f)

/-- Is an arrival a digit token? -/
def Arrival.isDigit (y : Arrival) : Bool := y.tok.isDigit

/-- Does a digit field take an arrival now? Between groups (`grp` none) it takes anything but a digit token; within a group
it takes that group's digit tokens, told from another group's by the slot that sends them (R191, R298: stop tokens stand
between the groups, and the later of a stop token and a group's digits decides). -/
def fits (grp : Option Nat) (y : Arrival) : Bool :=
  match grp with | none => !y.isDigit | some k => y.isDigit && y.src == k

/-- The next token of a digit field, if it is usable: from the field, from the tokens a channel field has kept (R301), or
from the channel, whose tokens stand in order. -/
def State.peekDigit (s : State) (a : Agent) (op : Nat) (f : Fmt) (sl : Slot) (x : Fld) (pos : Nat) (grp : Option Nat) : Option Arrival :=
  let o : Option Arrival := match (if x == .l then chlOf op f else none) with
    | some j => (match sl.l.q[pos]? with | some y => some y | none => if grp.isNone then s.chanTok a j else s.chanIn a j)
    | none => (sl.fld x).q.find? (fits grp)
  match o with
  | some y => if y.at0 ≤ s.cycle then some y else none
  | none => none

/-- The position of the head of the group that a channel field reads, in what the field has kept. -/
def headPos (q : List Arrival) (pos : Nat) : Option Nat :=
  ((List.range (min pos q.length)).filter fun i => optB q[i]? fun y => y.tok.kind == .head && y.tok.stop == 0).getLast?

/-- Is the token at a position of a channel field the 257th digit token of a group that a faulted attempt had begun (R301)? -/
def Slot.tooLong (sl : Slot) (pos : Nat) (y : Arrival) : Bool :=
  y.isDigit && optB (headPos sl.l.q pos) fun h => h < sl.l.skip && 257 ≤ pos - h

/-- Consume that token. A channel field keeps what it takes; the 257th digit token of a group begun before a fault
raises OPERAND (R301). -/
def State.eatDigit (s : State) (a : Agent) (i op : Nat) (f : Fmt) (sl : Slot) (x : Fld) (pos : Nat) (grp : Option Nat) : State :=
  match (if x == .l then chlOf op f else none) with
  | some j =>
    (match sl.l.q[pos]?, (if grp.isNone then s.chanTok a j else s.chanIn a j) with
     | some y, _ => if sl.tooLong pos y then s.blockFault a (some i) fcWmask bcOperand 0 else s
     | none, none => s
     | none, some y =>
       if sl.tooLong pos y then s.blockFault a (some i) fcWmask bcOperand 0
       else (if grp.isNone then s.takeHead a j else s.takeIn a j).setSlot a i fun sl => { sl with l := sl.l.push y.tok y.at0 0 })
  | none => s.setSlot a i fun sl => sl.setFld x { sl.fld x with
      q := if grp.isNone then dropThrough (fun _ => true) (fits grp) (sl.fld x).q else dropFirst (fits grp) (sl.fld x).q }

/-- May a digit field not take a token that a channel brings (R289): a word, a vector, a scale or a splice token? -/
def notDigit (t : Token) : Bool :=
  t.stop = 0 && (t.kind == .word || t.kind == .vector || t.kind == .scale || t.kind == .splice)

/-- A slot's digit engine replaced. -/
def State.setDig (s : State) (a : Agent) (i : Nat) (e : DigEng) : State :=
  s.setSlot a i fun sl => { sl with eng := .digit e }

/-! ## The reverse wire (R201) -/

/-- The configuration context a region has in a cell. -/
def State.cctxFor (s : State) (k key : Nat) : Nat :=
  ((List.range 4).find? fun n => let x := (s.cell key).cctx n; x.region == k && x.st == .active).getD 4

/-- Does a channel target of an agent's slot lead to a circuit of a cell? -/
def State.leadsTo (s : State) (a : Agent) (t : Target) (key circ : Nat) : Bool :=
  match a, t with
  | .task d p _, .chan n _ =>
    (match (s.task a).outCircuit n with
     | some c => s.follow (s.cctxFor (s.regionOf a)) (fun k q => k == key && q == circ) (· || ·) (· || ·) false false 600 (cellKey d p) (64 * 4 + c)
     | none => false)
  | _, _ => false

/-- The running digit producers of an agent's block: slot, fields. -/
def State.producers (s : State) (a : Agent) : List (Nat × Nat × Fmt) :=
  match s.win a with
  | none => []
  | some w => (List.range w.slots.length).filterMap fun k =>
      match w.slots[k]?, s.fieldsAt a w.baddr k with
      | some sl, some (op, f) => if sl.st == .running && digitProducer op f then some (k, op, f) else none
      | _, _ => none

/-- Which target of a word, 0 for TA and 1 for TB, satisfies a test. -/
def whichTarget (f : Fmt) (p : Target → Bool) : Option Nat := if p f.ta then some 0 else if p f.tb then some 1 else none

/-- The producer of the group that a field of a slot reads from its own block, `src` its slot plus one: slot and target. -/
def State.producerOf (s : State) (a : Agent) (i : Nat) (x : Fld) (src : Nat) : Option (Nat × Nat) :=
  ((s.producers a).filterMap fun e => if e.1 + 1 ≠ src then none else
    (whichTarget e.2.2 fun t => match t with | .slot n y => n.val == i && y == x | _ => false).map fun t => (e.1, t)).head?

/-- The head of the group that a channel field has read up to a position. -/
def State.groupHead (s : State) (a : Agent) (i pos : Nat) : Option Token :=
  (s.win a).bind fun w => w.slots[i]?.bind fun sl => (headPos sl.l.q pos).bind fun h => sl.l.q[h]?.map (·.tok)

/-- Send the message that ends lanes of a field (R201): to the producer in the block, or along the channel that brought the group's
head; `pos` is how much the field has read. -/
def State.sendEnd (s : State) (a : Agent) (i op : Nat) (f : Fmt) (x : Fld) (src pos lanes : Nat) (kg : Option Nat) : State :=
  match (if x == .l then chlOf op f else none) with
  | none =>
    (match s.producerOf a i x src with
     | none => s
     | some (k, t) =>
       { s with kills := s.kills ++ [{ agent := a, slot := k, seq := (match s.win a with | some w => w.seq | none => 0), target := t
                                       lanes := lanes, kg := kg, rcv := none }] })
  | some j =>
    match (s.task a).inCircuit j, s.groupHead a i pos with
    | some c, some hd => s.endHead a c lanes kg hd
    | _, _ => s

/-- Count kills that a decision operator sends (R201, R384, R421). -/
def State.countKills (s : State) (k g n : Nat) : State :=
  (s.traceKill k g n).modRegion k fun r =>
    { r with cur := listModify (r.cur ++ List.replicate (16 - r.cur.length) 0) (8 + g) (· + n) }

/-- The lanes of a mask. -/
def laneCount (m : Nat) : Nat := (bitsOf m 32).length

/-- End lanes of an input field that are not ended yet. -/
def State.endIn (s : State) (a : Agent) (i op : Nat) (f : Fmt) (e : DigEng) (x : Fld) (lanes : Nat) (kg : Option Nat) : State × DigEng :=
  let old := (e.endIn[x.idx]?).getD 0
  let new := lanes &&& (allLanes - old)
  if new = 0 then (s, e)
  else (s.sendEnd a i op f x ((e.srcs[x.idx]?).getD 0) e.pos new kg, { e with endIn := listSet e.endIn x.idx (old ||| new) })

/-- The same as a kill that a decision operator sends, counted. -/
def State.killIn (s : State) (a : Agent) (i op : Nat) (g : FmtG) (e : DigEng) (x : Fld) (lanes : Nat) : State × DigEng :=
  let old := (e.endIn[x.idx]?).getD 0
  let new := lanes &&& (allLanes - old)
  if new = 0 then (s, e)
  else (s.countKills (s.regionOf a) g.kg.toNat (laneCount new)).endIn a i op (.g g) e x new (some g.kg.toNat)

/-! ## Values -/

/-- The mask of the lanes that satisfy a test. -/
def laneMask (p : Nat → Bool) : Nat := (List.range 32).foldl (fun m i => if p i then m ||| 2 ^ i else m) 0

/-- Lane `i` of an operand of a digit operator. -/
def DigEng.lane (e : DigEng) (x : Fld) (i : Nat) : DLane :=
  match e.heads[x.idx]? with
  | some (some h) => { h := headLane h i, digs := ((e.digs[x.idx]?).getD []).map fun p => digitLane p i }
  | _ => { h := { sign := false, cls := 0, q := 0 }, digs := [] }

/-- Lane `i` of the head sent. -/
def DigEng.out (e : DigEng) (i : Nat) : DHead := match e.outHead with | some h => headLane h i | none => { sign := false, cls := 0, q := 0 }

/-- Lane `i` of a word operand (R292). -/
def DigEng.wordLane (e : DigEng) (ty : Ty) (i : Nat) : Nat :=
  match e.word with | some t => (((t.lanes ty)[i]?).getD 0) | none => 0

/-- Decision depth D (R200) and the digits DACC and DRED read (R288). -/
def depthOf (g : FmtG) : Nat := if g.pd = 0 then 16 else g.pd.toNat

/-- θ of DTHR. -/
def DigEng.theta (e : DigEng) (g : FmtG) (i : Nat) : Num := Num.decode g.ty (e.wordLane g.ty i)
/-- φ of DTHR (R292). -/
def DigEng.phi (e : DigEng) (g : FmtG) (i : Nat) : Num :=
  match g.aux.toNat % 4 with
  | 0 => .fin false 0 0 false | 1 => .fin true 0 0 false | 2 => .inf true | _ => e.theta g i

/-- The number of digit tokens read from L. -/
def DigEng.nIn (e : DigEng) (x : Fld) : Nat := ((e.digs[x.idx]?).getD []).length

/-- DTHR's decision on a lane. -/
def DigEng.thr (e : DigEng) (g : FmtG) (i : Nat) : Option Bool := thrDecided (e.lane .l i) (e.theta g i) (depthOf g) (e.nIn .l)

/-- What DACC or DRED delivers in a lane (R298, R299), with NV where it is a NaN with INV. A ZERO result of DRED max or min has SIGN 0: R299
gives a sign for the empty fibre only (DESIGN CHOICE, log entry 133). -/
def DigEng.sum (e : DigEng) (op : Nat) (g : FmtG) (i : Nat) : Num × Nat :=
  if op = 0x5E && g.aux.toNat % 4 != 0 then
    (match e.best with
     | some (0, n, x) => (.fin (n < 0) n.natAbs x false, 0)
     | some (1, _, _) => (.inf false, 0)
     | some (2, _, _) => (.inf true, 0)
     | some _ => (.nan, 0)
     | none => (.fin false 0 0 false, 0))
  else
    let r := (e.recs[if op = 0x5E then 0 else i]?).getD 0
    (accNum r, if accCls r = 3 && accInv r then fNV else 0)

/-- The output head of a lane with its flags (R195, R200, R293, R296-R299). -/
def DigEng.headOf (e : DigEng) (op : Nat) (g : FmtG) (i : Nat) : DHead × Nat :=
  let x := e.lane .l i
  let y := e.lane .r i
  let c := e.lane .x i
  let r (h : DHead × Nat) : DHead × Nat := let q := headRange h.1; (q.1, q.2 ||| h.2)
  match op with
  | 0x01 => (x.h, 0)
  | 0x50 => (srcHead (Num.decode g.ty (e.wordLane g.ty i)), 0)
  | 0x52 => r (addHead false x.h y.h)
  | 0x53 => r (addHead true x.h y.h)
  | 0x54 => r (mulHead x.h y.h)
  | 0x55 => r (divHead x.h (Num.decode g.ty (e.wordLane g.ty i)))
  | 0x56 => r (sqrtHead x.h)
  | 0x57 => r (fmaHead x.h y.h c.h)
  | 0x58 => (reluHead x.h, 0)
  | 0x59 => (maxHead true x.h y.h, 0)
  | 0x5A => (maxHead false x.h y.h, 0)
  | 0x5B => if e.thr g i = some true then (srcHead (e.phi g i), 0) else (x.h, 0)
  | 0x5C => r (exp2Head x)
  | 0x5F => sclHead (sextN g.aux.toNat 8) x.h
  | _ => let v := e.sum op g i; r (srcHead v.1, v.2)

/-- Output digit `j` of a lane (R193, R200, R243, R293, R296-R299). -/
def DigEng.digitOf (e : DigEng) (op : Nat) (g : FmtG) (i j : Nat) : Int :=
  let x := e.lane .l i
  let y := e.lane .r i
  let c := e.lane .x i
  let rec0 (t : Nat → Int) : Int := ((recurDigits t j)[j - 1]?).getD 0
  let norm := (e.out i).cls == 1
  -- an output lane whose head is ZERO, INF or NAN carries zero digits (R191, R295)
  if !norm then 0
  else
  match op with
  | 0x01 => (x.digs[j - 1]?).getD 0
  | 0x50 => srcDigit (Num.decode g.ty (e.wordLane g.ty i)) j
  | 0x58 => reluDigit x j
  | 0x5B => if e.thr g i = some true then srcDigit (e.phi g i) j else (x.digs[j - 1]?).getD 0
  | 0x5D | 0x5E => srcDigit (e.sum op g i).1 j
  | 0x52 => rec0 fun k => scaled k (addTarget false x y (k + 2))
  | 0x53 => rec0 fun k => scaled k (addTarget true x y (k + 2))
  | 0x54 => rec0 fun k => scaled k ((x.x (k + 3)).mul (y.x (k + 3)))
  | 0x55 => rec0 fun k => scaled k (divTarget x (Num.decode g.ty (e.wordLane g.ty i)) (k + 4))
  | 0x56 => rec0 fun k => sqrtScaled x k (k + 4)
  | 0x57 => rec0 fun k => scaled k (fmaTarget x y c (k + 3))
  | 0x59 => rec0 fun k => scaled k (maxTarget true (depthOf g) x y (k + 1))
  | 0x5A => rec0 fun k => scaled k (maxTarget false (depthOf g) x y (k + 1))
  | 0x5C => rec0 fun k => scaled k (exp2Target x (k + 5))
  | _ => if sextN g.aux.toNat 8 % 2 = 0 then (x.digs[j - 1]?).getD 0 else rec0 fun k => scaled k ((x.x (k + 1)).shift (-1))

/-- The input digits that the head waits for (R196, R191). -/
def DigEng.headWait (e : DigEng) (op : Nat) : Nat :=
  if op = 0x5C then (List.range 32).foldl (fun m i => max m (exp2Qi (e.lane .l i))) 0 else 0

/-- The input digits that output digit `j` waits for (R194, R292, R296, R297). -/
def DigEng.digitWait (e : DigEng) (op : Nat) (g : FmtG) (j : Nat) : Nat :=
  match op with
  | 0x52 | 0x53 => j + 2
  | 0x54 | 0x57 => j + 3
  | 0x55 | 0x56 => j + 4
  | 0x59 | 0x5A | 0x5B => j + 1
  | 0x5C => e.headWait op + j + 5
  | 0x5F => if sextN g.aux.toNat 8 % 2 = 0 then j else j + 1
  | _ => j

/-! ## Output -/

/-- Does a slot target need no digit any more: its instruction is done or can no longer fire? -/
def State.needsNone (s : State) (a : Agent) (t : Target) : Bool :=
  match t, s.win a with
  | .slot n _, some w =>
    (match w.slots[n.val]?, s.fieldsAt a w.baddr n.val with
     | some sl, some (op, f) => sl.done || (sl.st == .waiting && s.verdictAt a op f false sl (s.cycle + 64) == .dead)
     | _, _ => false)
  | _, _ => false

/-- The lanes that every consumer of an operator has ended, and those of them ended by kills of its own group. A consumer that needs
nothing of a group ends it once the group has begun, with its head (R191, R291). -/
def State.endedOut (s : State) (a : Agent) (f : Fmt) (e : DigEng) : Nat × Nat :=
  let m (i : Nat) (t : Target) : Nat := if e.outHead.isSome && s.needsNone a t then allLanes else (e.endOut[i]?).getD 0
  let k (i : Nat) : Nat := (e.killOut[i]?).getD 0
  let any := f.ta != .none || f.tb != .none
  (m 0 f.ta &&& m 1 f.tb, if any then k 0 &&& k 1 else 0)

/-- Pass endings on to the inputs, and complete once every output and input lane has ended (R191, R201, R289). A
completed DACC or DRED with PASS sends its stop token (R298). -/
def State.settleDigit (s : State) (a : Agent) (i op : Nat) (g : FmtG) (e : DigEng) : State :=
  let o := s.endedOut a (.g g) e
  -- DTHR needs an input lane until the lane has decided, whoever reads its output (R297)
  let o := if op = 0x5B then (o.1 &&& e.decided, o.2 &&& e.decided) else o
  let r := (digitFields op (.g g)).foldl (fun (r : State × DigEng) x =>
    let r := r.1.endIn a i op (.g g) r.2 x (o.1 &&& o.2) (some g.kg.toNat)
    r.1.endIn a i op (.g g) r.2 x o.1 none) (s, e)
  let s := r.1
  let e := r.2
  if o.1 = allLanes && e.outHead.isSome then
    let s := s.setSlot a i fun sl => { sl with st := .fired, eng := .none }
    let opa := g.aux.toNat
    if (op = 0x5D && opa.testBit 0) || (op = 0x5E && opa.testBit 2) then s.sendBoth a i op (.g g) (stopToken e.stop) 1 else s
  else s.setDig a i e

/-- Send the head (R190). -/
def State.sendHead (s : State) (a : Agent) (i op : Nat) (g : FmtG) (e : DigEng) : State × DigEng :=
  let hs := (List.range 32).map (e.headOf op g)
  let p := packHeads (hs.map (·.1))
  let fl := hs.foldl (fun m h => m ||| h.2) 0
  let s := s.modWin a fun w => w.raise fl
  (s.sendBoth a i op (.g g) { kind := .head, stop := 0, color := 0, payload := p } 1, { e with outHead := some p })

/-- Send the next digit: 100 in the lanes that have stopped (R189, R191). -/
def State.sendDigit (s : State) (a : Agent) (i op : Nat) (g : FmtG) (e : DigEng) (stopped : Nat) : State × DigEng :=
  let j := e.sent + 1
  let ds := (List.range 32).map fun n => if stopped.testBit n then 4 else wrapN (e.digitOf op g n j) 3
  let tok : Token := { kind := .digit, stop := 0, color := 0, payload := BitVec.ofNat 2048 (packLanes 3 ds) }
  ((s.spend (s.regionOf a) 1 1).sendBoth a i op (.g g) tok 1, { e with sent := j })

/-- Has an operator the inputs for `n` digits of every field it still reads? -/
def DigEng.hasIn (e : DigEng) (fs : List Fld) (n : Nat) : Bool :=
  fs.all fun x => (e.endIn[x.idx]?).getD 0 == allLanes || n ≤ e.nIn x

/-- Decisions made with the digits read so far, and their kills (R200, R201, R297). -/
def State.decide (s : State) (a : Agent) (i op : Nat) (g : FmtG) (e : DigEng) : State × DigEng :=
  let undecided (n : Nat) : Bool := !e.decided.testBit n
  match op with
  | 0x58 =>
    let neg (n : Nat) : Bool :=
      let x := e.lane .l n
      if x.h.cls = 0 || (x.h.cls = 2 && x.h.sign) then true
      else x.h.cls == 1 && (match firstNonzero x.digs x.digs.length with | some k => (x.digs[k]?).getD 0 < 0 | none => false)
    let m := laneMask fun n => undecided n && neg n
    let r := s.killIn a i op g { e with decided := e.decided ||| m } .l m
    r.1.endIn a i op (.g g) r.2 .l (laneMask fun n => let c := (e.lane .l n).h; c.cls == 3 || (c.cls == 2 && !c.sign)) none
  | 0x5B =>
    let m := laneMask fun n => undecided n && (e.thr g n).isSome
    let fill := laneMask fun n => m.testBit n && e.thr g n == some true
    let r := s.killIn a i op g { e with decided := e.decided ||| m } .l fill
    r.1.endIn a i op (.g g) r.2 .l (laneMask fun n => m.testBit n && (e.lane .l n).h.cls != 1) none
  | 0x59 | 0x5A =>
    let isMax := op == 0x59
    -- 0 undecided, 1 x lost, 2 y lost, 3 both
    let out (n : Nat) : Nat :=
      let x := e.lane .l n
      let y := e.lane .r n
      if (maxHead isMax x.h y.h).cls ≠ 1 then 3
      else if x.h.cls = 2 then 1
      else if y.h.cls = 2 then 2
      else
        match maxDecided x y (depthOf g) (min (e.nIn .l) (e.nIn .r)) with
        | some k => if maxXWins isMax x y k then 2 else 1
        | none => 0
    let m := laneMask fun n => undecided n && out n != 0
    let r := s.killIn a i op g { e with decided := e.decided ||| m } .l (laneMask fun n => m.testBit n && (out n).testBit 0)
    r.1.killIn a i op g r.2 .r (laneMask fun n => m.testBit n && (out n).testBit 1)
  | _ => (s, e)

/-- Does an operator other than a decision operator read no digit of an input lane: its class is not NORMAL, or DFMA's product is ZERO
through the other factor (R191, R194)? -/
def DigEng.readsNone (e : DigEng) (op : Nat) (x : Fld) (n : Nat) : Bool :=
  (e.lane x n).h.cls != 1 || (op = 0x57 && x != .x && ((e.lane .l n).h.cls == 0 || (e.lane .r n).h.cls == 0))

/-- Is an opcode a decision operator (R200)? -/
def decides (op : Nat) : Bool := 0x58 ≤ op && op ≤ 0x5B

/-- One step of an operator with one group: read a digit of each operand, decide, end the lanes whose digits it does not need, send the
head or the next digit, pass endings on (R191, R193). -/
def State.stepPlain (s : State) (a : Agent) (i op : Nat) (g : FmtG) (e : DigEng) : State :=
  let fs := digitFields op (.g g)
  let r := fs.foldl (fun (r : State × DigEng) x =>
    match r.1.win a with
    | none => r
    | some w =>
      let sl := (w.slots[i]?).getD .fresh
      let grp := some ((r.2.srcs[x.idx]?).getD 0)
      match r.1.peekDigit a op (.g g) sl x r.2.pos grp with
      | some t =>
        if notDigit t.tok && (r.2.endIn[x.idx]?).getD 0 != allLanes then (r.1.blockFault a (some i) fcWmask bcKind 0, r.2)
        else if t.isDigit then
          (r.1.eatDigit a i op (.g g) sl x r.2.pos grp,
            { r.2 with digs := listModify r.2.digs x.idx (· ++ [t.tok.payload]), pos := if x == .l then r.2.pos + 1 else r.2.pos })
        else r
      | none => r) (s, e)
  if (r.1.task a).fault.isSome && !r.1.paused a then r.1 else
  let r := r.1.decide a i op g r.2
  let r := if decides op then r
    else fs.foldl (fun (r : State × DigEng) x => r.1.endIn a i op (.g g) r.2 x (laneMask (r.2.readsNone op x)) none) r
  let s := r.1
  let e := r.2
  let o := (s.endedOut a (.g g) e).1
  let r : State × DigEng :=
    if e.outHead.isNone then
      if (op != 0x5B || e.decided == allLanes) && e.hasIn fs (e.headWait op) then
        let r := s.sendHead a i op g e
        if decides op then r
        else fs.foldl (fun (r : State × DigEng) x =>
          r.1.endIn a i op (.g g) r.2 x (laneMask fun n => (r.2.out n).cls != 1) none) r
      else (s, e)
    else if o ≠ allLanes && e.hasIn fs (e.digitWait op g (e.sent + 1)) then s.sendDigit a i op g e o
    else (s, e)
  r.1.settleDigit a i op g r.2

/-- One step of a DSINK (R198, R294): lanes that need no digit end at the head; the result leaves once every NORMAL lane
read has its digits. -/
def State.stepSink (s : State) (a : Agent) (i : Nat) (g : FmtG) (e : DigEng) : State :=
  let f : Fmt := .g g
  let vec := g.aux.toNat.testBit 0
  let pd := if g.pd = 0 then defaultPd g.ty else g.pd.toNat
  let need := laneMask fun n => (vec || n == 0) && (e.lane .l n).h.cls == 1
  let r := s.endIn a i 0x51 f e .l (allLanes - need) none
  let s := r.1
  let e := r.2
  let r : State × DigEng :=
    match s.win a with
    | none => (s, e)
    | some w =>
      let sl := (w.slots[i]?).getD .fresh
      let grp := some ((e.srcs[0]?).getD 0)
      match s.peekDigit a 0x51 f sl .l e.pos grp with
      | some t =>
        if need ≠ 0 && notDigit t.tok then (s.blockFault a (some i) fcWmask bcKind 0, e)
        else if need ≠ 0 && t.isDigit then
          (s.eatDigit a i 0x51 f sl .l e.pos grp, { e with digs := listModify e.digs 0 (· ++ [t.tok.payload]), pos := e.pos + 1 })
        else (s, e)
      | none => (s, e)
  let s := r.1
  let e := r.2
  if (s.task a).fault.isSome && !s.paused a then s else
  if need = 0 || pd ≤ e.nIn .l then
    let rm := s.resolveRm a g.rm
    let r := mapRes (fun gen n => roundNum g.ty rm g.sat gen (sinkNum (e.lane .l n) pd)) (List.range (if vec then 32 else 1)) (s.genOf a i)
    let q := s.endIn a i 0x51 f e .l allLanes none
    let s := q.1.setSlot a i fun sl => { sl with st := .fired, eng := .none }
    let s := s.modWin a fun w => w.raise r.2.1
    s.sendBoth a i 0x51 f (if vec then lanesTok g.ty r.1 else elemTok g.ty (r.1.headD 0)) 1
  else s.setDig a i e

/-! ## DACC and DRED (R298, R299) -/

/-- A lane of a group as a summand: significand, exponent and class (R298). -/
def summand (x : DLane) (dd : Nat) : Int × Int × Nat :=
  match x.h.cls with
  | 1 => (prefixN dd x.digs, 2 * x.h.q - 2 * (dd : Int), 0)
  | 2 => (0, 0, if x.h.sign then 2 else 1)
  | 3 => (0, 0, 3)
  | _ => (0, 0, 0)

/-- The combine of DRED's sum (R299). -/
def recCombine (a b : AccRec) : AccRec := accAdd a (2 * accSig b + (if accStk b then 1 else 0)) (accExp b - 1) (accCls b)

/-- One level of the fixed tree over values that need no draw. -/
def pairUp {α : Type} (f : α → α → α) : List α → List α
  | a :: b :: r => f a b :: pairUp f r
  | l => l
/-- The fixed tree over such values (R208). -/
def treeOf {α : Type} (f : α → α → α) : Nat → List α → Option α
  | 0, l => l.head?
  | n + 1, l => match l with | [] => none | [a] => some a | l => treeOf f n (pairUp f l)

/-- A stored extremum as a value. -/
def bestNum (b : Nat × Int × Int) : Num :=
  match b.1 with | 0 => .fin (b.2.1 < 0) b.2.1.natAbs b.2.2 false | 1 => .inf false | 2 => .inf true | _ => .nan

/-- The larger or smaller of two, NaN winning (R299). -/
def bestOf (isMax : Bool) (a b : Nat × Int × Int) : Nat × Int × Int :=
  if a.1 = 3 then a else if b.1 = 3 then b
  else
    let c := cmpNum (bestNum a) (bestNum b)
    if isMax then (if c < 0 then b else a) else (if 0 < c then b else a)

/-- Add the group just read to the records. -/
def DigEng.addGroup (e : DigEng) (op : Nat) (g : FmtG) : DigEng :=
  let dd := depthOf g
  let vs := (List.range 32).map fun n => summand (e.lane .l n) dd
  let e := { e with heads := listSet e.heads 0 none, digs := listSet e.digs 0 [], begun := true }
  if op = 0x5D then
    { e with recs := (List.range 32).map fun n =>
        match vs[n]? with
        | some v => accAdd ((e.recs[n]?).getD 0) v.1 v.2.1 v.2.2
        | none => 0 }
  else if g.aux.toNat % 4 = 0 then
    let t := (treeOf recCombine 6 (vs.map fun v => accAdd 0 v.1 v.2.1 v.2.2)).getD 0
    { e with recs := [match e.recs with | r :: _ => recCombine r t | [] => t] }
  else
    let isMax := g.aux.toNat % 4 == 1
    match treeOf (bestOf isMax) 6 (vs.map fun v => (v.2.2, v.1, v.2.1)) with
    | some t => { e with best := some (match e.best with | some b => bestOf isMax b t | none => t) }
    | none => e

/-- One step of DACC or DRED: read a token of the fibre, or send the result. A NULL between two groups is no token that R289 lets the
field take, and none of those it names as a fault: the model consumes it without effect (DESIGN CHOICE, log entry 112). -/
def State.stepAcc (s : State) (a : Agent) (i op : Nat) (g : FmtG) (e : DigEng) : State :=
  let f : Fmt := .g g
  if e.stop ≠ 0 then
    let o := (s.endedOut a f e).1
    let r := if e.outHead.isNone then s.sendHead a i op g e else if o ≠ allLanes then s.sendDigit a i op g e o else (s, e)
    r.1.settleDigit a i op g r.2
  else
    match s.win a with
    | none => s
    | some w =>
      let sl := (w.slots[i]?).getD .fresh
      let grp := if ((e.heads[0]?).getD none).isSome then some ((e.srcs[0]?).getD 0) else none
      match s.peekDigit a op f sl .l e.pos grp with
      | none => s
      | some y =>
        let t := y.tok
        let s := s.eatDigit a i op f sl .l e.pos grp
        let e := { e with pos := e.pos + 1 }
        if notDigit t then s.blockFault a (some i) fcWmask bcKind 0
        else if t.stop ≠ 0 then s.setDig a i { e with stop := t.stop, endIn := [allLanes, 0, 0] }
        else if t.kind == .head then
          let e := { e with heads := listSet e.heads 0 (some t.payload), digs := listSet e.digs 0 [], endIn := [0, 0, 0]
                            srcs := listSet e.srcs 0 y.src }
          let r := s.endIn a i op f e .l (laneMask fun n => (headLane t.payload n).cls != 1) none
          let full := (r.2.endIn[0]?).getD 0 == allLanes
          r.1.setDig a i (if full then r.2.addGroup op g else r.2)
        else if ((e.heads[0]?).getD none).isNone then s.setDig a i e
        else
          let e := { e with digs := listModify e.digs 0 (· ++ [t.payload]) }
          if e.nIn .l < depthOf g then s.setDig a i e
          else
            let r := s.endIn a i op f e .l allLanes none
            r.1.setDig a i (r.2.addGroup op g)

/-! ## Events -/

/-- DIGIT_STEP (R191, R193): a running digit operator, or a MOV of a group, makes its next step. -/
def execDigitStep (a : Agent) (slot : Nat) (s : State) : Host.Outcome State Fault Refusal :=
  match s.win a with
  | none => .next s
  | some w =>
    match w.slots[slot]?, s.fieldsAt a w.baddr slot with
    | some sl, some (op, .g g) =>
      (match sl.st, sl.eng with
       | .running, .digit e =>
         if (s.task a).fault.isSome && !s.paused a then .next s else
         let s := s.moved (s.regionOf a)
         if op = 0x51 then .next (s.stepSink a slot g e)
         else if op = 0x5D || op = 0x5E then .next (s.stepAcc a slot op g e)
         else .next (s.stepPlain a slot op g e)
       | _, _ => .next s)
    | _, _ => .next s

/-- The target of a producer along which a message returns: for one of a channel, the one that leads to where the group was received. -/
def State.killTarget (s : State) (m : KillMsg) (f : Fmt) : Nat :=
  match m.rcv with
  | none => m.target
  | some (key, c) => (whichTarget f fun t => s.leadsTo m.agent t key c).getD m.target

/-- The lanes that the receivers of a channel target have all ended, counting the messages that satisfy a test: each
branch of a multicast must have ended a lane (R201). -/
def State.chanEnded (s : State) (m : KillMsg) (t : Target) (p : KillMsg → Bool) : Nat :=
  match m.agent, t with
  | .task d q _, .chan n _ =>
    (match (s.task m.agent).outCircuit n with
     | some c =>
       let at0 (key circ : Nat) : Nat := s.kills.foldl (fun x k =>
         if k.agent == m.agent && k.slot == m.slot && k.seq == m.seq && k.rcv == some (key, circ) && p k
         then x ||| k.lanes else x) 0
       s.follow (s.cctxFor (s.regionOf m.agent)) at0 (· &&& ·) (· ||| ·) allLanes 0 600 (cellKey d q) (64 * 4 + c)
     | none => 0)
  | _, _ => 0

/-- KILL_MESSAGE (R201): the n-th message on the reverse wire reaches its producer, which may stop lanes and forward
endings. One for a finished group is discarded; one from a branch of a channel waits until every branch has ended the
lane. -/
def execKillMessage (n : Nat) (s : State) : Host.Outcome State Fault Refusal :=
  match s.kills[n]? with
  | none => .next s
  | some m =>
    let gone : State := { s with kills := s.kills.eraseIdx n }
    match s.win m.agent with
    | none => .next gone
    | some w =>
      match w.slots[m.slot]?, s.fieldsAt m.agent w.baddr m.slot with
      | some sl, some (op, .g g) =>
        (match sl.st, sl.eng with
         | .running, .digit e =>
           if w.seq ≠ m.seq then .next gone
           else
             let n := s.killTarget m (.g g)
             let tgt := if n = 0 then g.ta else g.tb
             let own (k : KillMsg) : Bool := k.kg == some g.kg.toNat
             let lanes := if m.rcv.isNone then m.lanes else s.chanEnded m tgt fun _ => true
             let kills := if m.rcv.isNone then (if own m then m.lanes else 0) else s.chanEnded m tgt own
             let old := (e.endOut[n]?).getD 0
             let new := lanes &&& (allLanes - old)
             let e' := { e with endOut := listSet e.endOut n (old ||| new)
                                killOut := listModify e.killOut n (· ||| (new &&& kills)) }
             let left : State := if m.rcv.isNone || m.lanes &&& (allLanes - (old ||| new)) == 0 then gone else s
             .next (left.settleDigit m.agent m.slot op g e')
         | _, _ => .next gone)
      | _, _ => .next gone

/-! ## Firing -/

/-- A digit instruction fires: it takes the heads of its digit operands and its word operand, and holds its operator
(R289). -/
def fireDigit (s : State) (op : Nat) (g : FmtG) (wordFld : Option Fld) : Host.Outcome State Fault Refusal :=
  fireWith s op (.g g) fun s a i sl =>
    let f : Fmt := .g g
    let take (r : State × DigEng) (x : Fld) : State × DigEng :=
      match r.1.win a with
      | none => r
      | some w =>
        let sl := (w.slots[i]?).getD .fresh
        match r.1.peekDigit a op f sl x 0 none with
        | some y =>
          let t := y.tok
          if notDigit t || t.isDigit then (r.1.blockFault a (some i) fcWmask bcKind 0, r.2)
          else (r.1.eatDigit a i op f sl x 0 none,
            if t.stop ≠ 0 then { r.2 with stop := t.stop, endIn := [allLanes, 0, 0] }
            else { r.2 with heads := listSet r.2.heads x.idx (some t.payload), srcs := listSet r.2.srcs x.idx y.src })
        | none => r
    let e := { DigEng.fresh g.ta g.tb with word := wordFld.map fun x => sl.tok x }
    let r := (digitFields op f).foldl take (s, e)
    if (r.1.task a).fault.isSome then r.1 else
    let s := r.1.setSlot a i fun sl => { sl with st := .running }
    if (op = 0x5D || op = 0x5E) && r.2.stop = 0 then
      let hd := ((r.2.heads[0]?).getD none).getD 0
      let q := (s.setDig a i r.2).endIn a i op f r.2 .l (laneMask fun n => (headLane hd n).cls != 1) none
      q.1.setDig a i (if (q.2.endIn[0]?).getD 0 = allLanes then q.2.addGroup op g else q.2)
    else s.setDig a i r.2

/-- DSRC (R293). -/
def execDsrc (f : FmtG) (s : State) : Host.Outcome State Fault Refusal := fireDigit s 0x50 f (some .l)
/-- DSINK (R294). -/
def execDsink (f : FmtG) (s : State) : Host.Outcome State Fault Refusal := fireDigit s 0x51 f none
/-- DADD (R295). -/
def execDadd (f : FmtG) (s : State) : Host.Outcome State Fault Refusal := fireDigit s 0x52 f none
/-- DSUB (R295). -/
def execDsub (f : FmtG) (s : State) : Host.Outcome State Fault Refusal := fireDigit s 0x53 f none
/-- DMUL (R295). -/
def execDmul (f : FmtG) (s : State) : Host.Outcome State Fault Refusal := fireDigit s 0x54 f none
/-- DDIV (R295): the divisor is the word in R. -/
def execDdiv (f : FmtG) (s : State) : Host.Outcome State Fault Refusal := fireDigit s 0x55 f (some .r)
/-- DSQRT (R295). -/
def execDsqrt (f : FmtG) (s : State) : Host.Outcome State Fault Refusal := fireDigit s 0x56 f none
/-- DFMA (R295). -/
def execDfma (f : FmtG) (s : State) : Host.Outcome State Fault Refusal := fireDigit s 0x57 f none
/-- DRELU (R297). -/
def execDrelu (f : FmtG) (s : State) : Host.Outcome State Fault Refusal := fireDigit s 0x58 f none
/-- DMAX (R297). -/
def execDmax (f : FmtG) (s : State) : Host.Outcome State Fault Refusal := fireDigit s 0x59 f none
/-- DMIN (R297). -/
def execDmin (f : FmtG) (s : State) : Host.Outcome State Fault Refusal := fireDigit s 0x5A f none
/-- DTHR (R297): the threshold is the word in R. -/
def execDthr (f : FmtG) (s : State) : Host.Outcome State Fault Refusal := fireDigit s 0x5B f (some .r)
/-- DEXP2 (R196). -/
def execDexp2 (f : FmtG) (s : State) : Host.Outcome State Fault Refusal := fireDigit s 0x5C f none
/-- DACC (R298). -/
def execDacc (f : FmtG) (s : State) : Host.Outcome State Fault Refusal := fireDigit s 0x5D f none
/-- DRED (R299). -/
def execDred (f : FmtG) (s : State) : Host.Outcome State Fault Refusal := fireDigit s 0x5E f none
/-- DSCL (R296). -/
def execDscl (f : FmtG) (s : State) : Host.Outcome State Fault Refusal := fireDigit s 0x5F f none

/-- FEXP2 (R284): in the word path; no operator, no kill. -/
def execFexp2 (f : FmtG) (s : State) : Host.Outcome State Fault Refusal :=
  let rm := s.resolveRm s.here.agent f.rm
  fireTok s 0x46 (.g f) (if f.ty = .f32 then 24 else 16) fun s a i sl =>
    let g (gen b : Nat) : Res := fexp2Elem f.ty rm f.sat gen b
    if f.sh == .vector then
      let r := mapRes g ((sl.tok .l).lanes f.ty) (s.genOf a i)
      (lanesTok f.ty r.1, r.2.1)
    else
      let r := g (s.genOf a i) ((sl.tok .l).elem f.ty)
      (elemTok f.ty r.bits, r.flags)

end Sys2Proof.Machine
end

