-- ==== Sys2Proof/Machine/Lanewise.lean ====
section
/-! DEFINITION. Instructions that compute each element on its own: one element with SH 00, 32 lanes with SH 01, the
flags of all lanes ORed (R252, R275). The function takes the generator state and the elements' encodings. -/

namespace Sys2Proof.Machine

/-- The type an instruction delivers, its type when `t` is none. -/
def outTy (f : Fmt) (t : Option Ty) : Ty := t.getD f.ty

/-- One operand: L. `it` is the type L is read at, `ot` the type delivered, both the word's TY when none. -/
def lift1 (s : State) (op : Nat) (f : Fmt) (lat : Nat) (it ot : Option Ty) (g : Nat → Nat → Res) :
    Host.Outcome State Fault Refusal :=
  fireTok s op f lat fun s a i sl =>
    let x := sl.tok .l
    if f.sh == .vector then
      let r := mapRes g (x.lanes (outTy f it)) (s.genOf a i)
      (lanesTok (outTy f ot) r.1, r.2.1)
    else
      let r := g (s.genOf a i) (x.elem (outTy f it))
      (elemTok (outTy f ot) r.bits, r.flags)

/-- Two operands: L and R. -/
def lift2 (s : State) (op : Nat) (f : Fmt) (lat : Nat) (ot : Option Ty) (g : Nat → Nat → Nat → Res) :
    Host.Outcome State Fault Refusal :=
  fireTok s op f lat fun s a i sl =>
    let x := sl.tok .l
    let y := sl.tok .r
    if f.sh == .vector then
      let r := zipRes g (x.lanes f.ty) (y.lanes f.ty) (s.genOf a i)
      (lanesTok (outTy f ot) r.1, r.2.1)
    else
      let r := g (s.genOf a i) (x.elem f.ty) (y.elem f.ty)
      (elemTok (outTy f ot) r.bits, r.flags)

/-- Three operands: L, R and X. -/
def lift3 (s : State) (op : Nat) (f : Fmt) (lat : Nat) (g : Nat → Nat → Nat → Nat → Res) :
    Host.Outcome State Fault Refusal :=
  fireTok s op f lat fun s a i sl =>
    let x := sl.tok .l
    let y := sl.tok .r
    let z := sl.tok .x
    if f.sh == .vector then
      let r := zip3Res g (x.lanes f.ty) (y.lanes f.ty) (z.lanes f.ty) (s.genOf a i)
      (lanesTok f.ty r.1, r.2.1)
    else
      let r := g (s.genOf a i) (x.elem f.ty) (y.elem f.ty) (z.elem f.ty)
      (elemTok f.ty r.bits, r.flags)

/-- A result that takes no draw and raises no flag. -/
def pureRes (g bits : Nat) : Res := ⟨bits, 0, g⟩

end Sys2Proof.Machine
end

