-- ==== Sys2Proof/Machine/Float.lean ====
section
/-! DEFINITION. The word float instructions 30-40 (R274-R283); FEXP2 stands beside the digit operators. -/

namespace Sys2Proof.Machine

/-- Round an exact result and add the flags that forming it raised (R275, R277). -/
def floatRes (t : Ty) (rm : Rm) (sat : Bool) (g : Nat) (x : NumF) : Res :=
  let r := roundNum t rm sat g x.num
  ⟨r.bits, r.flags ||| x.flags, r.gen⟩

/-- lv · rv + xv, a NaN operand giving NaN with no flag (R277). -/
def fmaNum (rm : Rm) (a b c : Num) : NumF :=
  if a.isNan || b.isNan || c.isNan then ⟨.nan, 0⟩
  else
    let p := mulNum a b
    let q := addNum rm p.num c
    ⟨q.num, p.flags ||| q.flags⟩

/-- FCMP (R279). -/
def fcmpHolds (cond : Nat) (a b : Num) : Bool :=
  let un := a.isNan || b.isNan
  let c := cmpNum a b
  match cond with
  | 0 => !un && c == 0 | 1 => un || c != 0 | 2 => !un && c < 0 | 3 => !un && c ≤ 0 | 4 => !un && 0 < c | 5 => !un && 0 ≤ c
  | _ => un

/-- The class bit of FCLASS (R280). -/
def fclassBit (t : Ty) (b : Nat) : Nat :=
  match Num.decode t b with
  | .nan => 8
  | .inf n => if n then 0 else 7
  | .fin n m e _ =>
    if m = 0 then (if n then 3 else 4)
    else if t ≠ .e8m0 && decide ((Nat.log2 m : Int) + e < t.emin) then (if n then 2 else 5)
    else if n then 1 else 6

/-- FRINT of one element (R282). -/
def frintElem (t : Ty) (rm : Rm) (gen b : Nat) : Res :=
  let g := if rm = .sto then genStep gen else gen
  match Num.decode t b with
  | .nan => ⟨t.nanEnc, 0, g⟩
  | .inf _ => ⟨b, 0, g⟩
  | .fin neg m e _ =>
    let sp := splitAt2 m e false 0
    if m = 0 || !sp.inexact then ⟨b, 0, g⟩
    else ⟨(roundNum t .rtz false 1 (.fin neg (sp.n + bit (roundUp rm neg sp g)) 0 false)).bits, fNX, g⟩

/-- Latency of FDIV and FSQRT (R276). -/
def fdivLatency (t : Ty) : Nat := if t = .f32 then 14 else 8

/-- FADD (R276). -/
def execFadd (f : FmtG) (s : State) : Host.Outcome State Fault Refusal :=
  let rm := s.resolveRm s.here.agent f.rm
  lift2 s 0x30 (.g f) 3 none fun g a b =>
    floatRes f.ty rm f.sat g (addNum rm (Num.decode f.ty a) (Num.decode f.ty b))

/-- FSUB (R276). -/
def execFsub (f : FmtG) (s : State) : Host.Outcome State Fault Refusal :=
  let rm := s.resolveRm s.here.agent f.rm
  lift2 s 0x31 (.g f) 3 none fun g a b =>
    floatRes f.ty rm f.sat g (addNum rm (Num.decode f.ty a) (Num.decode f.ty b).negate)

/-- FMUL (R276). -/
def execFmul (f : FmtG) (s : State) : Host.Outcome State Fault Refusal :=
  let rm := s.resolveRm s.here.agent f.rm
  lift2 s 0x32 (.g f) 3 none fun g a b =>
    floatRes f.ty rm f.sat g (mulNum (Num.decode f.ty a) (Num.decode f.ty b))

/-- FFMA (R276, R277). -/
def execFfma (f : FmtG) (s : State) : Host.Outcome State Fault Refusal :=
  let rm := s.resolveRm s.here.agent f.rm
  lift3 s 0x33 (.g f) 4 fun g a b x =>
    floatRes f.ty rm f.sat g (fmaNum rm (Num.decode f.ty a) (Num.decode f.ty b) (Num.decode f.ty x))

/-- FDIV (R276, R277). -/
def execFdiv (f : FmtG) (s : State) : Host.Outcome State Fault Refusal :=
  let rm := s.resolveRm s.here.agent f.rm
  lift2 s 0x34 (.g f) (fdivLatency f.ty) none fun g a b =>
    floatRes f.ty rm f.sat g (divNum (Num.decode f.ty a) (Num.decode f.ty b))

/-- FSQRT (R276, R277). -/
def execFsqrt (f : FmtG) (s : State) : Host.Outcome State Fault Refusal :=
  let rm := s.resolveRm s.here.agent f.rm
  lift1 s 0x35 (.g f) (fdivLatency f.ty) none none fun g a => floatRes f.ty rm f.sat g (sqrtNum (Num.decode f.ty a))

/-- FMIN (R278). -/
def execFmin (f : FmtG) (s : State) : Host.Outcome State Fault Refusal :=
  lift2 s 0x36 (.g f) 1 none fun g a b => pureRes g (fminmax false f.ty a b)

/-- FMAX (R278). -/
def execFmax (f : FmtG) (s : State) : Host.Outcome State Fault Refusal :=
  lift2 s 0x37 (.g f) 1 none fun g a b => pureRes g (fminmax true f.ty a b)

/-- FABS (R278). -/
def execFabs (f : FmtG) (s : State) : Host.Outcome State Fault Refusal :=
  lift1 s 0x38 (.g f) 1 none none fun g a =>
    pureRes g (if (Num.decode f.ty a).isNan then f.ty.nanEnc else a % 2 ^ (f.ty.width - 1))

/-- FNEG (R278). -/
def execFneg (f : FmtG) (s : State) : Host.Outcome State Fault Refusal :=
  lift1 s 0x39 (.g f) 1 none none fun g a =>
    pureRes g (if (Num.decode f.ty a).isNan then f.ty.nanEnc else a ^^^ 2 ^ (f.ty.width - 1))

/-- FCMP (R279). -/
def execFcmp (f : FmtG) (s : State) : Host.Outcome State Fault Refusal :=
  lift2 s 0x3A (.g f) 1 (some .pred) fun g a b =>
    pureRes g (bit (fcmpHolds (f.aux.toNat % 8) (Num.decode f.ty a) (Num.decode f.ty b)))

/-- FCLASS (R280). -/
def execFclass (f : FmtG) (s : State) : Host.Outcome State Fault Refusal :=
  lift1 s 0x3B (.g f) 1 none (some .n16) fun g a => pureRes g (2 ^ fclassBit f.ty a)

/-- CVT (R281). -/
def execCvt (f : FmtG) (s : State) : Host.Outcome State Fault Refusal :=
  let rm := s.resolveRm s.here.agent f.rm
  let st := Ty.ofCode f.aux.toNat
  lift1 s 0x3C (.g f) 2 (some st) none fun g a => convertElem st f.ty rm f.sat g a

/-- FRINT (R282). -/
def execFrint (f : FmtG) (s : State) : Host.Outcome State Fault Refusal :=
  let rm := s.resolveRm s.here.agent f.rm
  lift1 s 0x3D (.g f) 2 none none fun g a => frintElem f.ty rm g a

/-- The integers n of FSCALE, one per lane (R282). -/
def scaleAmounts (ty : Ty) (vec : Bool) (r : Token) : List Int :=
  if vec && r.kind != .word then (r.lanes ty).map fun n => sextN n ty.width else List.replicate 32 (sextN r.w64 64)

/-- FSCALE (R282). -/
def execFscale (f : FmtG) (s : State) : Host.Outcome State Fault Refusal :=
  let rm := s.resolveRm s.here.agent f.rm
  fireTok s 0x3E (.g f) 2 fun s a i sl =>
    let x := sl.tok .l
    let ns := scaleAmounts f.ty (f.sh == .vector) (sl.tok .r)
    let one (g a : Nat) (n : Int) : Res := roundNum f.ty rm f.sat g (scaleNum (Num.decode f.ty a) n)
    if f.sh == .vector then
      let r := zipRes (fun g a k => one g a ((ns[k]?).getD 0)) (x.lanes f.ty) (List.range 32) (s.genOf a i)
      (lanesTok f.ty r.1, r.2.1)
    else
      let r := one (s.genOf a i) (x.elem f.ty) (ns.headD 0)
      (elemTok f.ty r.bits, r.flags)

/-- FADDI (R283): rounded under DYN with SAT 0. -/
def execFaddi (f : FmtI) (s : State) : Host.Outcome State Fault Refusal :=
  let rm := s.resolveRm s.here.agent .dyn
  let m := (immediate f.ty f.imm.toNat f.ipos).getD 0
  lift1 s 0x3F (.i f) 3 none none fun g a =>
    floatRes f.ty rm false g (addNum rm (Num.decode f.ty a) (Num.decode f.ty m))

/-- FMULI (R283): rounded under DYN with SAT 0. -/
def execFmuli (f : FmtI) (s : State) : Host.Outcome State Fault Refusal :=
  let rm := s.resolveRm s.here.agent .dyn
  let m := (immediate f.ty f.imm.toNat f.ipos).getD 0
  lift1 s 0x40 (.i f) 3 none none fun g a =>
    floatRes f.ty rm false g (mulNum (Num.decode f.ty a) (Num.decode f.ty m))

end Sys2Proof.Machine
end

