-- ==== Sys2Proof/Machine/BlockCheck.lean ====
section
/-! DEFINITION. The block checker (R209-R215, R225-R231) over an image: what the decoder cannot judge on one word
alone, in the order of R229. -/

namespace Sys2Proof.Machine

/-- A rejection: reason, byte offset of the offending word, the word (R231). -/
structure Rej where
  reason : Reason
  offset : Nat
  word : Word
deriving DecidableEq, Repr

/-- What the checker is told of the fill: a rank-7 chart, a helm-core fill, whether the store is a helm core's own, the ring slot sizes of the cell (R61),
the ports that no row or column ends at (R454). -/
structure CheckEnv where
  priv : Bool
  helm : Bool
  core : Bool
  rings : List Nat
  badPorts : List Nat
deriving DecidableEq, Repr

/-- The block starts of an image: blocks laid end to end (R209). -/
def blockStartsGo (store : List Word) : Nat → Nat → List Nat
  | 0, _ => []
  | k + 1, b =>
    if store.length ≤ 2 * b then []
    else b :: blockStartsGo store k (b + cdiv (16 + 8 * hdrSize (blockHeader store b)) 16)
/-- The block starts of an image, as block addresses (R209, R262). -/
def blockStarts (store : List Word) : List Nat := blockStartsGo store store.length 0

/-- Access of the CSRs (R226): 0 U, 1 U and RO, 2 P, 3 H; none where the number is not in the table. -/
def csrAccess (n : Nat) : Option Nat :=
  if n = 0x000 || n = 0x001 || n = 0x003 || n = 0x004 then some 0
  else if n = 0x002 || n = 0x006 || n = 0x007 || n = 0x800 || n = 0x801 || n = 0xC00 || n = 0x1000 then some 1
  else if n = 0x005 || (0x400 ≤ n && n ≤ 0x404) || n = 0x1001 then some 2
  else if 0x1400 ≤ n && n ≤ 0x1403 then some 3 else none

/-- The register numbers a target names (READ numbering). -/
def Target.reg? : Target → Option Nat
  | .sreg n => some n.val | .vreg n => some (32 + n.val) | _ => Option.none
/-- Is a target a channel? -/
def Target.isChan : Target → Bool | .chan .. => true | _ => false
/-- Is a target a slot? -/
def Target.isSlot : Target → Bool | .slot .. => true | _ => false
def Target.isReg : Target → Bool | .sreg _ | .vreg _ => true | _ => false

/-- The size of a data transfer of an instruction in bytes (R302). -/
def dataBytes (ty : Ty) (vec : Bool) : Nat := if vec then 4 * ty.width else ty.width / 8

/-- What the opcode of a word alone says of its fields, though another field may be rejected: opcode, fields, the
targets that are no reserved codes, whether PR is not 00 (R213-R221). -/
structure SlotRead where
  op : Nat
  fmt : Fmt
  targets : List Target
  pred : Bool
deriving DecidableEq, Repr

/-- A word read by its opcode; none where no format belongs to the opcode. -/
def readSlot (w : Word) : Option SlotRead :=
  let op := fieldN w.toNat 63 56
  (formatOf op).map fun k =>
    let codes := match k with
      | .g | .t | .s => [fieldN w.toNat 21 11, fieldN w.toNat 10 0]
      | _ => [fieldN w.toNat 10 0]
    { op := op, fmt := (parseAs k w.toNat).fmt, targets := codes.filterMap Target.ofCode, pred := fieldN w.toNat 55 54 != 0 }

/-- A block under check: its address, SIZE, EXITS, WAVES, WMASK, its decoded slots, its slots by opcode, and
which of them have a PR other than 00. -/
structure CheckBlk where
  addr : Nat
  size : Nat
  exits : Nat
  waves : Nat
  wmask : Nat
  dec : List (Except Reason (Nat × Fmt))
  reads : List (Option SlotRead)
  preds : List Bool

/-- A slot of a word as opcode and fields. -/
def decodeSlot (w : Word) : Except Reason (Nat × Fmt) :=
  match decodeWord w.toNat with
  | .ok i => (match opFields i with | some p => .ok p | none => .error .opfree)
  | .error r => .error r

/-- The opcodes and fields of the slots whose opcode has a format. -/
def CheckBlk.oks (b : CheckBlk) : List (Nat × Fmt) := b.reads.filterMap fun e => e.map fun p => (p.op, p.fmt)

/-- Does slot `n` of the block take field `x` (R215)? Its opcode and PR say so, whatever else stands in its word; an opcode without a
description takes no L, R or X. -/
def CheckBlk.takes (b : CheckBlk) (n : Nat) (x : Fld) : Bool :=
  match b.reads[n]? with
  | some (some p) => takesAny p.op p.fmt x || (x == .p && p.pred)
  | some none => x == .p && (b.preds[n]?).getD false
  | none => true

/-- The WV numbers of the stores and CLRs of a block (R308, R315, R51). -/
def CheckBlk.stores (b : CheckBlk) : List Nat :=
  b.oks.filterMap fun p => if isStore p.1 then p.2.wave else none

/-- Does some slot target the L field of slot `i`? -/
def CheckBlk.fed (b : CheckBlk) (i : Nat) : Bool :=
  b.reads.any fun e => e.any fun p => p.targets.any fun t => match t with | .slot k .l => k.val == i | _ => false

/-- The shape that R240's register check uses: R290 for DSINK, R341 for MMOUT. -/
def regVector (op : Nat) (f : Fmt) : Bool :=
  if op = 0x63 then true else if op = 0x51 then f.aux % 2 = 1 else f.sh == .vector
/-- Is that shape scalar? A word of SH 10 is neither. -/
def regScalar (op : Nat) (f : Fmt) : Bool :=
  if op = 0x63 then false else if op = 0x51 then f.aux % 2 = 0 else f.sh == .scalar

/-- OPVAL on one target (R240, R290, R315, R334, R345). -/
def opvalTarget (b : CheckBlk) (op : Nat) (f : Fmt) (t : Target) : Bool :=
  (match t.reg? with
   | some n => (digitProducer op f) || (if 32 ≤ n then regScalar op f else regVector op f) || keepsPlace op
   | none => false) ||
  (match t with
   | .slot n x =>
     atCommit op f ||
     (match b.reads[n.val]? with
      | some (some d) =>
        let dig := digitField d.op d.fmt x
        if digitProducer op f then !(dig || (d.op = 0x01 && d.fmt.sh == .digit && x == .l))
        else dig && !(d.op = 0x62 && x == .l && (op = 0x01 || op = 0x05 || op = 0x06 || op = 0x08))
      | _ => false) ||
     (op = 0x90 && (match f with
       | .m g => (g.ord == .rel || g.ord == .ar || g.ord == .sc) && b.stores.any (· < g.wv.toNat)
       | _ => false))
   | _ => false)

/-- OPVAL on a word in its block (R51, R177, R199, R246, R260, R272, R302, R308, R319, R346, R363, R454). -/
def opvalWord (env : CheckEnv) (b : CheckBlk) (op : Nat) (f : Fmt) : Bool :=
  (env.core && ((0x50 ≤ op && op ≤ 0x64) || (0x72 ≤ op && op ≤ 0x79) || op = 0x06 || op = 0xA5 || op = 0xA6
    || f.targets.any Target.isChan))
  || (op = 0xDF && !env.helm)
  || (op = 0x04 && (decide (f.aux < 32) != (f.sh == .scalar)))
  || (op = 0x2F && f.sh == .scalar)
  || (op = 0x51 && f.ty == .pred)
  || (0x72 ≤ op && op ≤ 0x76 && f.sh == .vector)
  || (op = 0xDA && !b.stores.isEmpty)
  || (op = 0xA6 && !(match f.ta with | .chan _ x => x | _ => false))
  || (isExit op && op != 0xA7 && b.oks.any (fun p => p.1 = 0xA6))
  || (match f with
      | .m g =>
        (g.loc && (op = 0x84 || op = 0x85 || op = 0x86 || op = 0x92 || op = 0x93 || op = 0x94))
        || (g.ord == .sc && (op = 0x90 || op = 0x80 || op = 0x82 || op = 0x84 || op = 0x91 || op = 0x98)
            && b.stores.any (· < g.wv.toNat))
        || ((op = 0x95 || op = 0x96) && g.loc && !env.rings.contains (dataBytes g.ty (g.sh == .vector)))
      | .t g => (op = 0x60 || op = 0x70 || op = 0x71) && env.badPorts.contains g.pt.toNat
      | _ => false)
  || f.targets.any (opvalTarget b op f)

/-- The checks 0x0E to 0x16 on one decoded slot, in order (R230). `seen` are the EX numbers of earlier slots. A block that a helm fill
puts into a cell's context may name H registers: R226 refuses them in a chart only (DESIGN CHOICE, log entry 130). -/
def checkSlot (env : CheckEnv) (starts : List Nat) (b : CheckBlk) (seen : List Nat) (i op : Nat) (f : Fmt) : Option Reason :=
  if f.targets.any (fun t => match t with | .slot n _ => decide (b.size ≤ n.val) || n.val == i | _ => false) then some .targetslot
  else if f.targets.any (fun t => match t with
      | .slot n x => !b.takes n.val x
      | .chan _ true => takesX op f
      | _ => false) then some .field
  else if f.targets.any (fun t => match t.reg? with | some n => !b.wmask.testBit n | none => false) then some .regmask
  else if (match f with
      | .m g => g.wv == 31 || [g.pv, g.nx].any fun v => v != g.wv && v != 31 && decide (b.waves ≤ v.toNat)
      | _ => false) then some .wave
  else if (match f with
      | .c g => if isExit op then decide (b.exits ≤ g.ex.toNat) || seen.contains g.ex.toNat else g.ex != 0
      | _ => false) then some .exit
  else if (match f with
      | .c g =>
        (offUsedC op && !starts.any (fun x => decide ((x : Int) = (b.addr : Int) + sextN g.off.toNat 32)))
        || ((op = 0xA2 || op = 0xA3) && !starts.contains (b.addr + cdiv (16 + 8 * b.size) 16))
      | _ => false) then some .branch
  else
    let csr := match f with | .s g => if op = 0xD0 || op = 0xD1 then some g.sel.toNat else none | _ => none
    let u := match csr with | some n => (match csrAccess n with | some c => c ≤ 1 | none => false) | none => false
    if 0xD0 ≤ op && op ≤ 0xE0 && !(env.priv || env.helm) && !u then some .priv
    else if (match csr with
        | some n => (match csrAccess n with
          | none => true
          | some c => (c = 3 && !env.helm) || (op = 0xD1 && c = 1))
        | none => false) then some .csr
    else if opvalWord env b op f then some .opval
    else none

/-- The slots of a block from `i` on (R229 step 2). -/
def checkSlots (env : CheckEnv) (starts : List Nat) (store : List Word) (b : CheckBlk) : Nat → List Nat → List (Except Reason (Nat × Fmt)) → Option Rej
  | _, _, [] => none
  | i, seen, e :: r =>
    let w := slotWord store b.addr i
    let bad (x : Reason) : Option Rej := some { reason := x, offset := 16 * b.addr + 16 + 8 * i, word := w }
    let fence := w.toNat / 2 ^ 56 = 0x90 && w.toNat % 2 ^ 11 ≠ 0 && !b.fed i
    match e with
    | .error x => bad (if fence && x == .target then .unused else x)
    | .ok (op, f) =>
      if fence then bad .unused
      else
        match checkSlot env starts b seen i op f with
        | some x => bad x
        | none =>
          let seen := match f with | .c g => if isExit op then g.ex.toNat :: seen else seen | _ => seen
          checkSlots env starts store b (i + 1) seen r

/-- The registers that a block's targets name. -/
def CheckBlk.regs (b : CheckBlk) : Nat :=
  b.oks.foldl (fun m p => p.2.targets.foldl (fun m t => match t.reg? with | some n => m ||| 2 ^ n | none => m) m) 0

/-- The check of one block of an image of `bytes` bytes (R229). DESIGN CHOICE (log entry 116): where reserved bits are
set in both header words the high word is reported, where WMASK disagrees in both the low word is; R231 gives no order
of the fields within one reason. -/
def checkBlock (env : CheckEnv) (starts : List Nat) (store : List Word) (bytes addr : Nat) : Option Rej :=
  let slots := fun n => (List.range n).map fun i => slotWord store addr i
  let w0 := (store[2 * addr]?).getD 0
  let w1 := (store[2 * addr + 1]?).getD 0
  let h := blockHeader store addr
  let lo (x : Reason) : Option Rej := some { reason := x, offset := 16 * addr, word := w0 }
  let hi (x : Reason) : Option Rej := some { reason := x, offset := 16 * addr + 8, word := w1 }
  let size := hdrSize h
  if field w1 63 56 ≠ 0xB5 then hi .magic
  else if field w1 37 32 ≠ 0 then hi .hdrrsvd
  else if field w0 55 32 ≠ 0 || fieldN (field w0 31 0) 31 (hdrWaves h) ≠ 0 then lo .hdrrsvd
  else if bytes < 16 * addr + 16 * cdiv (16 + 8 * size) 16 then hi .hdrcount
  else
    let b : CheckBlk := { addr := addr, size := size, exits := fieldN h 112 110 + 1, waves := hdrWaves h
                          wmask := hdrWmask h, dec := (slots size).map decodeSlot, reads := (slots size).map readSlot
                          preds := (slots size).map fun w => fieldN w.toNat 55 54 != 0 }
    match checkSlots env starts store b 0 [] b.dec with
    | some r => some r
    | none =>
      let mem := b.oks.filterMap fun p => p.2.wave.map fun v => (v, memWrites p.1)
      let smask := mem.foldl (fun m e => if e.2 then m ||| 2 ^ e.1 else m) 0
      if (b.oks.filter fun p => isExit p.1).length ≠ b.exits then hi .hdrcount
      else if mem.length ≠ b.waves || (List.range b.waves).any (fun v => (mem.filter (·.1 == v)).length != 1) then hi .hdrcount
      else if field w0 31 0 ≠ smask then lo .hdrcount
      else if b.regs ≠ b.wmask then (if (b.regs ^^^ b.wmask) % 2 ^ 8 ≠ 0 then lo .hdrcount else hi .hdrcount)
      else if size % 2 = 1 && slotWord store addr size ≠ 0 then
        some { reason := .pad, offset := 16 * addr + 16 + 8 * size, word := slotWord store addr size }
      else none

/-- The check of an image of `bytes` bytes: the first failure in ascending address (R229). -/
def checkImage (env : CheckEnv) (store : List Word) (bytes : Nat) : Option Rej :=
  let starts := blockStarts store
  (starts.filterMap (checkBlock env starts store bytes)).head?

/-- The two words of a rejection report (R231). -/
def Rej.report (r : Rej) (die pcell cctx : Nat) : Word × Word :=
  (Machine.word (r.reason.code * 2 ^ 56 + die * 2 ^ 50 + pcell * 2 ^ 42 + cctx * 2 ^ 40 + r.offset), r.word)

end Sys2Proof.Machine
end

