-- ==== Sys2Proof/Machine/Issue.lean ====
section
/-! DEFINITION. The issue of instructions (R162, R382, R413-R417): which instruction a block engine issues, precise
stops and breakpoints, and the passing of a cycle. -/

namespace Sys2Proof.Machine

/-- An instruction that is ready: its agent, colour, age, slot, urgency and opcode. -/
structure Cand where
  agent : Agent
  color : Nat
  age : Nat
  slot : Nat
  urg : Bool
  op : Nat
  auto : Bool
deriving DecidableEq, Repr

/-- The unit an opcode is limited by in one cycle: 1 digit chain, 2 matrix, 3 stream, 0 none (R162). -/
def cycleUnit (op : Nat) : Nat :=
  if 0x50 ≤ op && op ≤ 0x5F then 1 else if 0x60 ≤ op && op ≤ 0x64 then 2 else if 0x72 ≤ op && op ≤ 0x79 then 3 else 0

/-- May an agent issue: active, its window running, its region neither halted nor frozen, its helm core ready (R162, R177, R413)? -/
def State.agentRuns (s : State) (a : Agent) : Bool :=
  (s.task a).st == .active &&
  (match a with | .task .. => s.mayRun (s.regionOf a) | .helm n => (s.helm n).ready)

/-- The ready instructions of an agent's firing block. -/
def State.candsOf (s : State) (a : Agent) : List Cand :=
  match s.win a with
  | none => []
  | some w =>
    if !s.agentRuns a || w.stopped then []
    else
      let urg := hdrUrg (blockHeader (s.blockStore a) w.baddr)
      (List.range w.slots.length).filterMap fun i =>
        match w.slots[i]?, s.fieldsAt a w.baddr i with
        | some sl, some (op, f) =>
          if sl.st ≠ .waiting then none
          else
            let c : Cand := { agent := a, color := (s.task a).color, age := w.seq, slot := i, urg := urg, op := op, auto := true }
            match s.verdict a op f (lFed s a w.baddr w.slots.length i) sl with
            | .null => some c
            | .pass _ => some c
            | .go => if s.canGo a op f w i then some { c with auto := false } else none
            | _ => none
        | _, _ => none

/-- The agents that share a block engine: the tasks of a cell, or a helm core alone. -/
def State.engineAgents (s : State) (a : Agent) : List Agent :=
  match a with
  | .task d p _ => (s.cell (cellKey d p)).tasks.map fun e => .task d p e.1
  | .helm n => [.helm n]

/-- The older of two candidates: age, then slot (R162). -/
def Cand.older (a b : Cand) : Cand := if b.age < a.age || (b.age = a.age && b.slot < a.slot) then b else a

/-- The oldest candidate. -/
def oldest : List Cand → Option Cand
  | [] => none
  | c :: r => some (r.foldl Cand.older c)

/-- The first colour after `c`, ascending and wrapping, among some (R162). -/
def nextColour (c : Nat) (l : List Nat) : Nat :=
  match (l.filter (c < ·)).foldl (fun m x => match m with | some y => some (min x y) | none => some x) (none : Option Nat) with
  | some x => x
  | none => l.foldl min 64

/-- Issue state of a block engine: turn, run, issues, issues in this cycle, units used in it. -/
structure EngSt where
  turn : Nat
  run : Nat
  issues : Nat
  inCycle : Nat
  units : List Nat
deriving DecidableEq, Repr

/-- The choice of one issue slot (R162): the candidate and the engine's state after it. -/
def chooseIssue (e : EngSt) (cs : List Cand) : Option (Cand × EngSt) :=
  let cs := cs.filter fun c => cycleUnit c.op = 0 || !e.units.contains (cycleUnit c.op)
  let cols := (cs.map (·.color)).eraseDups
  if cs.isEmpty || 2 ≤ e.inCycle then none
  else
    let move := !cols.contains e.turn || (64 ≤ e.run && cols.any (· != e.turn))
    let c := if move then nextColour e.turn cols else e.turn
    let run := if move then 0 else e.run
    let rdy := cs.filter fun x => x.color == c
    let non := rdy.filter fun x => !x.urg
    let urg := rdy.filter (·.urg)
    let pool := if e.issues % 8 = 7 && !non.isEmpty then non else if !urg.isEmpty then urg else rdy
    match oldest pool with
    | none => none
    | some x =>
      some (x, { turn := c, run := run + 1, issues := e.issues + 1, inCycle := e.inCycle + 1
                 units := if cycleUnit x.op = 0 then e.units else cycleUnit x.op :: e.units })

/-- The issue state of an agent's engine. -/
def State.engSt (s : State) (a : Agent) : EngSt :=
  match a with
  | .task d p _ =>
    let c := s.cell (cellKey d p)
    { turn := c.turn, run := c.run, issues := c.issues, inCycle := c.inCycle, units := c.unitsUsed }
  | .helm n => let h := s.helm n; { turn := 0, run := h.run, issues := h.issues, inCycle := h.inCycle, units := h.unitsUsed }

/-- The state with the issue state of an agent's engine replaced. -/
def State.setEngSt (s : State) (a : Agent) (e : EngSt) : State :=
  match a with
  | .task d p _ => s.modCell (cellKey d p) fun c =>
      { c with turn := e.turn, run := e.run, issues := e.issues, inCycle := e.inCycle, unitsUsed := e.units }
  | .helm n => s.modHelm n fun h => { h with run := e.run, issues := e.issues, inCycle := e.inCycle, unitsUsed := e.units }

/-- May an engine issue an agent's instruction in this cycle under the throttle level of its region (R382)? -/
def State.unthrottled (s : State) (a : Agent) : Bool :=
  match s.regions.find (s.regionOf a) with
  | some r => s.cycle % 2 ^ r.level == 0
  | none => true

/-! ## Precise stops and breakpoints (R415, R417) -/

/-- Set the debug halt of every rectangle of a region's gang, with the cause (R413, R414). -/
def State.haltGang (s : State) (k : Nat) (h : HitRec) : State :=
  match s.regions.find k with
  | none => s
  | some r =>
    (if r.gang.isEmpty then [k] else r.gang).foldl (fun s g =>
      (s.modRegion g fun r => { r with dh := true, hit := h }).traceEvent g 3 0) (s.logPointers (s.logOf k))

/-- The position of an agent's cell in its region's rectangle. -/
def State.xyOf (s : State) (a : Agent) : Nat × Nat :=
  match a, s.regions.find (s.regionOf a) with
  | .task d p _, some r => (p % 16 - r.col0, ((s.die d).logRow (p / 16)).getD 0 - r.row0)
  | _, _ => (0, 0)

/-- The breakpoint that the next firing of a slot matches, the lowest one (R417). -/
def State.breakAt (s : State) (a : Agent) (slot : Nat) : Option Nat :=
  match s.regions.find (s.regionOf a) with
  | none => none
  | some r =>
    let nd := s.nodeInfo a slot
    let xy := s.xyOf a
    (List.range 16).find? fun n =>
      let w0 := r.bps.get (4 * n) 0
      let w1 := r.bps.get (4 * n + 1) 0
      let w2 := r.bps.get (4 * n + 2) 0
      let want := [field w1 31 0, field w1 63 32, field w2 31 0, field w2 63 32]
      let m := field w0 62 60
      flag w0 63 && nd.1 == field w0 31 0 && nd.1 != 0xFFFFFFFF && (flag w0 59 || (field w0 51 48 == xy.1 && field w0 55 52 == xy.2))
      && Nat.ble m nd.2.length && (nd.2.take m == want.take m)

/-- Does a context run forward to the target of a BSTEP, where breakpoints and watchpoints do not match (R423)? -/
def State.stepping (s : State) (a : Agent) : Bool :=
  match s.log (field (s.cfgOf a).ulog 63 56) with | some l => l.replay && l.target.isSome | none => false

/-- The number of an agent's next firing (R415). -/
def State.firingNo (s : State) (a : Agent) : Nat :=
  (s.task a).fired + (match s.win a with | some w => w.count | none => 0)

/-- Is the firing of a candidate a null one? -/
def State.nullFiring (s : State) (c : Cand) : Bool :=
  c.auto && (match s.win c.agent with
    | some w => (match w.slots[c.slot]?, s.fieldsAt c.agent w.baddr c.slot with
      | some sl, some (op, fm) => s.verdict c.agent op fm false sl == .null
      | _, _ => false)
    | none => false)

/-- The breakpoint that stops a candidate: none for a null, for the firing that the last stop was before, and on the way
to the target of a BSTEP (R417, R423). -/
def State.breakOn (s : State) (c : Cand) : Option Nat :=
  if s.nullFiring c || (s.task c.agent).skip = some (s.firingNo c.agent) || s.stepping c.agent then none
  else s.breakAt c.agent c.slot

/-- The next issue of a block engine: a null or pass-through at once (R158, R239), else the choice of R162. -/
def State.pickIssue (s : State) (a : Agent) : Option (Cand × EngSt) :=
  let all := (s.engineAgents a).flatMap s.candsOf
  match oldest (all.filter (·.auto)) with
  | some c => some (c, s.engSt a)
  | none => chooseIssue (s.engSt a) (all.filter fun c => s.unthrottled c.agent)

/-- A task's number in its cell. -/
def Agent.taskNo : Agent → Nat | .task _ _ t => t | .helm _ => 0

/-- The firings of a region that match in the cycle in which one does: those of the engines that have issued nothing in
it (R417). -/
def State.breakHits (s : State) (k : Nat) : List (Cand × Nat) :=
  ((match s.regions.find k with | some r => if r.gang.isEmpty then [k] else r.gang | none => []).flatMap fun g =>
    match s.regions.find g with
    | none => []
    | some r => r.cells.filterMap fun (q : Nat × Nat) =>
        let a : Agent := .task q.1 q.2 0
        if (s.engSt a).inCycle ≠ 0 then none
        else
          match s.pickIssue a with
          | some (c, _) => if s.regionOf c.agent = g then (s.breakOn c).map fun n => (c, n) else none
          | none => none)

/-- The rank of a stop among those of one cycle: lowest position, then task, then slot (R417). -/
def State.stopRank (s : State) (c : Cand) : Nat :=
  let xy := s.xyOf c.agent
  ((xy.2 * 16 + xy.1) * 8 + c.agent.taskNo) * 128 + c.slot

/-- The debug halt of a precise stop, with its cause. -/
def State.stopAt (s : State) (c : Cand) (kind num : Nat) : State :=
  let xy := s.xyOf c.agent
  let k := s.regionOf c.agent
  s.haltGang k { kind := kind, num := num, x := xy.1, y := xy.2, task := c.agent.taskNo, fnum := s.firingNo c.agent, rk := k }

/-- A task that stands at a precise stop before its firing `f` is HALTED, with no fault (R156). -/
def TaskCtx.halt (t : TaskCtx) (f : Nat) : TaskCtx := { t with st := .halted, stopAt := none, skip := some f }

/-- FWD: a task HALTED by a precise stop is ACTIVE again; one HALTED on a fault waits for RESUME (R156, R413). -/
def TaskCtx.unhalt (t : TaskCtx) : TaskCtx := if t.st == .halted && t.fault.isNone then { t with st := .active } else t

/-- A precise stop before an agent's next firing (R415, R417): none where it fires. -/
def State.preciseStop (s : State) (c : Cand) : Option State :=
  let f := s.firingNo c.agent
  if (s.task c.agent).stopAt = some f then
    let s := (s.stopAt c 3 0).modTask c.agent fun t => t.halt f
    some (s.modLog (field (s.cfgOf c.agent).ulog 63 56) fun l => { l with target := none })
  else
    match s.breakOn c with
    | none => none
    | some n =>
      let hits := (c, n) :: s.breakHits (s.regionOf c.agent)
      let best := hits.foldl (fun (b : Cand × Nat) h => if s.stopRank h.1 < s.stopRank b.1 then h else b) (c, n)
      let s := s.stopAt best.1 2 best.2
      some (hits.foldl (fun s h => s.modTask h.1.agent fun t => t.halt (s.firingNo h.1.agent)) s)

/-- What an issue step finds. -/
inductive Prep where
  | idle (s : State)
  | bad
  | run (s : State) (i : Instr)

/-- One issue of an agent's block engine. -/
def State.prepare (s : State) (a : Agent) : Prep :=
  match s.pickIssue a with
  | none => .idle s
  | some (c, e) =>
    match s.preciseStop c with
    | some s => .idle s
    | none =>
      let s := (s.setEngSt a e).modTask c.agent fun t => { t with skip := none }
      match s.win c.agent with
      | none => .idle s
      | some w =>
        match s.instrAt c.agent w.baddr c.slot with
        | .ok i => .run { s with here := { agent := c.agent, slot := c.slot } } i
        | .error _ => .bad

/-- A cycle passes: issue slots are free again, a throttled region's THROT counter rises, a budget written in the cycle
takes effect (R162, R374, R384). -/
def State.tick (s : State) : State :=
  { s with
    cycle := s.cycle + 1
    budget := s.budgetDue.getD s.budget
    budgetDue := none
    cells := s.cells.map fun e => (e.1, { e.2 with inCycle := 0, unitsUsed := [] })
    helms := s.helms.map fun e => (e.1, { e.2 with inCycle := 0, unitsUsed := [] })
    regions := s.regions.map fun e =>
      if e.2.level = 0 || e.2.closedAt.isSome || !(e.2.st == .active || e.2.st == .gating) then e else (e.1, { e.2 with cur := listModify e.2.cur 7 (· + 1) }) }

end Sys2Proof.Machine
end

