-- ==== Sys2Proof/Machine/Shapes.lean ====
section
/-! DEFINITION. Shape records and for whom a helm core uses them (R220, R226, R227, R330-R332, R457). -/

namespace Sys2Proof.Machine

/-! ## For whom a helm core acts (R226, R227, R457) -/

/-- Cell key, task and configuration context that HELM.CSEL selects (R227). -/
def selectedOf (csel : Word) : Nat × Nat × Nat := (cellKey (field csel 21 16) (field csel 15 8), field csel 2 0, field csel 5 4)

/-- Cell key, task and configuration context an agent's stream instructions act for (R177, R457). -/
def State.actsFor (s : State) (a : Agent) : Nat × Nat × Nat :=
  match a with
  | .task d p t => (cellKey d p, t, ((s.cell (cellKey d p)).task t).cctx)
  | .helm n => selectedOf (s.helm n).csel

/-! ## Shape records (R330) -/

/-- Word `i` of a record. -/
def pw (p : List Word) (i : Nat) : Word := (p[i]?).getD 0
/-- Fields of a record (R330). -/
def pBase (p : List Word) : Nat := (pw p 0).toNat
def pPk (p : List Word) : Nat := field (pw p 1) 63 62
def pAs (p : List Word) : Bool := flag (pw p 1) 61
def pVec (p : List Word) : Bool := flag (pw p 1) 60
def pMm (p : List Word) : Bool := flag (pw p 1) 59
def pRank (p : List Word) : Nat := field (pw p 1) 58 57
def pN2 (p : List Word) : Nat := field (pw p 1) 47 32
def pN1 (p : List Word) : Nat := field (pw p 1) 31 16
def pN0 (p : List Word) : Nat := field (pw p 1) 15 0
def pSt1 (p : List Word) : Int := sextN (field (pw p 2) 63 32) 32
def pSt0 (p : List Word) : Int := sextN (field (pw p 2) 31 0) 32
def pSt2 (p : List Word) : Int := sextN (field (pw p 3) 63 32) 32
def pSoff (p : List Word) : Int := sextN (field (pw p 3) 31 0) 32

/-- Is a record malformed (R330)? -/
def badRecord (p : List Word) : Bool :=
  let w1 := pw p 1
  if 2 ≤ pPk p then true
  else if pPk p = 1 then fieldN w1.toNat 60 0 != 0 || pw p 2 != 0 || field (pw p 3) 63 32 != 0
  else
    field w1 56 48 != 0 || pRank p == 0 || (pMm p && !pVec p)
    || (pRank p < 3 && (pN2 p != 0 || field (pw p 3) 63 32 != 0))
    || (pRank p < 2 && (pN1 p != 0 || field (pw p 2) 63 32 != 0))
    || (pVec p && (pN0 p + 1) % 32 != 0)

/-- SCAUSE of R332. -/
def scKdim : Nat := 1
def scBadrec : Nat := 2
def scNorec : Nat := 3
def scTsize : Nat := 4

/-- The index of a record: (SR + CTX.SHAPEB.BASE) mod 256 (R220). -/
def State.recordIndex (s : State) (a : Agent) (sr : Nat) : Nat :=
  let q := s.actsFor a
  (sr + ((s.cell q.1).task q.2.1).shapeb) % 256

/-- The record an instruction names as it stands now, or NOREC where the chart does not own its index (R220, R332). -/
def State.recordOf (s : State) (a : Agent) (sr : Nat) : Except Nat (List Word) :=
  let q := s.actsFor a
  let c := s.cell q.1
  let i := s.recordIndex a sr
  if (c.cctx q.2.2).shapes.contains i then .ok (c.shapes.get i [0, 0, 0, 0]) else .error scNorec

/-- The record of an instruction that uses it as a pattern of a kind: 0 AFFINE, 1 FIBRE, 2 either (R330, R332). -/
def State.patternOf (s : State) (a : Agent) (sr kind : Nat) : Except Nat (List Word) :=
  match s.recordOf a sr with
  | .error c => .error c
  | .ok p => if badRecord p || (kind != 2 && pPk p != kind) then .error scBadrec else .ok p

end Sys2Proof.Machine
end

