-- ==== Sys2Proof/Machine/Access.lean ====
section
/-! DEFINITION. Memory accesses in flight (R44, R66-R78, R102-R111, R138, R302-R319, R418): their parts, when a part
issues, when it may perform, and what performing does. Every access performs at one point of the model's own order;
the allowance of R118 for racing reads goes no further than that (log entry 12). -/

namespace Sys2Proof.Machine

/-! ## What an opcode asks of memory (R40, R303, R328) -/

/-- The access code of an opcode (R40). -/
def accCode (op : Nat) : Nat :=
  if op = 0x80 || op = 0x82 || op = 0x84 || op = 0x91 || op = 0xB3 || op = 0xB5 || op = 0x65 || op = 0x66 then accRead
  else if isStore op || op = 0x67 then accWrite else accRmw

/-- The instructions on the tile directory (R343). -/
def isDir (op : Nat) : Bool := 0x65 ≤ op && op ≤ 0x67

/-- What an opcode's access does (R303, R328). -/
def kindOfOp (op : Nat) : AKind :=
  if op = 0x81 || op = 0x83 || op = 0x85 then .write
  else if op = 0x86 then .presence
  else if (0x87 ≤ op && op ≤ 0x8F) || op = 0xB4 || op = 0x67 then .rmw
  else if op = 0x90 then .fence
  else if op = 0x91 || op = 0xB3 then .mwait
  else if op = 0x93 || op = 0x94 then .range
  else if 0x95 ≤ op && op ≤ 0x98 then .ring
  else .read

/-- Bytes an access covers: by type and shape, 8 for STF and semaphores, or by its length operand (R302, R312, R318). -/
def accBytes (op : Nat) (ty : Ty) (vec : Bool) (len : Nat) : Nat :=
  if op = 0x85 || (0xB3 ≤ op && op ≤ 0xB5) then 8
  else if op = 0x86 then min len 65536
  else if op = 0x93 || op = 0x94 then min len (2 ^ 26)
  else dataBytes ty vec

/-- A byte range cut at multiples of 64 KiB. -/
def segsGo : Nat → Nat → Nat → List (Nat × Nat)
  | 0, _, _ => []
  | k + 1, a, n =>
    if n = 0 then []
    else
      let m := min n (65536 - a % 65536)
      (a, m) :: segsGo k ((a + m) % 2 ^ 64) (n - m)

/-- A byte range cut into parts of one size. -/
def cutBy (a n w : Nat) : List (Nat × Nat) := (List.range (n / w)).map fun i => ((a + i * w) % 2 ^ 64, w)

/-- The parts of an access (R44, R103): each performs at one point, and so do the two parts of a vector element that lies over
two pages. Only a scalar that is not aligned is cut into its bytes. -/
def partsOf (op : Nat) (ty : Ty) (vec loc : Bool) (a len : Nat) : List (Nat × Nat) :=
  let n := accBytes op ty vec len
  if isDir op then [(a, 1)]
  else
  match kindOfOp op with
  | .fence => []
  | .ring => [(a, if loc then 1 else 128)]
  | .presence | .range => segsGo (n / 65536 + 2) a n
  | .read | .write =>
    if vec then
      if a % 8 = 0 then cutBy a n 8
      else if ty.width < 8 then cutBy a n 1
      else (cutBy a n (ty.width / 8)).flatMap fun p => segsGo 2 p.1 p.2
    else if a % n = 0 then [(a, n)] else cutBy a n 1
  | _ => [(a, n)]

/-- A part before it issues; `data` is the whole value of the access. -/
def mkUnit (a data : Nat) (p : Nat × Nat) : AUnit :=
  { va := p.1, size := p.2, st := .waiting, pa := 0, attr := attrPlain
    val := data / 2 ^ (8 * ((p.1 + 2 ^ 64 - a) % 2 ^ 64)) % 2 ^ (8 * p.2), old := 0, via := none }

/-- The element of a vector that a part belongs to, or its 8-byte word where the vector is aligned (R103). -/
def Access.elemIdx (x : Access) (u : AUnit) : Nat :=
  (u.va + 2 ^ 64 - x.addr) % 2 ^ 64 / (if x.addr % 8 = 0 then 8 else max 1 (x.ty.width / 8))

/-- The other parts of the element of part `j`, which perform with it (R103). -/
def Access.mates (x : Access) (j : Nat) : List Nat :=
  match x.units[j]? with
  | some u =>
    if x.vec && (x.kind == .read || x.kind == .write) then (List.range x.units.length).filter fun i => i != j &&
      (match x.units[i]? with | some v => x.elemIdx v == x.elemIdx u | none => false)
    else []
  | none => []

/-- The alignment an access needs, 1 for none (R304, R320, R328). -/
def accAlign (op : Nat) (ty : Ty) (vec loc : Bool) : Nat :=
  if (0x87 ≤ op && op ≤ 0x8F) || op = 0x91 then dataBytes ty vec
  else if 0xB3 ≤ op && op ≤ 0xB5 then 8
  else if loc then 1
  else if op = 0x95 || op = 0x96 then max 128 (dataBytes ty vec)
  else if op = 0x97 || op = 0x98 then 128
  else 1

/-! ## Orderings (R109, R307) -/

/-- Does an access hold back every later access of its task until it performs: an acquire or sc (R109, R122, R307)? -/
def Access.holdsLater (x : Access) : Bool :=
  x.kind != .fence &&
  (x.ord == .acq || x.ord == .ar || x.ord == .sc || x.op = 0x84 || x.op = 0x96 || x.op = 0xB3 || x.op = 0xB5
   || ((x.kind == .read || x.kind == .mwait) && x.units.any fun u => u.attr.kind = 1))

/-- Does an access wait for every earlier access of its task: a release or sc (R109, R122, R307)? -/
def Access.waitsEarlier (x : Access) : Bool :=
  x.ord == .rel || x.ord == .ar || x.ord == .sc || x.op = 0x85 || x.op = 0x95 || x.op = 0x97 || x.op = 0xB4
  || ((x.kind == .write || x.kind == .presence) && x.units.any fun u => u.attr.kind = 1)

/-- The place of an access in its block: the start, or its wave (R106, R323). -/
def Access.pos (x : Access) : Nat := match x.wave with | none => 0 | some v => v + 1
/-- Is `y` earlier than `x` in the program order of one task (R106)? -/
def Access.before (y x : Access) : Bool :=
  y.id != x.id && y.agent == x.agent && (y.seq < x.seq || (y.seq == x.seq && y.pos < x.pos))
/-- Does an access change memory or presence? -/
def Access.writes (x : Access) : Bool := x.kind == .write || x.kind == .presence || x.kind == .rmw || (x.kind == .ring && x.op != 0x98)
/-- Does an access perform as an RMW when it issues (R108)? -/
def Access.isRmw (x : Access) : Bool := x.kind == .rmw || (x.kind == .ring && x.op != 0x98)
/-- Is `y` a store of the block of `x`, of a lower wave, that awaits commit? -/
def Access.ownLower (y x : Access) : Bool :=
  y.before x && y.seq == x.seq && !y.committed && (y.kind == .write || y.kind == .presence)

/-- Has a part no translation yet? -/
def AUnit.raw (u : AUnit) : Bool := u.st == .waiting || u.st == .walking
/-- Do the bytes of two parts overlap? -/
def AUnit.overlaps (u v : AUnit) : Bool := u.pa < v.pa + v.size && v.pa < u.pa + u.size
/-- Is a part faulted? -/
def AUnit.bad (u : AUnit) : Bool := match u.st with | .faulted _ _ => true | _ => false

/-- Does an earlier access of the task keep a part of `x` from performing (R306, R307, R315)? A store of the own block
that the access itself forces or forwards does not, once it is translated, nor one whose bytes a WBACK or INVAL goes past (R318);
stores and CLRs of one block at one slice keep their order. A global read that is not translated yet may turn out to lie on an ONCE page, an
acquire then. -/
def State.blocks (s : State) (x : Access) (u : AUnit) (y : Access) : Bool :=
  let forced := x.isRmw && y.ownLower x
  let fwd := forced || ((x.kind == .read || x.kind == .mwait || x.kind == .ring) && y.ownLower x)
  let past := x.kind == .range && y.ownLower x
  y.before x &&
  ((!forced && (y.holdsLater || x.waitsEarlier || (y.kind == .fence && x.writes)))
   || (fwd && y.loc == x.loc && y.units.any AUnit.raw)
   || ((y.kind == .read || y.kind == .mwait) && !y.loc && y.units.any AUnit.raw)
   || (!fwd && !past && y.kind != .fence && y.kind != .range && y.loc == x.loc
        && y.units.any fun v => v.st != .performed && (v.raw || v.overlaps u))
   || ((x.kind == .write || x.kind == .presence) && (y.kind == .write || y.kind == .presence) && y.seq == x.seq && y.loc == x.loc
        && y.units.any fun v => v.st != .performed && (x.loc || s.sliceOf v.pa == s.sliceOf u.pa)))

/-- May a part perform as far as its task's order goes? -/
def State.orderFree (s : State) (x : Access) (u : AUnit) : Bool := !s.accs.any (s.blocks x u)

/-- May a part be tried: an RMW behind a release FENCE of its own block has that block's lower stores perform first, which the
fence awaits (R108, R315). -/
def State.turnCome (s : State) (x : Access) (u : AUnit) : Bool :=
  !s.accs.any fun y => s.blocks x u y && !(x.isRmw && y.kind == .fence && y.seq == x.seq)

/-- The scope at which an access acts: a local one at cell at most (R104). -/
def Access.scope (x : Access) : Nat := if x.loc then min x.sc 1 else x.sc

/-! ## Opening an access -/

/-- The state with a part of an access changed. -/
def State.setUnit (s : State) (id j : Nat) (f : AUnit → AUnit) : State :=
  s.modAcc id fun x => { x with units := listModify x.units j f }

/-- The state without an access. -/
def State.dropAcc (s : State) (id : Nat) : State := { s with accs := s.accs.filter fun x => x.id != id }

/-- The value of an access's data operand (R238, R310). -/
def dataOf (op : Nat) (ty : Ty) (vec : Bool) (t : Token) : Nat :=
  if 0xB3 ≤ op && op ≤ 0xB5 then t.w64
  else if vec then packLanes ty.width ((t.lanes ty).map (storeElem ty)) else storeElem ty (t.elem ty)

/-- An access of a slot's earlier attempt that has left for another package and is not answered yet (R108). -/
def State.goneAt (s : State) (a : Agent) (i : Nat) : Bool :=
  optB (s.win a) fun w => s.accs.any fun x => x.agent == a && x.seq == w.seq && x.slot == i && !x.committed && x.gone

/-- A firing opens an access; its slot waits for it. -/
def State.openAccess (s : State) (a : Agent) (i op : Nat) (ty : Ty) (vec : Bool) (sc : Nat) (ord : Ord) (loc : Bool)
    (addr : Nat) (r x : Token) (wave : Option Nat) : State :=
  match s.win a with
  | none => s
  | some w =>
    let data := dataOf op ty vec r
    let acc : Access :=
      { id := s.nextAcc, agent := a, seq := w.seq, baddr := w.baddr, log := hdrLog (blockHeader (s.blockStore a) w.baddr)
        wave := wave, slot := i, op := op, kind := kindOfOp op, ty := ty, vec := vec, sc := sc, ord := ord, loc := loc
        addr := addr, data := BitVec.ofNat 2048 (if op = 0x97 then r.w64 else data), exp := x.elem ty, committed := false
        outs := [], units := (partsOf op ty vec loc addr r.w64).map (mkUnit addr data), born := s.cycle }
    ({ s with accs := s.accs ++ [acc], nextAcc := s.nextAcc + 1 }.spend (s.regionOf a) 3 1).setSlot a i fun sl => { sl with st := .pending }

/-- Deliver what the instruction delivered in an earlier attempt (R108, R327). -/
def State.deliverKept (s : State) (a : Agent) (i op : Nat) (f : Fmt) (toks : List Token) (fl : Nat) : State :=
  toks.foldl (fun s t => s.sendBoth a i op f t 1) (s.modWin a fun w => w.raise fl)

/-- The result an attempt before kept for a slot. -/
def State.keptAt (s : State) (a : Agent) (i : Nat) : Option (List Token × Nat) :=
  match s.win a with
  | some w => (w.kept.find i).map fun t => (t, w.keptFl.get i 0)
  | none => none

/-- The address of an M-format access (R302). -/
def memAddr (f : FmtM) (l : Token) : Nat := wrapN ((l.w64 : Int) + sextN f.off.toNat 14) 64

/-- An M-format instruction that accesses memory: it opens its access, or delivers what it kept. -/
def fireMem (s : State) (op : Nat) (f : FmtM) : Host.Outcome State Fault Refusal :=
  fireWith s op (.m f) fun s a i sl =>
    match s.keptAt a i with
    | some (toks, fl) => s.deliverKept a i op (.m f) toks fl
    | none =>
      if s.goneAt a i then s.setSlot a i fun sl => { sl with st := if isStore op || op = 0x86 then .fired else .pending }
      else s.openAccess a i op f.ty (f.sh == .vector) f.sc.code f.ord f.loc (memAddr f (sl.tok .l)) (sl.tok .r) (sl.tok .x)
        (some f.wv.toNat)

/-! ## Faults of an access (R44, R78, R309) -/

/-- The record of a failing access whose block may have committed (R138, R390). -/
def State.accRecord (s : State) (x : Access) (fclass detail addr : Nat) : FaultRec :=
  let nd := (s.modWin x.agent fun w => { w with baddr := x.baddr }).nodeInfo x.agent x.slot
  { s.faultOf x.agent none fclass detail addr with
    slot := x.slot, baddr := x.baddr, bseq := x.seq, config := slotWord (s.blockStore x.agent) x.baddr x.slot
    node := nd.1, nidx := nd.2.length, idx := nd.2, acc := some x.id }

/-- An access fails: its block faults; one whose block has committed holds its element instead (R161, R309, R387). -/
def State.accFault (s : State) (x : Access) (fclass detail addr : Nat) : State :=
  if x.committed then
    (match x.agent with
     | .task .. => s.takeHeld (s.regionOf x.agent) (s.accRecord x fclass detail addr)
     | .helm _ => s.takeFault x.agent (s.accRecord x fclass detail addr))
  else s.blockFault x.agent (some x.slot) fclass detail addr

/-! ## Watchpoints (R398, R418) -/

/-- The lowest watchpoint of a region that an access to bytes from `addr` on matches. -/
def Region.watchHit (r : Region) (rd wr loc : Bool) (addr n : Nat) : Option Nat :=
  (List.range 16).find? fun k =>
    let w := r.wps.get (2 * k) 0
    let lo := (r.wps.get (2 * k + 1) 0).toNat / 2 ^ field w 5 0 * 2 ^ field w 5 0
    flag w 63 && ((rd && flag w 62) || (wr && flag w 61)) && flag w 59 == loc
      && lo < addr + n && addr < lo + 2 ^ field w 5 0

/-- The report of a completed access that matches a watchpoint. -/
def State.watch (s : State) (x : Access) : State :=
  let k := s.regionOf x.agent
  match (if isDir x.op || s.stepping x.agent then none else s.regions.find k) with
  | none => s
  | some r =>
    let rd := x.kind == .read || x.kind == .mwait || x.isRmw || x.kind == .ring
    match r.watchHit rd x.writes x.loc x.addr (x.units.foldl (fun n u => n + u.size) 0) with
    | none => s
    | some n =>
      let rec0 := s.faultOf x.agent (some x.slot) fcWatch (memDetail (accCode x.op) n) x.addr
      let dbg := flag (r.wps.get (2 * n) 0) 60
      let s := if (s.task x.agent).st == .active then s.takeStop x.agent rec0 dbg else s.report k rec0 dbg
      let xy := s.xyOf x.agent
      if dbg then s.haltGang k { kind := 4, num := n, x := xy.1, y := xy.2, task := rec0.task, fnum := 0, rk := k } else s

/-! ## Issue (R43, R44, R73, R305) -/

/-- Translate an access of an agent: its region's pinned ranges, then the TLB of its port, then, with `walk`, the
tables (R39, R45, R66). -/
def State.translate (s : State) (a : Agent) (acc va : Nat) (walk : Bool) : Look × State :=
  let pin := match s.regions.find (s.regionOf a) with | some r => r.pinVa va | none => none
  match pin with
  | some p => (.hit (p.pa * 65536 + va % 65536) p.attr, s)
  | none =>
    let cfg := s.cfgFor a
    let t := (s.port a.port).tlb
    let r := match s.lookTlb t cfg acc va with
      | (.miss, t) => if walk then s.walkTlb t cfg acc va else (.miss, t)
      | r => r
    (r.1, s.modPort a.port fun p => { p with tlb := r.2 })

/-- The OR field of GATHER, SCATTER and SCATA (R346). -/
def strOrd (f : FmtT) : Nat := fieldN f.aux.toNat 8 6

/-- Does the base of an instruction's shape record lie on an ONCE page, whose words make a GATHER an acquire (R109, R122)? -/
def State.onceBase (s : State) (a : Agent) (f : FmtT) : Bool :=
  match s.recordOf a f.sr.toNat with
  | .ok p => !pAs p && (match (s.translate a accRead (pBase p) true).1 with | .hit _ attr => attr.kind = 1 | _ => false)
  | .error _ => false

/-- Is an instruction one at the start of its block that holds back the block's accesses until it is done (R109, R323,
R334): a barrier or semaphore instruction with an acquire part, WAITB, or an acquire or sc element access? -/
def State.startHolds (s : State) (a : Agent) (op : Nat) (f : Fmt) : Bool :=
  op = 0xB0 || op = 0xB2 || op = 0xB3 || op = 0xB5 || op = 0xC2 ||
  (match f with
   | .t g => ((op = 0x77 || op = 0x79) && (strOrd g = 1 || strOrd g = 3 || strOrd g = 4)) || (op = 0x78 && strOrd g = 4)
       || (op = 0x77 && s.onceBase a g)
   | _ => false)

/-- Has what stands at the start of the block been passed, as far as it holds back accesses (R323, R334)? -/
def State.startsDone (s : State) (a : Agent) (w : Win) : Bool :=
  (List.range w.slots.length).all fun i =>
    match s.fieldsAt a w.baddr i, w.slots[i]? with
    | some (op, f), some sl =>
      sl.done || !(s.startHolds a op f || (match sl.eng with | .stream e => e.once | _ => false))
        || (sl.st == .waiting && s.verdict a op f (lFed s a w.baddr w.slots.length i) sl == .dead)
    | _, _ => true

/-- May an access issue: its lower waves are resolved and the block's start is passed? -/
def State.mayIssue (s : State) (x : Access) : Bool :=
  x.committed ||
  (match s.win x.agent, x.wave with
   | some w, some v => s.wavesBelow x.agent w v && s.startsDone x.agent w
   | some _, none => s.earlierDone x.agent x.seq || x.kind == .mwait || x.kind == .read
   | none, _ => false)

/-- The check that comes before translation: canonical, then aligned (R43, R304). -/
def State.earlyBad (s : State) (x : Access) : Option (Nat × Nat) :=
  let code := accCode x.op
  let canon := x.loc || (if (s.cfgFor x.agent).phys then x.addr < 2 ^ 52 else canonical x.addr)
  if !canon then some (fcNotMapped, trDetail code 0 1)
  else if x.addr % accAlign x.op x.ty x.vec x.loc ≠ 0 then some (fcAlign, memDetail code 1)
  else none

/-- Does the kind of a page forbid an access: the cause (R77, R312)? -/
def kindBad (x : Access) (u : AUnit) (attr : Attr) (pa : Nat) : Option Nat :=
  if attr.kind = 1 then
    match x.kind with
    | .write => if pa % 8 = 0 && u.size = 8 then none else some 1
    | .rmw => some 2
    | .ring => some 2
    | _ => if 0xB3 ≤ x.op || isDir x.op then some 2 else none
  else if attr.kind = 0 && x.kind == .presence then some 2 else none

/-- The tile of a local ring operation: none when the address or the tile is wrong (R54, R61, R319). -/
def State.ringTile (s : State) (x : Access) : Option (Nat × Nat) :=
  match x.agent with
  | .helm _ => none
  | .task d p _ =>
    let n := x.addr / 65536
    let t := (s.cell (cellKey d p)).tile n
    if x.addr < 2 ^ 19 && n < 6 && t.role = 2 && flag t.desc 60 && t.owner == some (s.regionOf x.agent)
        && (x.op = 0x97 || x.op = 0x98 || 2 ^ field t.desc 59 56 == dataBytes x.ty x.vec) then some (cellKey d p, n)
    else none

/-- The check of a local part: the failing address and cause (R54, R61). -/
def State.localUnitBad (s : State) (x : Access) (u : AUnit) : Option (Nat × Nat) :=
  if x.kind == .ring then (if (s.ringTile x).isSome then none else some (u.va, 8))
  else s.localBad x.agent u.va u.size

/-- Claims held at a slice (R74). -/
def State.claimsAt (s : State) (slice : Nat) : Nat := (s.claims.filter fun c => s.sliceOf (8 * c.word) == slice).length
/-- Reads held at a slice (R74). How many of its entries one request takes the spec does not say, nor whether an MWAIT or a ring
operation that waits there takes one: the model counts each held part of each of them (DESIGN CHOICE, log entry 120). -/
def State.heldAt (s : State) (slice : Nat) : Nat :=
  s.accs.foldl (fun n x => if x.loc || x.kind == .write || (x.kind == .elem && x.op ≠ opRead) then n else
    n + (x.units.filter fun u => u.st == .held && s.sliceOf u.pa == slice).length) 0

/-- What a claim of an ONCE word finds (R73, R125): taken, to be held, refused, or returned by a full table. -/
inductive ClaimRes where | taken (s : State) | held | refill | back

/-- Does an access claim the ONCE words it writes: a store, or an element that waits for a claim (R73)? -/
def Access.claims (x : Access) : Bool := x.kind == .write || (x.kind == .elem && x.op ≠ opRead)

/-- Does a claim that waits for a word stand before one whose place is `turn`, none for a claim that only now arrives (R125)? -/
def State.claimBehind (s : State) (wd : Nat) (turn : Option Nat) : Bool :=
  s.accs.any fun y => y.claims && !y.loc && y.units.any fun u => u.st == .held && u.pa / 8 = wd && optB (some (turn.getD (u.old + 1))) (u.old < ·)

/-- Claim a word for an access (R73, R74, R125): claims that wait for the word go first. -/
def State.claim (s : State) (x : Access) (wd : Nat) (turn : Option Nat) : ClaimRes :=
  match s.claims.find? fun c => c.word == wd with
  | some c =>
    if c.agent == x.agent && c.seq == x.seq then (if c.acc = x.id then .taken s else .refill) else .held
  | none =>
    if s.presence.contains wd then .refill
    else if s.claimBehind wd turn then .held
    else if 512 ≤ s.claimsAt (s.sliceOf (8 * wd)) then .back
    else .taken { s with claims := s.claims ++ [{ word := wd, agent := x.agent, seq := x.seq, acc := x.id }] }

/-- A part marked as failing, its address kept beside it. -/
def AUnit.fault (u : AUnit) (c d addr : Nat) : AUnit := { u with st := .faulted c d, pa := addr }

/-- The place of a claim that arrives at a word others wait for (R125). -/
def State.claimTurn (s : State) (wd : Nat) : Nat :=
  s.accs.foldl (fun n x => if x.claims && !x.loc then
    x.units.foldl (fun n u => if u.st == .held && u.pa / 8 = wd then max n (u.old + 1) else n) n else n) 0

/-- A part that has its translation claims its word if it writes to an ONCE page (R73): at a home in another package the claim
goes there as an access of its own. -/
def State.claimUnit (s : State) (x : Access) (j : Nat) (u : AUnit) : State :=
  if x.claims && u.attr.kind = 1 then
    if paPkg u.pa ≠ s.pkgNum then
      match s.planeFor u.pa with
      | some p =>
        let ln := (s.srcOf x.agent).lognum
        let s := s.setUnit x.id j fun u => { u with st := .pod p s.cycle, old := 0 }
        if (s.log ln).isSome then s.horizon ln 3 else s
      | none =>
        let d := s.linkDetail 32
        (s.setUnit x.id j fun u => { u with st := .faulted fcLinkDown d, old := 2 }).takeHeld (s.regionOf x.agent) (s.accRecord x fcLinkDown d u.va)
    else
    match s.claim x (u.pa / 8) (if u.st == .held then some u.old else none) with
    | .taken s => s.setUnit x.id j fun u => { u with st := .issued }
    | .held => s.setUnit x.id j fun v => { v with st := .held, old := if u.st == .held then u.old else s.claimTurn (u.pa / 8) }
    | .refill => s.setUnit x.id j fun u => u.fault fcDoubleAssign (memDetail accWrite 3) u.va
    | .back => s.setUnit x.id j fun u => { u with st := .retry (s.cycle + 64) }
  else s.setUnit x.id j fun u => { u with st := .issued }

/-- Have all parts of an access issued? -/
def Access.allIssued (x : Access) : Bool :=
  x.units.all fun u => match u.st with
    | .waiting | .walking | .faulted _ _ => false
    | .held | .retry _ => x.kind != .write
    | .pod _ _ => x.committed || x.kind != .write || u.old = 1
    | _ => true

/-- How early a part fails in the order of R43: at its translation, at the kind of its page, or behind those. -/
def AUnit.rank (u : AUnit) : Nat :=
  match u.st with
  | .faulted c d => if c = fcNotMapped || c = fcPermission || (c = fcPoison && d % 16 = 13) then 0 else if c = fcAlign then 1 else 2
  | _ => 3

/-- Does a part wait at its port for a link (R387)? -/
def AUnit.linkHeld (u : AUnit) : Bool := match u.st with | .faulted c _ => c = fcLinkDown | _ => false

/-- The failing part that is reported: of those that fail earliest the one with the lowest address (R43, R44). -/
def Access.worst (x : Access) : Option AUnit :=
  (x.units.filter fun u => u.bad && !u.linkHeld).foldl (fun b u => match b with
    | some v => if u.rank < v.rank || (u.rank = v.rank && u.pa < v.pa) then some u else b
    | none => some u) none

/-- After a part has been judged: the access fails once every part is translated and one has failed (R44); a store
whose parts have all issued has fired (R306, R398). -/
def State.settleIssue (s : State) (id : Nat) : State :=
  match s.acc? id with
  | none => s
  | some x =>
    if x.units.any AUnit.raw then s
    else
      match x.worst with
      | some u => (match u.st with | .faulted c d => s.accFault x c d u.pa | _ => s)
      | none =>
        if !x.committed && (x.kind == .write || x.kind == .presence) && x.allIssued then
          let s := s.setSlot x.agent x.slot fun sl => { sl with st := .fired }
          if x.units.isEmpty then s else s.watch x
        else s

/-- The port and the TLB entry that an access was just translated through (R52); none for a pinned range. -/
def State.viaNow (s : State) (a : Agent) (va : Nat) : Option (Nat × TlbEntry) :=
  if (match s.regions.find (s.regionOf a) with | some r => (r.pinVa va).isSome | none => false) || (s.cfgFor a).phys then none
  else (s.port a.port).tlb.head?.map fun e => (a.port, e)

/-- Judge a part's translation. -/
def State.landUnit (s : State) (x : Access) (j : Nat) (u : AUnit) (l : Look) : State :=
  match l with
  | .miss => s.setUnit x.id j fun u => { u with st := .walking }
  | .bad c d => (s.setUnit x.id j fun u => u.fault c d u.va).settleIssue x.id
  | .hit pa attr =>
    let dir := isDir x.op
    let g (u : AUnit) : AUnit := if dir then { u with pa := pa / 4096 * 4096, size := 4096, attr := attr } else { u with pa := pa, attr := attr }
    let u' := g u
    let via := s.viaNow x.agent u.va
    let s := s.setUnit x.id j fun u => { g u with via := via }
    match (if dir && (s.pinPa x.agent.die pa).isSome then some 2 else kindBad x u' attr pa) with
    | some m => (s.setUnit x.id j fun u => u.fault fcAlign (memDetail (accCode x.op) m) u.va).settleIssue x.id
    | none =>
      match (if paPkg pa = s.pkgNum then (linesOf u'.pa u'.size).find? fun l => s.chanFailed (128 * l) else none) with
      | some l =>
        let off := if dir then 0 else 128 * l - pa
        (s.setUnit x.id j fun u => u.fault fcPoison (memDetail (accCode x.op) 5) (u.va + off)).settleIssue x.id
      | none => (s.claimUnit x j u').settleIssue x.id

/-- A part issues: checked, translated, and on an ONCE page claimed (R43, R73, R305). -/
def State.issueUnit (s : State) (x : Access) (j : Nat) (u : AUnit) (walk : Bool) : State :=
  match s.earlyBad x with
  | some (c, d) => s.accFault x c d x.addr
  | none =>
    if x.loc then
      match s.localUnitBad x u with
      | some (addr, c) => (s.setUnit x.id j fun u => u.fault (classOfCause c) (trDetail (accCode x.op) 0 c) addr).settleIssue x.id
      | none => (s.setUnit x.id j fun u => { u with st := .issued, pa := u.va }).settleIssue x.id
    else
      let t := s.translate x.agent (accCode x.op) u.va walk
      t.2.landUnit x j u t.1

/-! ## Log room (R138, R147) -/

/-- The offset from HEAD of MARK n in a sub-log. -/
def State.markOffset (s : State) (ln key n : Nat) (u : SubLog) : Option Nat :=
  (List.range u.count).find? fun j =>
    let i := (u.head + j) % max 1 u.cap
    s.entryWord ln key i 0 == 3 * 2 ^ 60 && s.entryWord ln key i 1 == n

/-- A sub-log takes the capacity that is due once its live entries do not wrap past its end (R139). -/
def SubLog.grow (u : SubLog) : SubLog :=
  if u.cap < u.due && Nat.ble (u.head + u.count) u.cap then 
    let t := (u.head + u.count) % max 1 u.due
    { u with cap := u.due, tail := t, replayEnd := if u.replayEnd = u.tail then t else u.replayEnd }
  else u

/-- Discard every window older than a waypoint (R138, R139): each sub-log begins at that waypoint's mark. -/
def State.discardTo (s : State) (ln wp : Nat) : State :=
  match s.log ln with
  | none => s
  | some l =>
    let subs := l.subs.map fun e =>
      match s.markOffset ln e.1 wp e.2 with
      | some j => (e.1, { e.2 with head := (e.2.head + j) % max 1 e.2.cap, count := e.2.count - j }.grow)
      | none => e
    (s.modLog ln fun l => { l with subs := subs, oldest := max l.oldest wp }).logHeader ln

/-- Discard everything: no waypoint is left, and the slices append nothing until the next marker (R138). -/
def State.discardAll (s : State) (ln : Nat) : State :=
  (s.modLog ln fun l => { l with none0 := true, subs := l.subs.map fun e =>
    (e.1, { e.2 with head := e.2.tail, count := 0, stopped := true }.grow) }).horizon ln 7

/-- The region that a LOG_FULL of a foreign write names (R138): the context's rectangle on the die, else its first. -/
def ULog.regionOn (l : ULog) (d : Nat) : Nat :=
  match l.regions.find? fun k => keyDie k == d with
  | some k => k
  | none => l.regions.foldl min ((l.regions.head?).getD 0)

/-- Is a sub-log full (R138)? -/
def SubLog.isFull (u : SubLog) : Bool := Nat.ble u.cap u.count

/-- With room again in every sub-log that was full, the gate that STALL closed opens, unless a waypoint keeps it (R136, R138). -/
def State.openLogGate (s : State) (ln : Nat) : State :=
  match s.log ln with
  | some l =>
    let still := l.fulls.filter fun k => (l.sub k).isFull
    let s := s.modLog ln fun l => { l with fulls := still }
    if l.fulls.isEmpty || !still.isEmpty || !l.wayWait.isEmpty then s
    else l.regions.foldl (fun s k => s.modRegion k fun r => if r.st == .gating then r else { r with gate := false }) s
  | none => s

/-- In place of an address: the entry due is a MARK, a CHOICE or an NDM, and no write is held for it. -/
def noWord : Nat := 2 ^ 64

/-- The record of a LOG_FULL (R138): the instruction whose write is held, or, for a foreign write, the context alone with the
physical address (R386). -/
def State.logRecord (s : State) (ln key : Nat) (acc : Option Access) (held addr k : Nat) : FaultRec :=
  match acc with
  | some x => { s.accRecord x fcLogFull (key % 64) addr with xinfo := ln }
  | none => { s.bareRecord k fcLogFull ((if held = noWord then 0 else 256) + key % 64) (if held = noWord then 0 else held) with xinfo := ln }

/-- Does the held write of an access wait for RESUME after a LOG_FULL (R138, R387)? -/
def State.writeTrapped (s : State) (x : Access) (pa : Nat) : Bool :=
  if (s.srcOf x.agent).foreign then s.trapHeld pa else s.fullSaid (s.srcOf x.agent).lognum (fun _ => true) (some x)

/-- Does a sub-log hold only the current window (R138): no entry before MARK NEWEST? -/
def State.onlyCurrent (s : State) (ln key : Nat) (l : ULog) : Bool := ((s.markOffset ln key l.newest (l.sub key)).getD 0) = 0

/-- What a full sub-log makes the policy do, once for each hold (R138): `acc` is the held write, where it is an instruction's, which
the record names if the context's own task made it; `held` the physical address of the word, `addr` the write's virtual address. WRAP,
where OLDEST is NEWEST but older windows stand in the ring, moves HEAD to the mark that there is (DEDUCED, log entry 122). -/
def State.logFull (s : State) (ln key : Nat) (acc : Option Access) (held addr : Nat) : State :=
  match s.log ln with
  | none => s
  | some l =>
    let d := key / 64
    let acc := acc.filter fun x => !(s.srcOf x.agent).foreign
    let k := match acc with | some x => s.regionOf x.agent | none => l.regionOn d
    match l.policy with
    | 0 =>
      let s := l.regions.foldl (fun s k => s.modRegion k fun r => { r with gate := true }) s
      if l.fulls.contains key then s
      else (s.modLog ln fun l => { l with fulls := l.fulls ++ [key] }).post d (eventWord 6 0 k) (word (ln * 2 ^ 56 + d * 2 ^ 32 + key % 64))
    | 1 => if l.none0 || s.onlyCurrent ln key l then s.discardAll ln else s.discardTo ln (if l.newest ≤ l.oldest then l.oldest else l.oldest + 1)
    | _ =>
      if s.fullSaid ln (· == key % 64 + (if acc.isSome || held = noWord then 0 else 256)) acc then s
      else s.takeHeld k (s.logRecord ln key acc held addr k)

/-- The access that stands for a write of no task, held for log room at the words it wants (R138): later accesses to them wait
behind it. -/
def State.standHeld (s : State) (die pa : Nat) : State :=
  if s.accs.any fun y => y.op = opHeld && y.slot = die && y.units.any fun u => u.pa = pa then s
  else
    let x : Access :=
      { id := s.nextAcc, agent := noAgent, seq := 0, baddr := 0, log := false, wave := none, slot := die, op := opHeld, kind := .elem
        ty := .i8, vec := false, sc := 3, ord := .rlx, loc := false, addr := pa, data := 0, exp := 0, committed := true, outs := []
        units := [{ va := pa, size := 8, st := .logHeld, pa := pa, attr := attrPlain, val := 0, old := 0, via := none }] }
    { s with accs := s.accs ++ [x], nextAcc := s.nextAcc + 1 }

/-- A write of no task meets a full sub-log (R138). -/
def State.foreignFull (s : State) (ln key die pa : Nat) : State := (s.standHeld die pa).logFull ln key none pa pa

/-- Replay meets an old value other than the recorded one: it ends, and the context halts with DIVERGE (R143, R147). -/
def State.diverged (s : State) (ln : Nat) : State :=
  let s := (s.endReplay ln).modLog ln fun l => { l with diverged := true }
  let rks := match s.log ln with | some l => l.regions | none => []
  let told (x : Session) : Session :=
    if optB (keyOfHandle (x.bsel &&& 0x3F0000FFFF)) rks.contains then { x with rstat := 5 } else x
  let s := { s with sessions := s.sessions.map fun (e : Nat × Session) => (e.1, told e.2) }
  match s.log ln with
  | some l => l.regions.foldl (fun s k => s.haltGang k { kind := 3, num := 0, x := 0, y := 0, task := 0, fnum := 0, rk := k }) s
  | none => s

/-! ## Performing (R66, R106-R108, R305-R316) -/

/-- The source of an access: its block's LOG bit as it was when the access was opened (R131). -/
def State.srcAcc (s : State) (x : Access) : Src := { s.srcOf x.agent with blockLog := x.log }

/-- A cell records which task's accesses to the tile of an address follow (R145). -/
def State.tileChoice (s : State) (x : Access) (addr : Nat) : LogRes :=
  match x.agent with
  | .helm _ => .done s
  | .task d p t =>
    let key := cellKey d p
    let n := addr / 65536
    let ln := s.cctxLog key (s.task x.agent).cctx
    if ln = 0 || ((s.cell key).tile n).lastTask == some t then .done s
    else
      match s.append ln (choiceKey key) (6 * 2 ^ 60 + d * 2 ^ 46 + p * 2 ^ 38 + n * 2 ^ 33 + t * 2 ^ 30) t with
      | .done s => .done (s.modCell key fun c => c.modTile n fun y => { y with lastTask := some t })
      | r => r

/-- A result of the log as a result of performing. -/
def LogRes.perf (r : LogRes) (s0 : State) (go : State → PerfRes) : PerfRes :=
  match r with
  | .done s => go s
  | .full ln k held => .full ln k held
  | .wait => .wait s0
  | .diverge ln => .diverge ln

/-- `n` bytes of the local space as a number. -/
def State.localNat (s : State) (a : Agent) (addr n : Nat) : Nat := leNat ((List.range n).map fun i => s.localGet a (addr + i))

/-- Empty the presence bits of some words, each a write of its presence state (R75, R312). -/
def State.clearWords (s : State) (src : Src) (attr : Attr) : List Nat → LogRes
  | [] => .done s
  | wd :: r =>
    if s.presence.contains wd then
      match s.logWord src attr wd (memNat s.mem (8 * wd) 8) false with
      | .done s => State.clearWords { s with presence := setDel s.presence wd } src attr r
      | e => e
    else State.clearWords s src attr r

/-- Does a range touch a failed channel of this package (R81)? The lowest byte that does. -/
def State.chanBad (s : State) (pa n : Nat) : Option Nat :=
  if paPkg pa ≠ s.pkgNum then none
  else ((linesOf pa n).find? fun l => s.chanFailed (128 * l)).map fun l => max pa (128 * l)

/-- Perform a store's part at its place (R66, R70, R73, R76, R312). The interface MAY merge a release store with later relaxed
ones to the same word (R111); this model never does (DESIGN CHOICE, log entry 99). -/
def State.writeUnit (s : State) (x : Access) (u : AUnit) : PerfRes :=
  if x.loc then (s.tileChoice x u.va).perf s fun s => .done (s.localWrite x.agent u.va (leBytes u.val u.size)) 0
  else if x.kind == .presence then
    if paPkg u.pa ≠ s.pkgNum then (match s.planeFor u.pa with | some p => .pod p u.pa | none => .pod 32 u.pa)
    else if (s.chanBad u.pa u.size).isSome then .fail fcPoison 5
    else
      let ws := wordsOf u.pa u.size
      s.viaLinks (s.srcAcc x) u.pa <|
      if s.claims.any fun c => ws.contains c.word then .wait s
      else (s.clearWords (s.srcAcc x) u.attr (ws.filter s.presence.contains)).perf s fun s => .done s 0
  else
    let pres := u.attr.kind = 1 || (u.attr.kind = 2 && x.op = 0x85 && u.size = 8 && u.pa % 8 = 0)
    s.writeSpan (s.srcAcc x) u.attr pres u.pa (leBytes u.val u.size)

/-- Do the performed parts of a store cover a whole line, counted by `f`: its address in memory or in the tiles? -/
def Access.covers (y : Access) (line : Nat) : Bool :=
  (List.range 128).all fun i => y.units.any fun v => v.st == .performed && Nat.ble v.pa (128 * line + i) && 128 * line + i < v.pa + v.size

/-- A store is done; one of a block that has not committed was forced by an RMW, and performs no more when the block executes again
(R108). -/
def State.storeDone (s : State) (y : Access) : State :=
  let s := s.dropAcc y.id
  if y.committed || !optB (s.win y.agent) (fun w => w.seq == y.seq) then s
  else s.modWin y.agent fun w => { w with kept := w.kept.put y.slot [], pnr := true }

/-- A part has performed: its claim resolves, a store that has now covered a line clears its mark (R82), and a store all of
whose parts have performed is done. -/
def State.unitDone (s : State) (x : Access) (j : Nat) (u : AUnit) : State :=
  let s := s.setUnit x.id j fun u => { u with st := .performed }
  let s := if x.kind == .write && u.attr.kind = 1 && !x.loc then
    { s with claims := s.claims.filter fun c => c.word != u.pa / 8 } else s
  match s.acc? x.id with
  | some y =>
    let s := if y.kind != .write then s else
      (linesOf u.pa u.size).foldl (fun s line =>
        if !y.covers line then s
        else if y.loc then
          (match y.agent with
           | .task d p _ => s.modCell (cellKey d p) fun c => c.modTile (line / 512) fun t => { t with poison := setDel t.poison (line % 512) }
           | .helm _ => s)
        else s.clearMark (s.srcAcc x) (128 * line)) s
    if (y.kind == .write || y.kind == .presence) && y.units.all fun u => u.st == .performed then s.storeDone y else s
  | none => s

/-- An access that leaves through a pod port is a horizon of a logged context (R140, R437); with no plane left the link
is down (R436). An RMW, or a store that it forces, is past the point of no return with it (R108). -/
def State.toPod (s : State) (x : Access) (j : Nat) (plane addr : Nat) : State :=
  if plane < 32 then
    let ln := (s.srcOf x.agent).lognum
    let s := s.setUnit x.id j fun u => { u with st := .pod plane s.cycle, old := if x.kind == .write then 1 else u.old }
    let s := if x.isRmw || (!x.committed && (x.kind == .write || x.kind == .presence)) then
        s.modWin x.agent fun w => if w.seq = x.seq then { w with pnr := true } else w else s
    if (s.log ln).isSome then s.horizon ln 3 else s
  else
    let d := s.linkDetail plane
    let s := s.setUnit x.id j fun u => { u with st := .faulted fcLinkDown d }
    s.takeHeld (s.regionOf x.agent) (s.accRecord x fcLinkDown d addr)

/-- The byte of an address that a store of the own block, of a lower wave, will write: the latest one (R107). -/
def State.ownByte (s : State) (x : Access) (pa : Nat) : Option Nat :=
  ((s.accs.filter fun y => y.kind == .write && y.ownLower x && y.loc == x.loc).flatMap fun y =>
    y.units.filterMap fun u => if u.pa ≤ pa && pa < u.pa + u.size then some (y.pos, u.val / 2 ^ (8 * (pa - u.pa)) % 256) else none).foldl
    (fun (b : Option (Nat × Nat)) e => match b with | some c => if c.1 ≤ e.1 then some e else b | none => some e) none
    |>.map (·.2)

/-- Is a word full for an access (R75-R77, R306): its presence bit, unless the own block empties or fills it at a lower wave; the
latest of these counts. Only STF fills a FILLTRK word, every store an ONCE word. -/
def State.wordFull (s : State) (x : Access) (kind wd : Nat) : Bool :=
  let own := s.accs.flatMap fun y =>
    if !y.ownLower x || y.loc then []
    else y.units.filterMap fun u =>
      if y.kind == .presence then (if u.pa < 8 * wd + 8 && 8 * wd < u.pa + u.size then some (y.pos, false) else none)
      else if (kind = 1 || y.op = 0x85) && u.size = 8 && u.pa = 8 * wd then some (y.pos, true) else none
  match own.foldl (fun (b : Option (Nat × Bool)) e => match b with | some c => if c.1 ≤ e.1 then some e else b | none => some e) none with
  | some e => e.2
  | none => s.presence.contains wd

/-- Hold a part at its place, or send it back from a full table (R74). -/
def State.holdUnit (s : State) (x : Access) (j : Nat) (u : AUnit) : State :=
  if u.st == .held then s
  else if !x.loc && 1024 ≤ s.heldAt (s.sliceOf u.pa) then s.setUnit x.id j fun u => { u with st := .retry (s.cycle + 64) }
  else s.setUnit x.id j fun u => { u with st := .held }

/-- The own block's bytes of a part, in order. -/
def State.ownBytes (s : State) (x : Access) (u : AUnit) : List (Option Nat) := (List.range u.size).map fun i => s.ownByte x (u.pa + i)

/-- Bytes read with the own block's bytes laid over them. -/
def overlay : List (Option Nat) → Nat → Nat
  | [], _ => 0
  | o :: r, v => (o.getD (v % 256)) + 256 * overlay r (v / 256)

/-- May a copy in the remote-data cache serve a read (R71)? -/
def Access.mayHit (x : Access) : Bool := x.kind == .read && !(x.holdsLater && 4 ≤ x.sc) && x.agent.die < 64

/-- Must a read ask another package although its own block stores every byte of it: its words need not be full there (R74, R77,
R126)? -/
def State.farHold (s : State) (x : Access) (u : AUnit) : Bool :=
  !x.loc && (u.attr.kind = 1 || (u.attr.kind = 2 && x.op = 0x84)) && paPkg u.pa ≠ s.pkgNum
  && !((wordsOf u.pa u.size).all (s.wordFull x u.attr.kind))

/-- Read a part's bytes at their place, the own block's bytes laid over them (R66, R71, R82, R107). -/
def State.readUnitBy (s : State) (src : Src) (order : State → LogRes) (x : Access) (u : AUnit) : PerfRes :=
  let own := s.ownBytes x u
  if own.all Option.isSome && !s.farHold x u then .done s (overlay own 0)
  else if x.loc then
    if s.localUe x.agent u.va u.size then .fail fcPoison 4
    else (order s).perf s fun s => .done s (overlay own (s.localNat x.agent u.va u.size))
  else
    match s.readSpan src u.attr x.mayHit u.pa u.size with
    | .done s v => .done s (overlay own v)
    | r => r

/-- The read of a part, which a log of its context records (R145). -/
def State.readUnit (s : State) (x : Access) (u : AUnit) : PerfRes := s.readUnitBy (s.srcAcc x) (·.tileChoice x u.va) x u

/-- What a part would read, which no log records. -/
def State.peekUnit (s : State) (x : Access) (u : AUnit) : PerfRes := s.readUnitBy { s.srcAcc x with lognum := 0 } .done x u

/-- Where performing a part fails as things stand: class, MCAUSE and the lowest byte concerned (R78). -/
def State.failAt (s : State) (x : Access) (u : AUnit) : Option (Nat × Nat × Nat) :=
  let try0 (v : AUnit) : Option (Nat × Nat × Nat) :=
    let r := if x.kind == .write || x.kind == .presence then s.writeUnit x v
      else if x.kind == .read || x.kind == .mwait then s.readUnit x v
      else if x.loc then (if s.localUe x.agent v.va v.size then .fail fcPoison 4 else .wait s)
      else s.readSpan (s.srcAcc x) v.attr false v.pa v.size
    match r with | .fail c m => some (c, m, v.va) | _ => none
  if u.st == .performed then none
  else (lineCuts u.pa u.size).findSome? fun p =>
    try0 { u with va := u.va + (p.1 - u.pa), pa := p.1, size := p.2, val := u.val / 2 ^ (8 * (p.1 - u.pa)) % 2 ^ (8 * p.2) }

/-- The failing part of an access that has the lowest byte. -/
def State.lowestFail (s : State) (x : Access) : Option (Nat × Nat × Nat) :=
  (x.units.filterMap (s.failAt x)).foldl (fun b e => match b with | some c => if e.2.2 < c.2.2 then some e else b | none => some e) none

/-- A task halted by a divergence stands before the block of the write that met it: what has performed stays performed, what has not
is taken back (R108, R147). -/
def State.rewind (s : State) (a : Agent) (seq : Nat) : State :=
  match s.win a with
  | none => s
  | some w =>
    if w.seq ≠ seq then s
    else
      let mine (x : Access) : Bool := x.agent == a && x.seq == seq && x.kind != .elem && !x.gone
      let undone := (s.accs.filter fun x => mine x && (x.kind == .write || x.kind == .presence)).map (·.slot)
      let w := { w with kept := w.kept.filter fun e => !undone.contains e.1 }
      let s := { s with accs := s.accs.filter fun x => !mine x, kills := s.kills.filter fun m => !(m.agent == a && m.seq == seq) }
      let w' := s.restartWin a w
      (s.releaseClaims a seq).modTask a fun t => { t with win := some w' }

/-- What follows from an attempt to perform a part. Of several parts that fail the lowest byte is reported (R78). -/
def State.afterPerf (s : State) (x : Access) (j : Nat) (u : AUnit) (r : PerfRes) (ok : State → Nat → State) : State :=
  match r with
  | .done s v => ok s v
  | .wait s => s
  | .fail c m =>
    (match s.lowestFail x with
     | some e => s.accFault x e.1 (memDetail (accCode x.op) e.2.1) e.2.2
     | none => s.accFault x c (memDetail (accCode x.op) m) u.va)
  | .full ln key held => (s.setUnit x.id j fun u => { u with st := .logHeld }).logFull ln key (some x) held u.va
  | .diverge ln => (s.diverged ln).rewind x.agent x.seq
  | .pod p _ => s.toPod x j p u.va

/-- Write the parts of one element of a store, all at one point or none (R103). -/
def State.writeMates (s0 s : State) (x : Access) : List Nat → PerfRes
  | [] => .done s 0
  | j :: r =>
    match x.units[j]? with
    | none => .wait s0
    | some u =>
      match s.writeUnit x u with
      | .done s _ => State.writeMates s0 s x r
      | .wait _ => .wait s0
      | e => e

/-- Read the parts of one element of a read at one point (R103), each keeping its bytes. -/
def State.readMates (s : State) (x : Access) : List Nat → PerfRes
  | [] => .done s 0
  | j :: r =>
    match x.units[j]? with
    | none => .wait s
    | some u =>
      match s.readUnit x u with
      | .done s v => State.readMates (s.setUnit x.id j fun u => { u with st := .performed, old := v }) x r
      | e => e

/-- The parts that perform with part `j`: it alone, or with the rest of its element in this package, once all of it may. None:
not yet. -/
def State.together (s : State) (x : Access) (j : Nat) : Option (List Nat) :=
  let js := if (match x.units[j]? with | some u => !x.loc && paPkg u.pa ≠ s.pkgNum | none => true) then []
    else (x.mates j).filter fun i => match x.units[i]? with | some u => x.loc || paPkg u.pa = s.pkgNum | none => false
  if js.all fun i => match x.units[i]? with
      | some u => (u.st == .issued || u.st == .held || u.st == .logHeld) && s.orderFree x u && (x.loc || s.homeReady u.pa)
      | none => false
  then some (j :: js) else none

/-- A part of a store performs, with the rest of its element. -/
def State.writeStep (s : State) (x : Access) (j : Nat) (u : AUnit) : State :=
  match s.together x j with
  | none => s
  | some js => s.afterPerf x j u (s.writeMates s x js) fun s _ =>
      js.foldl (fun s i => match x.units[i]? with | some v => s.unitDone x i v | none => s) s

/-- Stores of the own block below an RMW's wave perform first, in wave order (R108): the state, and whether all have. -/
def State.forceStores (s : State) (x : Access) : State × Bool :=
  let ys := (List.range 33).flatMap fun v => s.accs.filter fun y => y.ownLower x && y.pos = v
  ys.foldl (fun (p : State × Bool) y =>
    if !p.2 then p
    else
      let s := (List.range y.units.length).foldl (fun (s : State) j =>
        match s.acc? y.id with
        | none => s
        | some y =>
          match y.units[j]? with
          | some u => if u.st == .issued && s.orderFree y u then s.writeStep y j u else s
          | none => s) p.1
      (s, (s.acc? y.id).isNone)) (s, true)

/-- An access is answered (R106, R108, R187, R309, R398): its result is kept, its slot has fired, its tokens leave; `rmw` says that
it performed as an RMW, and an acquire at pkg or pod scope advances its die's generation (R71, R104). -/
def State.answerAs (s : State) (rmw : Bool) (x : Access) (tok : Token) (fl : Nat) : State :=
  let s := s.dropAcc x.id
  let s := if x.holdsLater && 4 ≤ x.scope then s.acquireAt x.agent x.scope else s
  let s := s.modWin x.agent fun w =>
    { w.raise fl with kept := w.kept.put x.slot [tok], keptFl := w.keptFl.put x.slot fl, pnr := w.pnr || rmw }
  let s := s.setSlot x.agent x.slot fun sl => { sl with st := .fired }
  let s := match s.fieldsAt x.agent x.baddr x.slot with
    | some (op, f) => s.sendBoth x.agent x.slot op f tok 1
    | none => s
  s.watch x

/-- An access is answered as what it is. -/
def State.answer (s : State) (x : Access) (tok : Token) (fl : Nat) : State := s.answerAs x.isRmw x tok fl

/-- The bytes read, as one number from the lowest address on. -/
def Access.readValue (x : Access) : Nat :=
  x.units.foldl (fun v u => v + u.old * 2 ^ (8 * ((u.va + 2 ^ 64 - x.addr) % 2 ^ 64))) 0

/-- The token of a value an access delivers (R179, R310, R313, R328). -/
def Access.tokenOf (x : Access) (v : Nat) : Token :=
  if 0xB3 ≤ x.op && x.op ≤ 0xB5 then wordTok v
  else if x.vec then { vecTok v with width := x.ty.width } else elemTok x.ty (v % 2 ^ x.ty.width)

/-- The last part of a read answers it. -/
def State.readAll (s : State) (id : Nat) : State :=
  match s.acc? id with
  | some y => if y.units.all fun u => u.st == .performed then s.answer y (y.tokenOf y.readValue) 0 else s
  | none => s

/-- A part of a read has its bytes; the last one answers the access. -/
def State.readDone (s : State) (x : Access) (j v : Nat) : State :=
  (s.setUnit x.id j fun u => { u with st := .performed, old := v }).readAll x.id

/-- Must a part wait until its words are full: on ONCE, and LDW on FILLTRK (R74, R77, R126, R311)? -/
def State.mustHold (s : State) (x : Access) (u : AUnit) : Bool :=
  !x.loc && (u.attr.kind = 1 || (u.attr.kind = 2 && x.op = 0x84)) && paPkg u.pa = s.pkgNum
  && !((wordsOf u.pa u.size).all (s.wordFull x u.attr.kind))

/-- A read's part performs with the rest of its element, or is held. -/
def State.readStep (s : State) (x : Access) (j : Nat) (u : AUnit) : State :=
  if s.mustHold x u then s.holdUnit x j u
  else
    match s.together x j with
    | none => s
    | some js =>
      if js.any fun i => match x.units[i]? with | some v => s.mustHold x v | none => false then s
      else s.afterPerf x j u (s.readMates x js) fun s _ => s.readAll x.id

/-- Does a value satisfy an MWAIT or SEMW (R316, R328)? -/
def Access.satisfied (x : Access) (v : Nat) : Bool :=
  let ty := if x.op = 0xB3 then Ty.i64 else x.ty
  ty.intVal x.data.toNat ≤ ty.intVal v

/-- An MWAIT or SEMW is evaluated (R316): satisfied, or held. Only the evaluation that satisfies it is its access, which a log records
(R145, log entry 118). -/
def State.mwaitStep (s : State) (x : Access) (j : Nat) (u : AUnit) : State :=
  if s.mustHold x u then s.holdUnit x j u
  else
    match s.peekUnit x u with
    | .done _ v =>
      if x.satisfied v then s.afterPerf x j u (s.readUnit x u) fun s v => (s.dropAcc x.id).answer x (x.tokenOf v) 0
      else s.holdUnit x j u
    | r => s.afterPerf x j u r fun s _ => s

/-- The new value of an atomic, none where nothing is written, with AFADD's flags (R313, R314, R328). -/
def State.rmwValue (s : State) (x : Access) (old : Nat) : Option Nat × Nat :=
  let w := x.ty.width
  let rv := x.data.toNat % 2 ^ w
  let lt (a b : Nat) : Bool := x.ty.intVal a < x.ty.intVal b
  match x.op with
  | 0x87 => (some ((old + rv) % 2 ^ w), 0)
  | 0x88 => (some (if lt rv old then rv else old), 0)
  | 0x89 => (some (if lt old rv then rv else old), 0)
  | 0x8A => (some (old &&& rv), 0)
  | 0x8B => (some (old ||| rv), 0)
  | 0x8C => (some (old ^^^ rv), 0)
  | 0x8D => (some rv, 0)
  | 0x8E => (if old = x.exp then some rv else none, 0)
  | 0x8F =>
    let rm := s.resolveRm x.agent .dyn
    let r := floatRes x.ty rm false (s.genOf x.agent x.slot) (addNum rm (Num.decode x.ty old) (Num.decode x.ty rv))
    (some r.bits, r.flags)
  | _ => (some ((old + x.data.toNat) % 2 ^ 64), 0)

/-- An atomic performs (R108, R313): after the stores of lower waves, in one step at its place. -/
def State.rmwNow (s : State) (x : Access) (j : Nat) (u : AUnit) : State :=
  let p := s.forceStores x
  if !p.2 || !p.1.orderFree x u then p.1
  else
    let s := p.1
    let r := if x.loc then
        if s.localUe x.agent u.va u.size then .fail fcPoison 4
        else (s.tileChoice x u.va).perf s fun s =>
          let old := s.localNat x.agent u.va u.size
          .done (match (s.rmwValue x old).1 with | some v => s.localWrite x.agent u.va (leBytes v u.size) | none => s) old
      else s.rmwAt (s.srcAcc x) u.attr u.pa u.size fun old => (s.rmwValue x old).1
    s.afterPerf x j u r fun s old => s.answer x (x.tokenOf old) (s.rmwValue x old).2

/-- An ACAS of another package first asks there for the word: only one that finds its compare value is an RMW, before which the
lower-wave stores of its block perform; the part holds 4 while it asks and 5 once it may go (R306). -/
def State.probe (s : State) (x : Access) (j : Nat) (u : AUnit) : State :=
  match s.planeFor u.pa with
  | some p =>
    let ln := (s.srcOf x.agent).lognum
    let s := s.setUnit x.id j fun u => { u with st := .pod p s.cycle, old := 4 }
    if (s.log ln).isSome then s.horizon ln 3 else s
  | none => s.toPod x j 32 u.va

/-- An atomic's turn has come. A failing ACAS is a read (R109, R306): its own block's stores stay as they are, their bytes
laid over what it reads. One homed in another package asks there first where such stores stand. -/
def State.rmwStep (s : State) (x : Access) (j : Nat) (u : AUnit) : State :=
  if x.op = 0x8E && (x.loc || paPkg u.pa = s.pkgNum) then
    match s.readUnit { x with kind := .mwait } u with
    | .done t old => if old = x.exp % 2 ^ x.ty.width then s.rmwNow x j u else t.answerAs false x (x.tokenOf old) 0
    | r => s.afterPerf x j u r fun s _ => s
  else if x.op = 0x8E && u.old ≠ 5 && s.accs.any (·.ownLower x) then s.probe x j u
  else s.rmwNow x j u

/-! ## WBACK and INVAL (R67, R318) -/

/-- Write back, and with `drop` invalidate, what banks and the die's remote-data cache hold of a physical range. -/
def State.backRange (s : State) (d pa n : Nat) (drop : Bool) : State :=
  (linesOf pa n).foldl (fun s line =>
    let s := match s.pinPa d (line * 128) with
      | some p =>
        let bl := p.va * 512 + line % 512
        let s := s.writeBack p.cell p.tile bl
        if drop then s.modCell p.cell fun c => c.modTile p.tile fun t => { t with lines := t.lines.drop bl } else s
      | none => s
    if drop then s.modDie d fun x => { x with rdc := x.rdc.drop line } else s) s

/-- A part of WBACK or INVAL is done; the last one sends I64 0. -/
def State.rangeStep (s : State) (x : Access) (j : Nat) (u : AUnit) : State :=
  match s.chanBad u.pa u.size with
  | some b => s.accFault x fcPoison (memDetail (accCode x.op) 5) (u.va + (b - u.pa))
  | none =>
  let s := s.backRange x.agent.die u.pa u.size (x.op = 0x94)
  if (linesOf u.pa u.size).any fun l => optB (s.pinPa x.agent.die (128 * l)) fun p => s.backDue p.cell p.tile then s
  else
  let s := s.setUnit x.id j fun u => { u with st := .performed }
  match s.acc? x.id with
  | some y => if y.units.all fun u => u.st == .performed then s.answer y (wordTok 0) 0 else s
  | none => s

/-! ## The tile directory (R92-R94, R343) -/

/-- TDIR, TCLASS and TFILL perform at the home slice of their tile. -/
def State.dirPerf (s : State) (x : Access) (u : AUnit) : PerfRes :=
  let tile := u.pa / 4096
  if paPkg u.pa ≠ s.pkgNum then (match s.planeFor u.pa with | some p => .pod p u.pa | none => .pod 32 u.pa)
  else if (s.chanBad u.pa 4096).isSome then .fail fcPoison 5
  else if x.op = 0x65 then .done s (s.dirEntry tile).toNat
  else if x.op = 0x66 then
    match s.ueAt u.pa 4096 with
    | some m => .fail fcPoison m
    | none =>
      if !u.attr.track then .done s (s.dirEntry tile).toNat
      else
        let e := s.classify tile x.ty
        .done { s with entries := s.entries.put tile e } e.toNat
  else
    let w := x.ty.width
    let v := x.data.toNat % 2 ^ w
    let bs := if w = 4 then List.replicate 4096 (BitVec.ofNat 8 (v * 17)) else (List.replicate (32768 / w) (leBytes v (w / 8))).flatten
    match s.homeWrite (s.srcAcc x) u.attr false u.pa bs with
    | .done s => .done { s with entries := s.entries.put tile (fillEntry u.attr x.ty v) } 0
    | .full ln k held => .full ln k held
    | .wait => .wait s
    | .diverge ln => .diverge ln

/-- A directory instruction performs and is answered. -/
def State.dirStep (s : State) (x : Access) (j : Nat) (u : AUnit) : State :=
  s.afterPerf x j u (s.dirPerf x u) fun s v => s.answer x (wordTok v) 0

/-! ## The step of a part -/

/-- The release part of a FENCE: once every earlier access has performed its token leaves (R315). -/
def State.fenceStep (s : State) (x : Access) : State :=
  if s.accs.any fun y => y.before x then s
  else if !x.committed && !optB (s.win x.agent) (fun w => s.startAccesses x.agent w accessesAtStart) then s
  else
    let s := s.dropAcc x.id
    let tok : Token := { kind := if x.vec then .vector else .word, stop := 0, color := 0, payload := x.data }
    let mine := optB (s.win x.agent) fun w => w.seq == x.seq
    if x.committed then
      let s := x.outs.foldl (fun s o =>
        match x.agent, (s.task x.agent).outCircuit o.chan with
        | .task d p _, some c =>
          let s := s.latchPut (cellKey d p) (64 * 4 + c) o.tok
          (match o.frees with | some col => s.freeColour (s.regionOf x.agent) col | none => s)
        | _, _ => s) s
      match mine, s.fieldsAt x.agent x.baddr x.slot with
      | true, some (op, f) => if f.ta.isReg then s.send x.agent x.slot op f f.ta tok 1 else s
      | _, _ => s
    else
      let s := s.setSlot x.agent x.slot fun sl => { sl with st := .fired }
      match s.fieldsAt x.agent x.baddr x.slot with
      | some (op, f) => if f.ta.isSlot || f.ta.isReg then s.send x.agent x.slot op f f.ta tok 1 else s
      | none => s

/-- May the parts of an access perform: all have issued, and a store's block has committed? -/
def Access.mayPerform (x : Access) : Bool := x.allIssued && (x.committed || !(x.kind == .write || x.kind == .presence))

end Sys2Proof.Machine
end

