-- ==== Sys2Proof/Machine/Ring.lean ====
section
/-! DEFINITION. Rings in FIFO tiles and in memory (R61-R63, R319-R321). -/

namespace Sys2Proof.Machine

/-- The counters of a ring (R61, R320): `free` is what remains of `count`. -/
structure RingSt where
  held : Nat
  filled : Nat
  count : Nat
  head : Nat
deriving DecidableEq, Repr

/-- FREE (R61). -/
def RingSt.free (r : RingSt) : Nat := r.count - r.held - r.filled
/-- The tail slot (R320). -/
def RingSt.tail (r : RingSt) : Nat := (r.head + r.filled) % max 1 r.count
/-- The status word (R63). -/
def RingSt.status (r : RingSt) : Nat := r.held * 2 ^ 32 + r.filled * 2 ^ 16 + r.free

/-- What an operation does to a ring (R61, R62): the counters after it, the slot it writes or reads, and its result
where that is no slot's contents. None: it waits. -/
structure RingMove where
  st : RingSt
  slot : Option Nat
  result : Nat
deriving DecidableEq, Repr

/-- RPUT, RGET, RFREE and RSTAT on the counters (R61-R63). -/
def ringMove (op n : Nat) (r : RingSt) : Option RingMove :=
  if op = 0x95 then
    (if r.free = 0 then none else some { st := { r with filled := r.filled + 1 }, slot := some r.tail, result := r.tail })
  else if op = 0x96 then
    (if r.filled = 0 then none
     else some { st := { r with filled := r.filled - 1, held := r.held + 1, head := (r.head + 1) % max 1 r.count }
                 slot := some r.head, result := 0 })
  else if op = 0x97 then
    let m := min n r.held
    let r' := { r with held := r.held - m }
    some { st := r', slot := none, result := r'.free * 65536 + m }
  else some { st := r, slot := none, result := r.status }

/-- The counters of a ring header, if it is valid (R320): 128 bytes as a number. `size` is the instruction's data size
in bytes, 0 where it has none. -/
def ringHeader (v size : Nat) : Option RingSt :=
  let w0 := v % 2 ^ 64
  let w1 := v / 2 ^ 64 % 2 ^ 64
  let r : RingSt := { held := fieldN w0 47 32, filled := fieldN w0 31 16, count := fieldN w1 59 45 + 1, head := fieldN w1 31 16 }
  if w0 / 2 ^ 48 = 0 && v / 2 ^ 128 = 0 && fieldN w1 44 32 = 0 && fieldN w1 63 60 ≤ 8 && fieldN w1 59 45 ≠ 0
      && r.held + r.filled + fieldN w0 15 0 = r.count && r.head < r.count && fieldN w1 15 0 = r.tail
      && (size = 0 || 2 ^ fieldN w1 63 60 = size) then some r
  else none

/-- The two words of a header with new counters (R320). -/
def ringWords (v : Nat) (r : RingSt) : Nat :=
  r.status + 2 ^ 64 * (fieldN v 127 96 * 2 ^ 32 + r.head * 2 ^ 16 + r.tail)

/-- What a ring operation finds. -/
inductive RingRes where
  | hold
  | bad (fclass detail addr : Nat)
  | perf (r : PerfRes)

/-- The data size of a ring instruction, 0 where it has none (R61, R320). -/
def Access.slotBytes (x : Access) : Nat := if x.op = 0x95 || x.op = 0x96 then dataBytes x.ty x.vec else 0

/-- Did a ring operation fire at a tile before another: in an earlier cycle, or in one cycle in the older block, or there in a lower slot
(R61)? -/
def Access.firedFirst (y x : Access) : Bool :=
  y.born < x.born || (y.born = x.born && (y.seq < x.seq || (y.seq = x.seq && y.slot < x.slot)))

/-- Is an operation's turn at a tile not come: one that fired before it there has not performed, unless it waits for
room or data (R61)? Two that wait alike go in their order. None performs in the cycle in which it fires: others may still fire there. -/
def State.ringBehind (s : State) (x : Access) (key n : Nat) : Bool :=
  Nat.ble s.cycle x.born ||
  s.accs.any fun y => y.kind == .ring && y.loc && y.firedFirst x && s.ringTile y == some (key, n)
    && y.units.any fun u => u.st == .issued || (u.st == .held && y.op = x.op)

/-- A ring operation on a FIFO tile (R61, R62, R319). -/
def State.ringLocal (s : State) (x : Access) : RingRes :=
  match s.ringTile x with
  | none => .bad fcNotMapped (trDetail accRmw 0 8) x.addr
  | some (key, n) =>
    if s.ringBehind x key n then .perf (.wait s)
    else
      let t := (s.cell key).tile n
      let sz := 2 ^ field t.desc 59 56
      let r : RingSt := { held := t.held, filled := t.filled, count := field t.desc 55 41 + 1, head := t.head }
      match ringMove x.op (x.data.toNat % 65536) r with
      | none => .hold
      | some m =>
        match (if x.op = 0x96 then m.slot else none).bind fun k => ((linesOf (k * sz) sz).find? t.poison.contains).map fun l => max (k * sz) (128 * l) with
        | some off => .bad fcPoison (memDetail (accCode x.op) 4) (x.addr / 65536 * 65536 + off)
        | none =>
        .perf ((s.tileChoice x x.addr).perf s fun s =>
          let val := match m.slot with
            | some k => leNat ((List.range sz).map fun i => memGet t.mem (k * sz + i))
            | none => m.result
          let mem := match m.slot with
            | some k => if x.op = 0x95 then memWrite t.mem (k * sz) (leBytes x.data.toNat sz) else t.mem
            | none => t.mem
          let s := s.modCell key fun c => c.modTile n fun y =>
            { y with mem := mem, filled := m.st.filled, held := m.st.held, head := m.st.head
                     poison := match m.slot with | some k => if x.op = 0x95 then unmarked y.poison (k * sz) sz else y.poison | none => y.poison }
          .done s (if x.op = 0x96 then val else m.result))

/-- Translations of the parts of a slot, in order, or the first failure (R44, R321). -/
def State.slotParts (s : State) (x : Access) : List (Nat × Nat) → Except (Nat × Nat × Nat) (List (Nat × Attr × Nat)) × State
  | [] => (.ok [], s)
  | (va, n) :: r =>
    match s.translate x.agent accRmw va true with
    | (.bad c d, s) => (.error (c, d, va), s)
    | (.miss, s) => (.error (fcNotMapped, trDetail accRmw 0 3, va), s)
    | (.hit pa attr, s) =>
      if attr.kind = 1 then (.error (fcAlign, memDetail accRmw 2, va), s)
      else
        match State.slotParts s x r with
        | (.ok l, s) => (.ok ((pa, attr, n) :: l), s)
        | e => e

/-- Read parts one after the other, the first lowest in the value. -/
def State.readParts (s : State) (src : Src) : List (Nat × Attr × Nat) → PerfRes
  | [] => .done s 0
  | (pa, attr, n) :: r =>
    match s.readSpan src attr false pa n with
    | .done s v =>
      match State.readParts s src r with
      | .done s v' => .done s (v + 2 ^ (8 * n) * v')
      | e => e
    | e => e

/-- Write a value over parts, all of them or none. -/
def State.writeParts (s0 s : State) (src : Src) (v : Nat) : List (Nat × Attr × Nat) → PerfRes
  | [] => .done s 0
  | (pa, attr, n) :: r =>
    match s.writeSpan src attr false pa (leBytes v n) with
    | .done s _ => State.writeParts s0 s src (v / 2 ^ (8 * n)) r
    | .wait _ => .wait s0
    | e => e

/-- Why a slot's parts cannot be moved: class, cause and the lowest byte concerned (R78). -/
def State.slotFail (s : State) (src : Src) (put : Bool) (ps : List ((Nat × Nat) × (Nat × Attr × Nat))) : Option (Nat × Nat × Nat) :=
  ps.findSome? fun p => (lineCuts p.2.1 p.2.2.2).findSome? fun q =>
    match (if put then s.writeSpan src p.2.2.1 false q.1 (List.replicate q.2 0) else s.readSpan src p.2.2.1 false q.1 q.2) with
    | .fail c m => some (c, m, p.1.1 + (q.1 - p.2.1))
    | _ => none

/-- Is a header taken: an operation on it has its slot on the way to another package and is not complete, or one of a higher agent
reached the place in this cycle and has performed (R321)? -/
def State.ringTaken (s : State) (x : Access) (u : AUnit) : Bool :=
  s.accs.any (fun y => y.kind == .ring && !y.loc && y.id != x.id && y.units.any fun v =>
    v.pa / 128 = u.pa / 128 && (match v.st with | .pod _ _ => paPkg v.pa = s.pkgNum | _ => false))
  || optB (s.ringDone.find (u.pa / 128)) fun e => e.1 = s.cycle && x.agent.rank < e.2

/-- An operation on a header has performed in this cycle (R321). -/
def State.ringMark (s : State) (x : Access) (u : AUnit) : State :=
  { s with ringDone := Table.put (s.ringDone.filter fun e => e.2.1 = s.cycle) (u.pa / 128) (s.cycle, x.agent.rank) }

/-- A ring operation on a header in memory, its slot transfer included (R320, R321); `got` is what another package
answered for the slot, if it was asked. RSTAT, which forces no store, reads its own block's bytes where they lie in the header
(R107). -/
def State.ringGlobal (s : State) (x : Access) (u : AUnit) (got : Option Nat) : RingRes :=
  let src := s.srcAcc x
  let own := s.ownBytes x u
  match s.readSpan src u.attr false u.pa 128 with
  | .done s v0 =>
    let v := overlay own v0
    match ringHeader v x.slotBytes with
    | none => .hold
    | some r =>
      match ringMove x.op (x.data.toNat % 65536) r with
      | none => .hold
      | some m =>
        let finish (s : State) (res : Nat) : PerfRes :=
          if x.op = 0x98 then .done s res
          else
            match s.writeAt src u.attr false u.pa (leBytes (ringWords v m.st) 16) with
            | .done s _ => .done s res
            | e => e
        match m.slot, got with
        | none, _ => .perf (finish s m.result)
        | some _, some v => .perf (finish s (if x.op = 0x95 then m.result else v))
        | some k, none =>
          let n := x.slotBytes
          let va := (x.addr + 128 + k * n) % 2 ^ 64
          match s.slotParts x (cutBy va n (min 8 n)) with
          | (.error (c, d, a), _) => .bad c d a
          | (.ok ps, s) =>
            match s.slotFail src (x.op = 0x95) ((cutBy va n (min 8 n)).zip ps) with
            | some (c, m, a) => .bad c (memDetail (accCode x.op) m) a
            | none =>
            if x.op = 0x95 then
              match s.writeParts s src x.data.toNat ps with
              | .done s _ => .perf (finish s m.result)
              | e => .perf e
            else
              match s.readParts src ps with
              | .done s v => .perf (finish s v)
              | e => .perf e
  | r => .perf r

/-- The token of a ring operation (R61-R63, R319). -/
def Access.ringToken (x : Access) (v : Nat) : Token := if x.op = 0x96 then x.tokenOf v else wordTok v

/-- A ring operation performs, or is held until its ring changes (R108, R321). -/
def State.ringStep (s : State) (x : Access) (j : Nat) (u : AUnit) : State :=
  let p := if x.isRmw then s.forceStores x else (s, true)
  if !p.2 then p.1
  else
    let s := p.1
    if !s.orderFree x u || (!x.loc && s.ringTaken x u) then s
    else
    match (if x.loc then s.ringLocal x else s.ringGlobal x u none) with
    | .hold => if u.st == .held then s else s.holdUnit x j u
    | .bad c d a => s.accFault x c d a
    | .perf r => s.afterPerf x j u r fun s v => (if x.loc then s else s.ringMark x u).answer x (x.ringToken v) 0

/-- A part of an access performs, or is held at its place (R66, R70, R305-R321). -/
def State.performUnit (s : State) (x : Access) (j : Nat) (u : AUnit) : State :=
  if isDir x.op then s.dirStep x j u
  else
  match x.kind with
  | .read => s.readStep x j u
  | .write => s.writeStep x j u
  | .presence => s.afterPerf x j u (s.writeUnit x u) fun s _ => s.unitDone x j u
  | .rmw => s.rmwStep x j u
  | .mwait => s.mwaitStep x j u
  | .ring => s.ringStep x j u
  | .range => s.rangeStep x j u
  | .fence | .elem => s

/-- A part that has issued performs when its task's order lets it. -/
def State.tryPerform (s : State) (x : Access) (j : Nat) (u : AUnit) : State :=
  if x.mayPerform && s.turnCome x u && (x.loc || s.homeReady u.pa) then s.performUnit x j u else s

end Sys2Proof.Machine
end

