-- ==== Sys2Proof/Machine/Memops.lean ====
section
/-! DEFINITION. The memory instructions 80-98 (R302-R321) and what happens to their accesses (R39, R69, R70, R74, R123,
R125, R138). -/

namespace Sys2Proof.Machine

/-- LD (R310). -/
def execLd (f : FmtM) (s : State) : Host.Outcome State Fault Refusal := fireMem s 0x80 f
/-- ST (R310). -/
def execSt (f : FmtM) (s : State) : Host.Outcome State Fault Refusal := fireMem s 0x81 f
/-- LDV (R310). -/
def execLdv (f : FmtM) (s : State) : Host.Outcome State Fault Refusal := fireMem s 0x82 f
/-- STV (R310). -/
def execStv (f : FmtM) (s : State) : Host.Outcome State Fault Refusal := fireMem s 0x83 f
/-- LDW (R311). -/
def execLdw (f : FmtM) (s : State) : Host.Outcome State Fault Refusal := fireMem s 0x84 f
/-- STF (R311). -/
def execStf (f : FmtM) (s : State) : Host.Outcome State Fault Refusal := fireMem s 0x85 f
/-- CLR (R312). -/
def execClr (f : FmtM) (s : State) : Host.Outcome State Fault Refusal := fireMem s 0x86 f
/-- AADD (R313). -/
def execAadd (f : FmtM) (s : State) : Host.Outcome State Fault Refusal := fireMem s 0x87 f
/-- AMIN (R313). -/
def execAmin (f : FmtM) (s : State) : Host.Outcome State Fault Refusal := fireMem s 0x88 f
/-- AMAX (R313). -/
def execAmax (f : FmtM) (s : State) : Host.Outcome State Fault Refusal := fireMem s 0x89 f
/-- AAND (R313). -/
def execAand (f : FmtM) (s : State) : Host.Outcome State Fault Refusal := fireMem s 0x8A f
/-- AOR (R313). -/
def execAor (f : FmtM) (s : State) : Host.Outcome State Fault Refusal := fireMem s 0x8B f
/-- AXOR (R313). -/
def execAxor (f : FmtM) (s : State) : Host.Outcome State Fault Refusal := fireMem s 0x8C f
/-- ASWP (R313). -/
def execAswp (f : FmtM) (s : State) : Host.Outcome State Fault Refusal := fireMem s 0x8D f
/-- ACAS (R313). -/
def execAcas (f : FmtM) (s : State) : Host.Outcome State Fault Refusal := fireMem s 0x8E f
/-- AFADD (R314). -/
def execAfadd (f : FmtM) (s : State) : Host.Outcome State Fault Refusal := fireMem s 0x8F f

/-- Does an ordering have a release part (R113)? -/
def Ord.isRel (o : Ord) : Bool := o == .rel || o == .ar || o == .sc
/-- Does an ordering have an acquire part (R113)? -/
def Ord.isAcq (o : Ord) : Bool := o == .acq || o == .ar || o == .sc

/-- The access that stands for the release part of a FENCE (R315). -/
def State.openFence (s : State) (a : Agent) (i : Nat) (f : FmtM) (tok : Token) : State :=
  match s.win a with
  | none => s
  | some w =>
    let acc : Access :=
      { id := s.nextAcc, agent := a, seq := w.seq, baddr := w.baddr, log := false, wave := some f.wv.toNat, slot := i, op := 0x90
        kind := .fence, ty := .i8, vec := tok.kind == .vector, sc := f.sc.code, ord := f.ord, loc := false, addr := 0
        data := tok.payload, exp := 0, committed := false, outs := [], units := [] }
    if (s.accs.any fun y => y.before acc) || !s.startAccesses a w accessesAtStart then { s with accs := s.accs ++ [acc], nextAcc := s.nextAcc + 1 } else s

/-- FENCE (R113, R315): the acquire part takes effect at the firing. With earlier accesses outstanding the release part
stands as an access of its own, which sends the token of a slot or register target; behind stores of its own block a register's
token comes with their performing at the commit, and a channel's token leaves through the commit. -/
def execFence (f : FmtM) (s : State) : Host.Outcome State Fault Refusal :=
  fireWith s 0x90 (.m f) fun s a i sl =>
    let s := if f.ord.isAcq then s.acquireAt a f.sc.code else s
    let tok := sl.tok .l
    let n := s.accs.length
    let s := if f.ord.isRel then s.openFence a i f tok else s
    let stores := optB (s.win a) fun w => s.accs.any fun x => x.agent == a && x.seq == w.seq && (x.kind == .write || x.kind == .presence)
    let late := n < s.accs.length && (f.ta.isSlot || f.ta.isReg)
    if late && f.ta.isReg && stores then s
    else if late then s.setSlot a i fun sl => { sl with st := .pending }
    else s.send a i 0x90 (.m f) f.ta tok 1

/-- MWAIT (R316). -/
def execMwait (f : FmtM) (s : State) : Host.Outcome State Fault Refusal := fireMem s 0x91 f

/-- PREF (R317): a hint that brings a line nearer; any failure drops it. -/
def execPref (f : FmtM) (s : State) : Host.Outcome State Fault Refusal :=
  fireWith s 0x92 (.m f) fun s a _ sl =>
    match s.translate a accPref (memAddr f (sl.tok .l)) true with
    | (.hit pa attr, s) =>
      (match s.placeOf (s.srcOf a) pa with
       | .bank c t line _ => s.bankAlloc c t line
       | .rdc => if attr.kind = 0 && a.die < 64 then s.rdcRequest a.die (pa / 128) else s
       | _ => s)
    | (_, _) => s

/-- WBACK (R318). -/
def execWback (f : FmtM) (s : State) : Host.Outcome State Fault Refusal := fireMem s 0x93 f
/-- INVAL (R318). -/
def execInval (f : FmtM) (s : State) : Host.Outcome State Fault Refusal := fireMem s 0x94 f
/-- RPUT (R61, R319-R321). -/
def execRput (f : FmtM) (s : State) : Host.Outcome State Fault Refusal := fireMem s 0x95 f
/-- RGET (R61, R319-R321). -/
def execRget (f : FmtM) (s : State) : Host.Outcome State Fault Refusal := fireMem s 0x96 f
/-- RFREE (R62, R319-R321). -/
def execRfree (f : FmtM) (s : State) : Host.Outcome State Fault Refusal := fireMem s 0x97 f
/-- RSTAT (R63, R319-R321). -/
def execRstat (f : FmtM) (s : State) : Host.Outcome State Fault Refusal := fireMem s 0x98 f

/-! ## What happens to accesses -/

/-- What an access with no parts comes to: a CLR of no bytes has fired and is done; WBACK and INVAL of none complete (R312, R318). -/
def State.emptyStep (s : State) (x : Access) : State :=
  if !s.mayIssue x then s
  else if x.kind == .range then s.answer x (wordTok 0) 0
  else (s.settleIssue x.id).dropAcc x.id

/-- HOME_ACCESS (R43, R44, R66, R70, R305-R307): a part of an access issues, or performs at its place. -/
def execHomeAccess (acc unit : Nat) (s : State) : Host.Outcome State Fault Refusal :=
  match s.acc? acc with
  | none => .next s
  | some x =>
    if x.kind == .fence then .next (s.fenceStep x)
    else if x.kind == .elem then .next s
    else if x.units.isEmpty then .next (s.emptyStep x)
    else
      match x.units[unit]? with
      | none => .next s
      | some u =>
        match u.st with
        | .waiting => if s.mayIssue x then .next (s.issueUnit x unit u false) else .next s
        | .issued => .next (s.tryPerform x unit u)
        | _ => .next s

/-- What becomes of another package's claim that stood here in its order: granted or refused, it is acknowledged. -/
def State.claimAnswer (s : State) (id : Nat) : State :=
  match s.acc? id with
  | some x =>
    if x.op ≠ opClaim then s
    else
      match x.units[0]? with
      | some u =>
        let ack (data c : Nat) : State := { s.dropAcc id with podAcks := s.podAcks ++ [{ kind := x.exp, pa := u.pa, data := data, fclass := c }] }
        (match u.st with
         | .issued => ack 0 0
         | .faulted c d => ack (d % 64) c
         | _ => s)
      | none => s
  | none => s

/-- CLAIM_RESOLVE (R73, R125): with no claim on a word left, those that wait are judged again in order of arrival. -/
def execClaimResolve (w : Nat) (s : State) : Host.Outcome State Fault Refusal :=
  if s.claims.any fun c => c.word == w then .next s
  else
    let waits := s.accs.flatMap fun x =>
      if x.claims && !x.loc then
        (List.range x.units.length).filterMap fun j =>
          match x.units[j]? with
          | some u => if u.st == .held && u.pa / 8 == w then some (u.old, x.id, j) else none
          | none => none
      else []
    let turns := (List.range (waits.foldl (fun n e => max n (e.1 + 1)) 0)).flatMap fun t => waits.filter fun e => e.1 == t
    .next (turns.foldl (fun s e =>
      match s.acc? e.2.1 with
      | none => s
      | some x =>
        match x.units[e.2.2]? with
        | some u => if x.kind == .elem then (s.claimUnit x e.2.2 u).claimAnswer x.id else (s.claimUnit x e.2.2 u).settleIssue x.id
        | none => s) s)

/-- HELD_READ_RELEASE (R74, R76): a held read returns once its word is full. -/
def execHeldReadRelease (acc unit : Nat) (s : State) : Host.Outcome State Fault Refusal :=
  match s.acc? acc with
  | none => .next s
  | some x =>
    match x.units[unit]? with
    | some u => if x.kind == .read && u.st == .held && !s.mustHold x u then .next (s.tryPerform x unit u) else .next s
    | none => .next s

/-- MWAIT_EVALUATE (R316): a held MWAIT or SEMW is evaluated again; one that compared a value of its own block never
is. -/
def execMwaitEvaluate (acc : Nat) (s : State) : Host.Outcome State Fault Refusal :=
  match s.acc? acc with
  | none => .next s
  | some x =>
    match x.units[0]? with
    | some u =>
      if x.kind == .mwait && u.st == .held && (s.ownBytes x u).all Option.isNone then .next (s.tryPerform x 0 u) else .next s
    | none => .next s

/-- SLICE_RETRY (R74): a request that a full table returned is sent again after its 64 cycles. -/
def execSliceRetry (acc unit : Nat) (s : State) : Host.Outcome State Fault Refusal :=
  match s.acc? acc with
  | none => .next s
  | some x =>
    match x.units[unit]? with
    | some u =>
      match u.st with
      | .retry t =>
        if s.cycle < t then .next s
        else if x.kind == .write then .next ((s.claimUnit x unit u).settleIssue x.id)
        else
          let s := s.setUnit acc unit fun u => { u with st := .issued }
          (match s.acc? acc with
           | some x => .next (s.tryPerform x unit { u with st := .issued })
           | none => .next s)
      | _ => .next s
    | none => .next s

/-- RING_WAIT_RESUME (R61, R321): a waiting RPUT or RGET proceeds once its ring has room or data. -/
def execRingWaitResume (acc : Nat) (s : State) : Host.Outcome State Fault Refusal :=
  match s.acc? acc with
  | none => .next s
  | some x =>
    match x.units[0]? with
    | some u => if x.kind == .ring && u.st == .held then .next (s.tryPerform x 0 u) else .next s
    | none => .next s

/-- Is a part of an access held for log room? -/
def State.logHeldAt (s : State) (acc unit : Nat) : Bool :=
  match s.acc? acc with
  | some x => (match x.units[unit]? with | some u => u.st == .logHeld | none => false)
  | none => false

/-- Does a held part wait for RESUME after a LOG_FULL? -/
def State.unitTrapped (s : State) (acc unit : Nat) : Bool :=
  match s.acc? acc with
  | some x => optB x.units[unit]? fun u => s.writeTrapped x u.pa
  | none => false

/-- LOG_HELD_WRITE (R138): a held write appends and performs in one step once its sub-log has room, under the policy TRAP when RESUME
has answered the LOG_FULL that tells of it (R387). One that meets a full sub-log again makes the policy act again. -/
def execLogHeldWrite (acc unit : Nat) (s : State) : Host.Outcome State Fault Refusal :=
  if !s.logHeldAt acc unit || s.unitTrapped acc unit then .next s
  else
    let t := s.setUnit acc unit fun u => { u with st := .issued }
    match t.acc? acc with
    | none => .next s
    | some x =>
      match x.units[unit]? with
      | none => .next s
      | some u =>
        let t := t.tryPerform x unit u
        if t.logHeldAt acc unit then .next t
        else
          let ln := (s.srcOf x.agent).lognum
          if t.accs.any fun y => (t.srcOf y.agent).lognum = ln && y.units.any fun u => u.st == .logHeld then .next t
          else .next (t.openLogGate ln)

/-- A bank line with a fill's bytes where it has none valid, and the mark its home line or tile brings with them (R69, R82). -/
def BankLine.fillWith (l : BankLine) (byte : Nat → Byte) (marked : Bool) : BankLine :=
  let l' := (List.range 128).foldl (fun (l : BankLine) i => if l.valid.getLsbD i then l else l.putByte i (byte i) false) l
  { l' with filling := false, acc := none, poison := l.poison || (marked && l.valid != BitVec.allOnes 128) }

/-- A fill from another package (R69, R437): asked for once, then laid when every part has been answered. With no plane left it
waits for one, and the loads that need it find the link down (R389). What the home refuses fails the loads that need the line: a
poisoned line comes with its mark (R82), any other failure stands until RESUME has the fill asked for again. -/
def State.fillFrom (s : State) (cell tile line : Nat) (l : BankLine) (pa : Nat) : State :=
  let put (s : State) (l : BankLine) : State := s.modCell cell fun c => c.modTile tile fun t => { t with lines := t.lines.put line l }
  match l.acc with
  | none =>
    if s.backDue cell tile || (s.planeFor pa).isNone then s
    else put (s.bankPod opFill cell tile pa ((List.range 16).map fun i => (8 * i, 8, 0))) { l with acc := some s.nextAcc }
  | some id =>
    match s.acc? id with
    | none => put s { l with acc := none }
    | some x =>
      let data (i : Nat) : Byte := (((x.units[i / 8]?).map fun u => leBytes u.old 8).getD []).getD (i % 8) 0
      let fails := x.units.filterMap fun u => match u.st with | .faulted c d => some (c, d % 16) | _ => none
      if !(x.units.all fun u => u.st == .performed || u.bad) then s
      else
        match fails.find? fun e => !(e.1 = fcPoison && e.2 = 4), fails with
        | some e, _ => put (s.dropAcc id) (if e.1 = fcLinkDown then { l with acc := none } else { l with acc := none, bad := some e })
        | none, [] => put (s.dropAcc id) (l.fillWith data false)
        | none, _ => put (s.dropAcc id) (l.fillWith data true)

/-- A bank line with the bytes of its home in the places that are not valid yet, and the mark of the home line (R69, R82). -/
def State.fillBank (s : State) (cell tile line : Nat) (l : BankLine) (pa conf : Nat) : State :=
  let l' := l.fillWith (fun i => s.byteAs conf (pa + i)) (s.poison.contains (pa / 128))
  s.modCell cell fun c => c.modTile tile fun t => { t with lines := t.lines.put line l' }

/-- BANK_FILL (R67, R69): a fill writes the bytes of a line that are not yet valid, once the links to its home stand. -/
def execBankFill (cell tile line : Nat) (s : State) : Host.Outcome State Fault Refusal :=
  match ((s.cell cell).tile tile).lines.find line, s.bankHome cell tile line with
  | some l, some (pa, attr) =>
    if !l.filling || l.bad.isSome then .next s
    else
      if paPkg pa ≠ s.pkgNum then .next (s.fillFrom cell tile line l pa)
      else if (s.crossing (cell / 256) (paDie pa)).isSome || !s.homeReady pa then .next s
      else .next (s.fillBank cell tile line l pa attr.conf)
  | _, _ => .next s

/-- A copy of a line with the bytes of its home laid under those that the die has stored since the request, and the mark of the
home line where not all of it has been (R71, R82, R123). -/
def State.fillCopy (s : State) (die line : Nat) (r : RdcLine) : State :=
  let data := (List.range 128).foldl (fun (x : BitVec 1024) i =>
    if r.laid.getLsbD i then x
    else (x &&& ~~~((0xFF : BitVec 1024) <<< (8 * i))) ||| ((memGet s.mem (line * 128 + i)).setWidth 1024 <<< (8 * i))) r.data
  let poison := r.poison || (s.poison.contains line && r.laid != BitVec.allOnes 128)
  s.modDie die fun x => { x with rdc := x.rdc.put line { r with data := data, filling := false, poison := poison } }

/-- RDC_FILL (R71, R82, R123): a copy of a line arrives. -/
def execRdcFill (die line : Nat) (s : State) : Host.Outcome State Fault Refusal :=
  match (s.die die).rdc.find line with
  | some r =>
    if r.filling then .next (s.fillCopy die line r) else .next s
  | none => .next s

/-- WALK_COMPLETE (R39, R46): a walk finishes; the part goes on with the leaf it found, or fails. -/
def execWalkComplete (acc unit : Nat) (s : State) : Host.Outcome State Fault Refusal :=
  match s.acc? acc with
  | none => .next s
  | some x =>
    match x.units[unit]? with
    | some u => if u.st == .walking then .next (s.issueUnit x unit u true) else .next s
    | none => .next s

end Sys2Proof.Machine
end

