-- ==== Sys2Proof/Machine/Elements.lean ====
section
/-! DEFINITION. The element accesses that the matrix unit, the stream unit and the stream ports make
(R95-R97, R103, R330-R332, R338, R347-R354, R457). -/

namespace Sys2Proof.Machine

/-! ## One element -/

/-- What an element access comes to: done; to be tried again; a fault at an address, with what the attempt changed in its TLB
(R46); no log room for a word; a divergence; another package, which the parts name, or with no plane or link (32 or more) none; a claim
that others hold first (R73); a word that is not full yet, its address and length (R74). -/
inductive ElemRes where
  | ok (s : State) (v : Nat)
  | wait (s : State)
  | bad (s : State) (fclass detail addr : Nat)
  | full (ln key held : Nat)
  | diverge (ln : Nat)
  | pod (plane : Nat) (us : List AUnit)
  | claim (s : State) (va pa : Nat)
  | hold (s : State) (va pa n : Nat)

/-- May a copy in the remote-data cache serve a read: no, yes, or only one that is there already, as a class-tagged read takes
it (R71, R96)? -/
inductive Copied where | no | yes | tagged
deriving DecidableEq, Repr

/-- A part of an element after translation: its address, its physical address, attributes and length. -/
structure ElemPart where
  va : Nat
  pa : Nat
  attr : Attr
  n : Nat
deriving DecidableEq, Repr

/-- How an element access translates and whom it is accounted to: TLB port key, CFG values, access code, source, the
region whose bank ranges apply by VA (0 for none), the agent and block whose earlier accesses it follows, the slot of its instruction, whether
it is a release, which follows all of them (R307, R334), its scope, and the ranges, each with its start and length, that a copy fills
from the start on (R76). -/
structure Via where
  port : Nat
  cfg : Cfg
  acc : Nat
  src : Src
  region : Nat
  agent : Agent
  seq : Nat
  slot : Nat := 0
  rel : Bool
  sc : Nat
  cover : List (Nat × Nat) := []
deriving DecidableEq, Repr

/-- Has the accessor already written what stands before a part in its first word? -/
def Via.joins (v : Via) (p : ElemPart) : Bool := v.cover.any fun r => r.1 ≤ p.va / 8 * 8 && p.va < r.1 + r.2

/-- Does an instruction at the start of the same block, which holds back its accesses, wait (R323, R334)? The order among the
operations that stand at one block's start is not given: one that has fired goes first (DESIGN CHOICE, log entry 100). -/
def State.startWaits (s : State) (a : Agent) (seq : Nat) : Bool :=
  match s.win a with
  | some w => w.seq = seq && (List.range w.slots.length).any fun i =>
      match w.slots[i]?, s.fieldsAt a w.baddr i with
      | some sl, some (op, _) => sl.st == .pending && (op = 0xB0 || op = 0xB2 || op = 0xB3 || op = 0xB5 || op = 0xC2)
      | _, _ => false
  | none => false

/-- Must an element wait for an access of an earlier block of its task (R307), or for the start of its own? -/
def State.elemBehind (s : State) (v : Via) (rel loc : Bool) (pa n : Nat) : Bool :=
  s.startWaits v.agent v.seq ||
  s.accs.any fun y => y.agent == v.agent && y.seq < v.seq && y.kind != .elem &&
    (rel || y.holdsLater || (y.kind == .fence && v.acc != accRead && v.acc != accPortRd)
     || (y.loc == loc && y.kind != .fence && y.kind != .range
          && y.units.any fun u => u.st != .performed && (u.raw || (u.pa < pa + n && pa < u.pa + u.size))))

/-- Translate an element's address, walking at once. -/
def State.elemLook (s : State) (v : Via) (va : Nat) : Look × State :=
  let pin := match s.regions.find v.region with | some r => r.pinVa va | none => none
  match pin with
  | some p => (.hit (p.pa * 65536 + va % 65536) p.attr, s)
  | none => s.lookPort v.port v.cfg v.acc va

/-- What translating the parts of an element comes to (R44): none performs unless all translate. -/
inductive Looked where
  | ok (s : State) (ps : List ElemPart)
  | wait (s : State)
  | bad (s : State) (fclass detail addr : Nat)

/-- Translate parts in order of address. -/
def State.lookParts (s : State) (v : Via) : List (Nat × Nat) → Looked
  | [] => .ok s []
  | (va, n) :: r =>
    match s.elemLook v va with
    | (.bad c d, s) => .bad s c d va
    | (.miss, s) => .wait s
    | (.hit pa attr, s) =>
      match State.lookParts s v r with
      | .ok s ps => .ok s ({ va := va, pa := pa, attr := attr, n := n } :: ps)
      | e => e

/-- A result of performing as a result of an element; a failure names the lowest byte that fails (R78). -/
def PerfRes.elem (r : PerfRes) (s : State) (acc : Nat) (p : ElemPart) : ElemRes :=
  match r with
  | .done s v => .ok s v
  | .wait s => .wait s
  | .fail c m =>
    let off := ((lineCuts p.pa p.n).find? fun q => if m = 5 then s.chanFailed q.1 else (s.ueAt q.1 q.2).isSome).map fun q => q.1 - p.pa
    .bad s c (memDetail acc m) (p.va + off.getD 0)
  | .full ln k held => .full ln k held
  | .diverge ln => .diverge ln
  | .pod p _ => .pod p []

/-- The parts of an element (R103): it performs at one point, cut only at a page. -/
def elemParts (va n : Nat) : List (Nat × Nat) := segsGo 2 va n

/-- The port and the TLB entry that an element access has just been translated through (R52); none for a pinned range or a physical
address. -/
def State.viaEntry (s : State) (v : Via) (va : Nat) : Option (Nat × TlbEntry) :=
  let pinned := optB (s.regions.find v.region) fun r => (r.pinVa va).isSome
  if pinned || v.cfg.phys then none else (tlbFind (s.port v.port).tlb v.cfg.asid va).map fun e => (v.port, e)

/-- Does a part lie in another package, and not in a bank of the die? -/
def State.isFar (s : State) (v : Via) (p : ElemPart) : Bool := s.placeOf v.src p.pa = .pod

/-- The parts of an access that goes to another package with some of them: those are on their way, the others wait for them. -/
def State.farUnits (s : State) (v : Via) : Nat → List ElemPart → List AUnit
  | _, [] => []
  | val, p :: r =>
    { va := p.va, size := p.n, st := if s.isFar v p then .pod ((s.planeFor p.pa).getD 32) s.cycle else .waiting, pa := p.pa
      attr := p.attr, val := val % 2 ^ (8 * p.n), old := 0, via := s.viaEntry v p.va } :: State.farUnits s v (val / 2 ^ (8 * p.n)) r

/-- An element that lies in another package, at least in part, goes there. -/
def State.goFar (s : State) (v : Via) (val : Nat) (ps : List ElemPart) : ElemRes :=
  let us := s.farUnits v val ps
  .pod (if us.any fun u => u.st.held32 then 32 else 0) us

/-- Read the parts of an element at their places, the first lowest in the value. -/
def State.readPlaces (s : State) (v : Via) (hit : Copied) : List ElemPart → ElemRes
  | [] => .ok s 0
  | p :: r =>
    let rel := hit = .yes || (hit = .tagged && (s.rdcHit v.src.die (p.pa / 128)).isSome)
    match (s.readSpan v.src p.attr rel p.pa p.n).elem s v.acc p with
    | .ok s x =>
      match State.readPlaces s v hit r with
      | .ok s y => .ok s (x + 2 ^ (8 * p.n) * y)
      | e => e
    | e => e

/-- Read a global element (R66, R77, R103, R109): on ONCE once its words are full, as an acquire. -/
def State.readGlobal (s : State) (v : Via) (hit : Copied) (parts : List (Nat × Nat)) : ElemRes :=
  match s.lookParts v parts with
  | .bad s c d va => .bad s c d va
  | .wait s => .wait s
  | .ok s ps =>
    if ps.any fun p => s.elemBehind v v.rel false p.pa p.n || !s.homeReady p.pa then .wait s
    else
      match ps.find? fun p => p.attr.kind = 1 && paPkg p.pa = s.pkgNum && !((wordsOf p.pa p.n).all s.presence.contains) with
      | some p => .hold s p.va p.pa p.n
      | none =>
      if ps.any (s.isFar v) then s.goFar v 0 ps
      else
      match s.readPlaces v hit ps with
      | .ok s x => .ok (if 4 ≤ v.sc && ps.any fun p => p.attr.kind = 1 then s.acquireAt v.agent v.sc else s) x
      | e => e

/-- Write the parts of an element at their places: all or none. -/
def State.writePlaces (s0 s : State) (v : Via) (fills : Bool) (val : Nat) : List ElemPart → ElemRes
  | [] => .ok s 0
  | p :: r =>
    let pres := p.attr.kind = 1 || (p.attr.kind = 2 && fills && (p.pa + p.n) % 8 = 0 && (p.n = 8 || v.joins p))
    match (s.writeSpan { v.src with joins := v.joins p } p.attr pres p.pa (leBytes val p.n)).elem s v.acc p with
    | .ok s _ => State.writePlaces s0 s v fills (val / 2 ^ (8 * p.n)) r
    | .wait _ => .wait s0
    | e => e

/-- The number that stands, in place of an access, for the element of a slot to which a claim has been granted. -/
def grantedTo (slot : Nat) : Nat := 2 ^ 40 + slot

/-- What an ONCE page says to a write of a part (R73, R77): nothing; ALIGN or DOUBLE_ASSIGN by class and MCAUSE; or a claim to
wait for. The word of a claim of the own block is assigned twice, but for the claim that was granted to this element. -/
def State.onceWrite (s : State) (v : Via) (p : ElemPart) : Option (Nat × Nat) × Bool :=
  if p.attr.kind ≠ 1 then (none, false)
  else if !(p.pa % 8 = 0 && p.n = 8) then (some (fcAlign, 1), false)
  else
    match s.claims.find? fun c => c.word == p.pa / 8 with
    | some c =>
      if c.agent == v.agent && c.seq == v.seq then (if c.acc = grantedTo v.slot then none else some (fcDoubleAssign, 3), false)
      else (none, true)
    | none => if s.presence.contains (p.pa / 8) then (some (fcDoubleAssign, 3), false) else (none, s.claimBehind (p.pa / 8) none)

/-- Write a global element (R73, R76, R77, R103, R335): it claims and fills an ONCE word at one point, and is a release there
(R109); `fills` says that a wholly covered FILLTRK word becomes full, which is a release too (R126). -/
def State.writeGlobal (s : State) (v : Via) (fills : Bool) (val : Nat) (parts : List (Nat × Nat)) : ElemRes :=
  match s.lookParts v parts with
  | .bad s c d va => .bad s c d va
  | .wait s => .wait s
  | .ok s ps =>
    if ps.any fun p => s.elemBehind v (v.rel || p.attr.kind = 1 || (p.attr.kind = 2 && fills)) false p.pa p.n || !s.homeReady p.pa then .wait s
    else
      match ps.findSome? fun p => (s.onceWrite v p).1.map fun e => (e, p.va), ps.find? fun p => (s.onceWrite v p).2 with
      | some (e, va), _ => .bad s e.1 (memDetail v.acc e.2) va
      | none, some p => .claim s p.va p.pa
      | none, none => if ps.any (s.isFar v) then s.goFar v val ps else s.writePlaces s v fills val ps

/-- Read an element of `n` bytes, in the local space of an agent or the global one. -/
def State.readElem (s : State) (a : Agent) (loc : Bool) (hit : Copied) (v : Via) (va n : Nat) : ElemRes :=
  if loc then
    match s.localBad a va n with
    | some (b, c) => .bad s (classOfCause c) (trDetail v.acc 0 c) b
    | none =>
      if s.elemBehind v v.rel true va n then .wait s
      else if s.localUe a va n then .bad s fcPoison (memDetail v.acc 4) (s.localUeAt a va n)
      else .ok s (s.localNat a va n)
  else s.readGlobal v hit (elemParts va n)

/-- Write an element of `n` bytes. -/
def State.writeElem (s : State) (a : Agent) (loc fills : Bool) (v : Via) (va n val : Nat) : ElemRes :=
  if loc then
    match s.localBad a va n with
    | some (b, c) => .bad s (classOfCause c) (trDetail v.acc 0 c) b
    | none => if s.elemBehind v v.rel true va n then .wait s else .ok (s.localWrite a va (leBytes val n)) 0
  else s.writeGlobal v fills val (elemParts va n)

/-- Add an offset to an address, modulo 2^64. -/
def vaAdd (a : Nat) (d : Int) : Nat := wrapN ((a : Int) + d) 64

/-- The address of pattern element (i0, i1, i2) and, for E2M1, whether it is the high nibble (R330, R347). -/
def patAddr (p : List Word) (off : Nat) (ty : Ty) (i0 i1 i2 : Nat) : Nat × Bool :=
  let d := i0 * pSt0 p + i1 * pSt1 p + i2 * pSt2 p
  let b := vaAdd (pBase p) off
  if ty = .e2m1 then (vaAdd b (Int.fdiv d 2), d % 2 != 0) else (vaAdd b d, false)

/-- Bytes of an element in memory; one byte for E2M1. -/
def elemBytes (ty : Ty) : Nat := if ty = .e2m1 then 1 else ty.width / 8

/-- The element within what was read. -/
def pickElem (ty : Ty) (high : Bool) (v : Nat) : Nat := if ty = .e2m1 then (if high then v / 16 else v % 16) else v

/-- Block number of an agent's firing block. -/
def State.seqOf (s : State) (a : Agent) : Nat := match s.win a with | some w => w.seq | none => 0

/-- How the accesses of a task's own instruction leave its cell (R167, R346), relaxed at die. -/
def State.viaCell (s : State) (a : Agent) (acc : Nat) (log rel : Bool) (slot : Nat := 0) : Via :=
  { port := a.port, cfg := s.cfgFor a, acc := acc, src := { s.srcOf a with blockLog := log }, region := s.regionOf a
    agent := a, seq := s.seqOf a, slot := slot, rel := rel, sc := 3 }

/-- How they leave through a port of the die that PT names (R338). -/
def State.viaPort (s : State) (a : Agent) (pt acc : Nat) (log : Bool) : Via :=
  { port := 64 * (a.die) + pt, cfg := s.cfgFor a, acc := acc, src := { s.srcOf a with blockLog := log }, region := 0
    agent := a, seq := s.seqOf a, rel := false, sc := 3 }

/-- Is the block of an agent one whose header has LOG? -/
def State.blockLogs (s : State) (a : Agent) : Bool :=
  match s.win a with | some w => hdrLog (blockHeader (s.blockStore a) w.baddr) | none => false

/-- An element of an engine as an access: whose it is, its slot, block and address. -/
def State.elemAcc (s : State) (a : Agent) (slot seq baddr : Nat) (log : Bool) (va size val : Nat) : Access :=
  { id := s.nextAcc, agent := a, seq := seq, baddr := baddr, log := log, wave := none, slot := slot, op := 0, kind := .elem
    ty := .i8, vec := false, sc := 3, ord := .rlx, loc := false, addr := va, data := 0, exp := 0, committed := false, outs := []
    units := [{ va := va, size := size, st := .waiting, pa := 0, attr := attrPlain, val := val, old := 0, via := none }] }

/-- An element that goes to another package waits there as an access of its own, which the acknowledgements of its parts complete;
for a logged context it is a horizon (R140, R437). -/
def State.openElem (s : State) (x : Access) (us : List AUnit) : State :=
  let x := { x with id := s.nextAcc, units := us }
  let ln := (s.srcOf x.agent).lognum
  let s := { s with accs := s.accs ++ [x], nextAcc := s.nextAcc + 1 }
  if (s.log ln).isSome then s.horizon ln 3 else s

/-- Has a part been answered, or failed? -/
def AUnit.answered (u : AUnit) : Bool := u.st == .performed || u.bad

/-- The failure of such an access: class and detail (R436). -/
def State.partsBad (s : State) (id : Nat) : Option (Nat × Nat) :=
  match s.acc? id with
  | some x => (match x.units.find? AUnit.bad with
    | some u => (match u.st with | .faulted c d => some (c, d) | _ => none)
    | none => none)
  | none => none

/-- The lowest part of such an access that failed: class, detail and address (R44, R78). -/
def State.farBad (s : State) (id : Nat) : Option (Nat × Nat × Nat) :=
  match s.acc? id with
  | some x => x.units.findSome? fun u => match u.st with | .faulted c d => some (c, d, u.va) | _ => none
  | none => none

/-- The parts of such an access once every one in another package has been answered. -/
def State.farDone (s : State) (id : Nat) : Option (List AUnit) :=
  match s.acc? id with
  | some x => if x.units.all fun u => u.answered || u.st == .waiting then some x.units else none
  | none => none

/-- What is left of an element that lies in another package in part: its parts in this one perform (R44). -/
def State.finishFar (s : State) (v : Via) (wr : Bool) : List AUnit → ElemRes
  | [] => .ok s 0
  | u :: r =>
    let p : ElemPart := { va := u.va, pa := u.pa, attr := u.attr, n := u.size }
    let now : ElemRes := if u.st != .waiting then .ok s u.old
      else if wr then (s.writeSpan v.src u.attr false u.pa (leBytes u.val u.size)).elem s v.acc p
      else (s.readSpan v.src u.attr false u.pa u.size).elem s v.acc p
    match now with
    | .ok s x =>
      match State.finishFar s v wr r with
      | .ok s y => .ok s (x + 2 ^ (8 * u.size) * y)
      | e => e
    | e => e

/-- The answer to such an access, once it has come. -/
def State.elemAnswer (s : State) (id : Nat) : Option Nat :=
  match s.acc? id with
  | some x => (match x.units[0]? with | some u => if u.st == .performed then some u.old else none | none => none)
  | none => none

/-! ## Engines that make one element access after another (R354, R418) -/

/-- What an engine waits for besides tokens: RESUME after a fault or a watchpoint, log room, another package. -/
structure Hold where
  fault : Option FaultRec
  log : Bool
  acc : Option Nat
deriving DecidableEq, Repr

/-- An element that is held for log room stands there as an access of its own, behind which others wait (R138). -/
def State.holdElem (s : State) (x : Access) (held : Nat) : State :=
  let us := x.units.map fun u => { u with st := .logHeld, pa := held / 8 * 8, size := 8 }
  { s with accs := s.accs ++ [{ x with id := s.nextAcc, units := us }], nextAcc := s.nextAcc + 1 }

/-- Is `y` what stands for the held element of an engine's access `x`? -/
def Access.standsAs (x y : Access) : Bool :=
  y.kind == .elem && y.agent == x.agent && y.slot == x.slot && y.seq == x.seq && y.units.any fun u => u.st == .logHeld

/-- Does the held write of an element wait for RESUME after a LOG_FULL (R138)? -/
def State.elemTrapped (s : State) (x : Access) : Bool :=
  s.accs.any fun y => x.standsAs y && y.units.any fun u => s.writeTrapped x u.pa

/-- The element has performed: what stood for it goes, and the gate opens where every sub-log has room. -/
def State.freeElem (s : State) (x : Access) : State :=
  { s with accs := s.accs.filter fun y => !x.standsAs y }.openLogGate (s.srcOf x.agent).lognum

/-- A write to an ONCE word that waits for another's claim stands in the order of arrival as an access of its own (R125). -/
def State.queueElem (s : State) (x : Access) (va pa : Nat) : State :=
  let turn := s.claimTurn (pa / 8)
  let us := x.units.map fun u => { u with va := va, st := .held, pa := pa, size := 8, attr := { u.attr with kind := 1 }, old := turn }
  { s with accs := s.accs ++ [{ x with id := s.nextAcc, units := us }], nextAcc := s.nextAcc + 1 }

/-- A read of a word that is not full is held at its slice, or comes back from a full table, as an access of its own (R74). -/
def State.holdRead (s : State) (x : Access) (va pa n : Nat) : State :=
  let st : UnitSt := if 1024 ≤ s.heldAt (s.sliceOf pa) then .retry (s.cycle + 64) else .held
  let us := x.units.map fun u => { u with va := va, st := st, pa := pa, size := n }
  { s with accs := s.accs ++ [{ x with id := s.nextAcc, op := opRead, units := us }], nextAcc := s.nextAcc + 1 }

/-- May a held read of an element be tried again: its word is full, or the table has been tried again? -/
def State.readFree (s : State) (id : Nat) : Bool :=
  optB (s.acc? id) fun x => x.op = opRead && x.units.all fun u => u.st == .issued || (u.st == .held && (wordsOf u.pa u.size).all s.presence.contains)

/-- Has an element's claim been granted? -/
def State.elemGranted (s : State) (id : Nat) : Bool := optB (s.acc? id) fun x => x.op ≠ opRead && x.units.any fun u => u.st == .issued

/-- An element access of an engine: `v` says how it translates, `x` names it in records, `k` is its region, `put` stores what the engine waits for.
A fault holds the engine at the element (R354); so does a watchpoint, after it (R418). -/
def State.tryElem (s : State) (v : Via) (x : Access) (k : Nat) (rd wr loc : Bool) (h : Hold) (put : State → Hold → State)
    (attempt : State → ElemRes) (ok : State → Nat → State) : State :=
  let hold (s : State) (f : FaultRec) : State := put (s.takeHeld k f) { fault := some f, log := false, acc := none }
  let done (s : State) (v : Nat) : State :=
    let s := ok (put s { fault := none, log := false, acc := none }) v
    let n := x.units.foldl (fun n u => n + u.size) 0
    match (if s.stepping x.agent then none else s.regions.find k) with
    | none => s
    | some r =>
      match r.watchHit rd wr loc x.addr n with
      | none => s
      | some m =>
        let f := { s.accRecord x fcWatch (memDetail (if rd && wr then accRmw else if wr then accWrite else accRead) m) x.addr with
                   strm := true }
        let dbg := flag (r.wps.get (2 * m) 0) 60
        let s := put (s.report k f dbg) { fault := some f, log := false, acc := none }
        let xy := s.xyOf x.agent
        if dbg then s.haltGang k { kind := 4, num := m, x := xy.1, y := xy.2, task := f.task, fnum := 0, rk := k } else s
  let used (s : State) : Access := { x with units := x.units.map fun u => { u with via := s.viaEntry v u.va } }
  let drop (s : State) (h : Hold) : State := match h.acc with | some id => s.dropAcc id | none => s
  let unclaim (s : State) : State := { s with claims := s.claims.filter fun c => !(c.agent == v.agent && c.seq == v.seq && c.acc = grantedTo v.slot) }
  let go (s : State) (h : Hold) (r : ElemRes) : State :=
    match r with
    | .ok s v => let t := done (drop (unclaim s) h) v; if h.log then t.freeElem x else t
    | .wait s => s
    | .bad s c d addr => hold (drop (unclaim s) h) { s.accRecord x c d addr with strm := true, acc := none }
    | .full ln key held =>
      (if h.log then s else (put s { h with log := true }).holdElem (used s) held).logFull ln key (some x) held x.addr
    | .diverge ln => s.diverged ln
    | .claim s va pa => put (s.queueElem (used s) va pa) { h with acc := some s.nextAcc }
    | .hold s va pa n => put (s.holdRead (used s) va pa n) { h with acc := some s.nextAcc }
    | .pod p us =>
      if p < 32 then put (s.openElem x us) { h with acc := some s.nextAcc }
      else
        let at0 := ((us.find? fun u => u.st.held32).map (·.va)).getD x.addr
        hold (unclaim s) { s.accRecord x fcLinkDown (s.linkDetail p) at0 with strm := true, acc := none }
  if h.fault.isSome || (h.log && s.elemTrapped x) then s
  else
    match h.acc with
    | some id =>
      if s.elemGranted id || s.readFree id then
        let s := { s.dropAcc id with claims := s.claims.map fun c => if c.acc = id then { c with acc := grantedTo v.slot } else c }
        let s := put s { h with acc := none }
        go s { h with acc := none } (attempt s)
      else if (s.acc? id).isNone then
        let s := put s { h with acc := none }
        go s { h with acc := none } (attempt s)
      else
        (match s.farBad id, s.farDone id with
         | some e, _ => hold (s.dropAcc id) { s.accRecord x e.1 (withAcc v.acc e.1 e.2.1) e.2.2 with strm := true, acc := none }
         | none, some us => go s h (s.finishFar v wr us)
         | none, none => s)
    | none => go s h (attempt s)

/-! ## Reading through another package -/

/-- What reading a byte range comes to. -/
inductive Bytes where
  | ok (s : State) (bs : List Byte)
  | wait (s : State)
  | bad (s : State) (fclass detail addr : Nat)
  | need (s : State) (us : List AUnit)

/-- A part of an access to another package. -/
def podUnit (s : State) (va pa n val plane : Nat) : AUnit :=
  { va := va, size := n, st := .pod plane s.cycle, pa := pa, attr := attrPlain, val := val, old := 0, via := none }

/-- Read the parts of a byte range; `got` holds the answers of another package. -/
def State.readBytes (s : State) (v : Via) (got : List AUnit) : List (Nat × Nat) → Bytes
  | [] => .ok s []
  | (va, n) :: r =>
    match got.find? fun u => u.va == va && u.answered with
    | some u =>
      (match u.st, State.readBytes s v got r with
       | .faulted c d, _ => .bad s c (withAcc v.acc c d) va
       | _, .ok s bs => .ok s (leBytes u.old n ++ bs)
       | _, e => e)
    | none =>
      match s.readGlobal v .no [(va, n)] with
      | .ok s x =>
        (match State.readBytes s v got r with
         | .ok s bs => .ok s (leBytes x n ++ bs)
         | e => e)
      | .wait s => .wait s
      | .bad s c d va => .bad s c d va
      | .full _ _ _ | .claim _ _ _ | .hold _ _ _ _ => .wait s
      | .diverge ln => .wait (s.diverged ln)
      | .pod p us =>
        if 32 ≤ p then .bad s fcLinkDown (s.linkDetail p) va
        else
          match State.readBytes s v got r with
          | .ok s _ => .need s us
          | .need s vs => .need s (us ++ vs)
          | e => e

/-- The 8-byte parts of a range, or its bytes when it is not aligned (R103). -/
def wordParts (va n : Nat) : List (Nat × Nat) := if va % 8 = 0 && n % 8 = 0 then cutBy va n 8 else cutBy va n 1

/-- An access of parts that go to another package: a horizon of a logged context (R140, R437). -/
def State.openParts (s : State) (a : Agent) (us : List AUnit) : State :=
  let x := { s.elemAcc a 0 (s.seqOf a) 0 false 0 0 0 with units := us }
  let ln := (s.srcOf a).lognum
  let s := if (s.log ln).isSome then s.horizon ln 3 else s
  { s with accs := s.accs ++ [x], nextAcc := s.nextAcc + 1 }

/-- The parts of such an access once every one has been answered or has failed. -/
def State.partsDone (s : State) (id : Nat) : Option (List AUnit) :=
  match s.acc? id with
  | some x => if x.units.all AUnit.answered then some x.units else none
  | none => some []

end Sys2Proof.Machine
end

