-- ==== Sys2Proof/Machine/Matrix.lean ====
section
/-! DEFINITION. The matrix unit 60-64 with TLOAD_COMPLETE and MATRIX_ROW_ADD (R95-R101, R203-R207, R334-R342), the
shape instructions 68 and 69 (R333) and the directory instructions 65-67 (R92-R94, R343). -/

namespace Sys2Proof.Machine

/-! ## Alignment (R203) -/

/-- The 2-bit class that T0 keeps beside an element: finite, infinite of either sign, NaN (R205). -/
def elemClass (x : Num) : Nat :=
  match x with
  | .nan => 3
  | .inf n => if n then 2 else 1
  | .fin _ _ _ _ => 0

/-- Digits of a matrix type (R203). -/
def matDigits (ty : Ty) : Nat := if ty.width = 4 then 2 else if ty.width = 8 then 4 else 8

/-- floor(log2 |v|) of a finite nonzero number. -/
def Num.floorLog (x : Num) : Option Int := match x with | .fin _ m e _ => if m = 0 then none else some ((Nat.log2 m : Int) + e) | _ => none

/-- RNE of a finite number times 2^k, as an integer; 0 for what is not finite. -/
def Num.roundTo (x : Num) (k : Int) : Int :=
  match x with
  | .fin neg m e _ =>
    let sp := splitAt2 m (e + k) false 0
    let n := sp.n + bit (roundUp .rne neg sp 1)
    if neg then -(n : Int) else n
  | _ => 0

/-- A block of elements aligned: integers, class codes, BEXP (R203). `s` is the scale's exponent; `mx` says that the
elements are read with scales. -/
def alignBlock (ty : Ty) (s : Int) (mx : Bool) (vs : List Nat) : List (Int × Nat) × Int :=
  let ns := vs.map (Num.decode ty)
  if ty.isInt then (vs.map fun v => (ty.intVal v, elemClass (Num.ofInt (ty.intVal v))), if ty = .i8 && mx then s - 6 else 0)
  else if ty = .e2m1 then (ns.map fun x => (x.roundTo 1, elemClass x), s - 1)
  else
    let sh : Int := if ty.width = 8 then 6 else 14
    let e := ns.foldl (fun (m : Int) x => match x.floorLog with | some l => max m (max l ty.emin) | none => m) ty.emin
    (ns.map fun x => (x.roundTo (sh - e), elemClass x), (if ty.width = 8 then s else 0) + e - sh)

/-! ## Block sums (R205, R206) -/

/-- The class of a block sum over pairs of aligned elements, each with its class: 0 finite, 1 +inf, 2 -inf, 3 NaN, 4 NaN by an invalid
combination (R205). A finite element is zero, or negative, as its aligned integer is. -/
def sumClass (bnan : Bool) (ps : List ((Int × Nat) × (Int × Nat))) : Nat :=
  let neg (q : Int × Nat) : Bool := q.2 = 2 || (q.2 = 0 && q.1 < 0)
  let inf (q : Int × Nat) : Bool := q.2 = 1 || q.2 = 2
  let zero (q : Int × Nat) : Bool := q.2 = 0 && q.1 = 0
  if bnan || ps.any (fun p => p.1.2 = 3 || p.2.2 = 3) then 3
  else
    let is := ps.filter fun p => inf p.1 || inf p.2
    if is.any (fun p => zero p.1 || zero p.2) then 4
    else
      let up := is.any fun p => neg p.1 == neg p.2
      let dn := is.any fun p => neg p.1 != neg p.2
      if up && dn then 4 else if up then 1 else if dn then 2 else 0

/-- Add a block sum to a record (R206); a NaN of an invalid combination sets INV, also in a record that is NaN without INV already, for
which R206 does not spell `combine` out (DESIGN CHOICE, log entry 115). -/
def matAdd (r : AccRec) (p e : Int) (cls : Nat) : AccRec :=
  if cls = 4 then
    let q := accAdd r 0 0 3
    q ||| BitVec.ofNat 128 (2 ^ 125)
  else accAdd r p e cls

/-- A block of the row: aligned elements, exponent, NaN mark. -/
structure RowBlock where
  vals : List (Int × Nat)
  bexp : Int
  bnan : Bool
deriving DecidableEq, Repr

/-- The records of an accumulator after block `b` of a row is added against T0 (R205, R206, R340). -/
def Matrix.addBlock (m : Matrix) (n b : Nat) (k : RowBlock) : Matrix :=
  (List.range 64).foldl (fun (m : Matrix) c =>
    let bs := (List.range 32).map fun i => (m.t0.elems.get (64 * (32 * b + i) + c) 0, m.t0.cls.get (64 * (32 * b + i) + c) 0)
    let ps := k.vals.zip bs
    let p := ps.foldl (fun x q => x + q.1.1 * q.2.1) (0 : Int)
    let cls := sumClass (k.bnan || m.t0.bnan.contains (64 * b + c)) ps
    { m with acc := m.acc.put (64 * n + c) (matAdd (m.acc.get (64 * n + c) 0) p (k.bexp + m.t0.bexp.get (64 * b + c) 0) cls) }) m

/-! ## Elision (R98, R100) -/

/-- CLASS of a tag (R86). -/
def tagClass (w : Word) : Nat := field w 63 62
/-- The tag GENERAL with NF 1. -/
def tagGeneral : Word := 0xE000000000000000
/-- Class and CVAL of the row with one more block; a differing block makes it GENERAL. -/
def joinTag (row : Option Word) (blk : Word) : Word :=
  match row with
  | none => blk
  | some r =>
    let nf := flag r 61 || flag blk 61
    if tagClass r = tagClass blk && field r 31 0 = field blk 31 0 then word (r.toNat ||| (bit nf * 2 ^ 61))
    else word (3 * 2 ^ 62 + bit nf * 2 ^ 61)

/-- Is a row elided (R98)? -/
def elides (t0 row : Word) (special : Bool) : Bool :=
  !flag t0 61 && !flag row 61 && !special && (tagClass t0 != 3 || tagClass row == 0)

/-! ## TLOAD (R97, R338) -/

/-- A fresh engine. -/
def StrEng.fresh (p : List Word) : StrEng :=
  { pat := p, cur := none, pend := false, i := 0, hi := 0, ref := 0, ord := 0, occ := [], flush := none, vals := [],
    acc := none, held := false, logHeld := false, tag := none, special := false, again := false }

/-- A shape fault of an instruction (R332). -/
def State.shapeFault (s : State) (a : Agent) (i cause : Nat) : State := s.blockFault a (some i) fcShape cause 0

/-- The state with the matrix unit of an agent's cell changed. -/
def State.modMat (s : State) (a : Agent) (f : Matrix → Matrix) : State :=
  match a with
  | .task d p _ => s.modCell (cellKey d p) fun c => { c with mat := f c.mat }
  | .helm _ => s

/-- The matrix unit of an agent's cell. -/
def State.matOf (s : State) (a : Agent) : Matrix :=
  match a with | .task d p _ => (s.cell (cellKey d p)).mat | .helm _ => .fresh

/-- A result that stays performed through a re-execution (R108, R335). -/
def State.keep (s : State) (a : Agent) (i : Nat) (toks : List Token) : State :=
  s.modWin a fun w => { w with kept := w.kept.put i toks, pnr := true }

/-- A matrix instruction in an attempt after the one in which it acted delivers what it kept (R335). -/
def State.orKept (s : State) (a : Agent) (i op : Nat) (f : Fmt) (go : State → State) : State :=
  match s.keptAt a i with
  | some (toks, fl) => s.deliverKept a i op f toks fl
  | none => go s

/-- TLOAD (R338): checked against its record when it fires; its fetch runs in the background. -/
def execTload (f : FmtT) (s : State) : Host.Outcome State Fault Refusal :=
  fireWith s 0x60 (.t f) fun s a i sl =>
    s.orKept a i 0x60 (.t f) fun s =>
      match s.patternOf a f.sr.toNat 0 with
      | .error c => s.shapeFault a i c
      | .ok p =>
        if pRank p ≠ 2 || 64 < pN0 p + 1 || (pN1 p ≠ 31 && pN1 p ≠ 63) then s.shapeFault a i scTsize
        else
          let seq := match s.win a with | some w => w.seq | none => 0
          let t := match a with | .task _ _ t => t | .helm _ => 0
          let s := s.setSlot a i fun sl => { sl with st := .pending }
          s.modMat a fun m => { m with load := some { task := t, slot := i, seq := seq, f := f, pat := p, off := (sl.tok .l).w64, acc := none } }

/-- What one element of a TLOAD brings: its encoding, and the place of its byte when it was read with the entry of its
directory tile (R95, R96). -/
structure LoadElem where
  enc : Nat
  pa : Nat
  tag : Word
deriving DecidableEq, Repr

/-- The tag of a read of a byte: that of its tile, or GENERAL with NF 1 (R96). The class speaks of the plaintext: a read under another
CONF than the line's delivers ciphertext with that class (R84; DESIGN CHOICE, log entry 128). -/
def State.readTag (s : State) (src : Src) (attr : Attr) (pa : Nat) : Word :=
  let e := s.dirEntry (pa / 4096)
  let home := match s.placeOf src pa with
    | .home => true
    | .rdc => (s.rdcHit src.die (pa / 128)).isNone || attr.kind ≠ 0 || s.ktag.get (pa / 128) 0 ≠ attr.conf
    | _ => false
  if home && attr.track && field e 60 57 = attr.tty then e else tagGeneral

/-- What reading the elements of a TLOAD comes to: the elements, and the parts that another package must still answer. -/
structure LoadRun where
  res : ElemRes
  elems : List LoadElem
  need : List AUnit

/-- The bytes of a directory tile of another package and its entry behind them, which a class-tagged read asks for as one part: its
home reads both at one point (R95). -/
def tileUnit (s : State) (va pa : Nat) (attr : Attr) : AUnit :=
  { va := va, size := 4104, st := .pod ((s.planeFor pa).getD 32) s.cycle, pa := pa / 4096 * 4096, attr := attr, val := 0, old := 0, via := none }

/-- Bytes of such a tile, and its tag for an access with these attributes (R96). -/
def tileBytes (v pa n : Nat) : Nat := fieldN v (8 * (pa % 4096 + n) - 1) (8 * (pa % 4096))
/-- Its tag. -/
def tileTag (attr : Attr) (v : Nat) : Word :=
  let e := word (v / 2 ^ 32768)
  if attr.track && field e 60 57 = attr.tty then e else tagGeneral

/-- Where an element of a class-tagged read lies that another package holds, in one directory tile. -/
def State.farTile (s : State) (v : Via) (va n : Nat) : Option (Nat × Attr) :=
  match (s.elemLook v va).1 with
  | .hit pa attr => if s.placeOf v.src pa = .pod && Nat.ble (pa % 4096 + n) 4096 && attr.kind ≠ 1 then some (pa, attr) else none
  | _ => none

/-- Read the elements of a TLOAD one after the other; the state changes only in its TLBs and caches. `got` holds the answers of
another package. -/
def State.loadElems (s : State) (a : Agent) (v : Via) (loc : Bool) (ty : Ty) (got : List AUnit) : List (Nat × Bool) → LoadRun
  | [] => ⟨.ok s 0, [], []⟩
  | (va, high) :: r =>
    let far := if loc then none else s.farTile v va (elemBytes ty)
    let take (s : State) (x pa : Nat) (tag : Word) (us : List AUnit) : LoadRun :=
      let q := State.loadElems s a v loc ty got r
      ⟨q.res, { enc := pickElem ty high x, pa := pa, tag := tag } :: q.elems, us ++ q.need⟩
    let next (s : State) (x : Nat) (us : List AUnit) : LoadRun :=
      let pt : Nat × Word := if loc then (0, tagGeneral)
        else match (s.elemLook v va).1 with | .hit pa attr => (pa, s.readTag v.src attr pa) | _ => (0, tagGeneral)
      take s x pt.1 pt.2 us
    match far with
    | some (pa, attr) =>
      let s := (s.elemLook v va).2
      (match got.find? fun u => u.pa == pa / 4096 * 4096 && u.size == 4104 && u.answered with
       | some u => (match u.st with
         | .faulted c d => ⟨.bad s c (withAcc v.acc c d) va, [], []⟩
         | _ => take s (tileBytes u.old pa (elemBytes ty)) pa (tileTag attr u.old) [])
       | none =>
         if (s.planeFor pa).isNone then ⟨.pod 32 [], [], []⟩
         else
           let q := State.loadElems s a v loc ty got r
           let asked := q.need.any fun u => u.pa == pa / 4096 * 4096 && u.size == 4104
           ⟨q.res, { enc := 0, pa := pa, tag := tagGeneral } :: q.elems, (if asked then [] else [tileUnit s va pa attr]) ++ q.need⟩)
    | none =>
    match s.readElem a loc .tagged v va (elemBytes ty) with
    | .ok s x => next s x []
    | .pod p us =>
      if 32 ≤ p then ⟨.pod p us, [], []⟩
      else
        (match s.readBytes v got (elemParts va (elemBytes ty)) with
         | .ok s bs => next s (leNat bs) []
         | .need s us => next s 0 us
         | .wait s => ⟨.wait s, [], []⟩
         | .bad s c d x => ⟨.bad s c d x, [], []⟩)
    | e => ⟨e, [], []⟩

/-- The tag of a source tile of a TLOAD: the one that all its elements were read with, or GENERAL with NF 1 where a part of the tile came
from the remote-data cache (R96). -/
def tagOfTile (es : List LoadElem) (tile : Nat) : Word :=
  match (es.filter fun e => e.pa / 4096 == tile).map (·.tag) with
  | [] => tagGeneral
  | t :: r => if r.all (· == t) then t else tagGeneral

/-- The tag of T1 from its source tiles (R97). `es` are the elements row by row, `n` to a row. -/
def loadTag (ty : Ty) (n : Nat) (st1 : Int) (es : List LoadElem) (scaleNan : Bool) : Word :=
  let tiles := (es.map fun e => e.pa / 4096).eraseDups
  let first (t : Nat) : Option (Nat × LoadElem) :=
    (((List.range es.length).filterMap fun j => (es[j]?).map fun e => (j, e)).find? fun je => je.2.pa / 4096 == t).map
      fun je => (je.1, { je.2 with tag := tagOfTile es t })
  let fs := tiles.filterMap first
  let jty := ((fs.head?).map fun je => field je.2.tag 60 57).getD 0
  let w := (Ty.ofCode jty).width
  let same := fs.all fun je => field je.2.tag 60 57 == jty
  let nf := fs.any (fun je => flag je.2.tag 61) || scaleNan
  let cls := fs.map fun je => tagClass je.2.tag
  let g := fs.map fun je => sextN (field je.2.tag 56 49) 8 - ((je.1 / max 1 n : Nat) : Int) + ((je.2.pa % 4096 * 8 / (64 * w) : Nat) : Int)
  let tag (c : Nat) (doff : Int) (cval : Nat) : Word := mkEntry c (bit nf) ty.code doff cval
  if fs.isEmpty then tag 3 0 0
  else if cls.all (· == 0) then tag 0 0 0
  else if cls.all (· == 1) && same && fs.all (fun je => field je.2.tag 31 0 == field ((fs.head?).map (·.2.tag) |>.getD 0) 31 0) then
    tag 1 0 (field ((fs.head?).map (·.2.tag) |>.getD 0) 31 0)
  else if cls.all (· == 2) && same && st1 == (if ty = .e2m1 then 16 * w else 8 * w)
      && ((es.head?).map (fun e => e.pa % 4096 * 8 % (64 * w) == 0)).getD false && g.all (fun x => some x == g.head?) then
    tag 2 ((g.head?).getD 0) 0
  else tag 3 0 0

/-- T1 with what a TLOAD read: elements aligned by column block, exponents, classes (R203, R338). -/
def loadedReg (ty : Ty) (k n : Nat) (mx : Bool) (es : List LoadElem) (scales : List Nat) (tag : Word) : MatReg :=
  let enc (r c : Nat) : Nat := if c < n then ((es[r * n + c]?).map (·.enc)).getD 0 else 0
  let zero : MatReg := { MatReg.fresh with k := k, ty := ty, tag := tag }
  (List.range (k / 32)).foldl (fun (m : MatReg) (b : Nat) =>
    (List.range 64).foldl (fun (m : MatReg) (c : Nat) =>
      let sc := if mx then (scales[b * 64 + c]?).getD 127 else 127
      let al := alignBlock ty ((sc : Int) - 127) mx ((List.range 32).map fun i => enc (32 * b + i) c)
      let m := (List.range 32).foldl (fun (m : MatReg) i =>
        match al.1[i]? with
        | some v => { m with elems := m.elems.put (64 * (32 * b + i) + c) v.1, cls := m.cls.put (64 * (32 * b + i) + c) v.2 }
        | none => m) m
      { m with bexp := m.bexp.put (64 * b + c) al.2, bnan := if mx && sc = 255 then (64 * b + c) :: m.bnan else m.bnan }) m) zero

/-- The addresses a TLOAD reads: its elements row by row, and its scale bytes, 64 to a row block (R338). -/
def loadAddrs (l : TloadRec) : List (Nat × Bool) × List (Nat × Bool) :=
  let n := pN0 l.pat + 1
  let k := pN1 l.pat + 1
  ((List.range (k * n)).map fun (j : Nat) => patAddr l.pat l.off l.f.ty (j % n) (j / n) 0,
    if pSoff l.pat = 0 then []
    else (List.range (k / 32 * n)).map fun (j : Nat) => (vaAdd (vaAdd (pBase l.pat) l.off) (pSoff l.pat + ((64 * (j / n) + j % n : Nat) : Int)), false))

/-- The reads of an instruction that its slices hold are over (R74). -/
def State.unholdReads (s : State) (a : Agent) (i : Nat) : State :=
  { s with accs := s.accs.filter fun y => !(y.op = opRead && y.agent == a && y.slot = i && y.seq = s.seqOf a) }

/-- A read of a TLOAD that no link reaches: recorded in the mailbox, and sent again at RESUME; the block does not fault (R387). -/
def State.loadDown (s : State) (a : Agent) (i d addr : Nat) : State :=
  let s := match (s.matOf a).load.bind (·.acc) with | some id => s.dropAcc id | none => s
  let s := s.modMat a fun m => { m with load := m.load.map fun l => { l with down := true, acc := none } }
  s.takeHeld (s.regionOf a) { s.faultOf a (some i) fcLinkDown d addr with acc := none }

/-- An element of a block's own instruction has failed or must wait (R338): a block fault, or a read that is held at its slice (R74). -/
def ElemRes.settle (r : ElemRes) (s0 : State) (a : Agent) (i : Nat) (addr : Nat) (ok : State → Nat → State) : State :=
  match r with
  | .ok s v => ok s v
  | .wait s => s
  | .bad s c d addr => if c = fcLinkDown then s.loadDown a i d addr else s.blockFault a (some i) c d addr
  | .hold _ va pa n =>
    let x := s0.elemAcc a i (s0.seqOf a) 0 false va n 0
    if s0.accs.any fun y => y.op = opRead && y.agent == a && y.slot = i && y.seq = x.seq then s0 else s0.holdRead x va pa n
  | .full _ _ _ | .claim _ _ _ => s0
  | .diverge ln => s0.diverged ln
  | .pod p _ => s0.loadDown a i (s0.linkDetail p) addr

/-- TLOAD_COMPLETE (R95-R97, R338): the fetch has loaded T1, and its token leaves. -/
def execTloadComplete (cell : Nat) (s : State) : Host.Outcome State Fault Refusal :=
  match (s.cell cell).mat.load with
  | none => .next s
  | some l =>
    let a := Agent.task (cell / 256) (cell % 256) l.task
      if l.down then .next s else
      let loc := pAs l.pat
      let v := s.viaPort a l.f.pt.toNat accPortRd false
      let ads := loadAddrs l
      match (match l.acc with | some id => s.partsDone id | none => some []) with
      | none => .next s
      | some got =>
        let drop (s : State) : State := match l.acc with | some id => s.dropAcc id | none => s
        let q := s.loadElems a v loc l.f.ty got ads.1
        let firstBad (es : List LoadElem) : Nat := ((ads.1[es.length]?).map (·.1)).getD 0
        .next <| q.res.settle s a l.slot (firstBad q.elems) fun s1 _ =>
          let q2 := s1.loadElems a v loc .n8 got ads.2
          q2.res.settle s a l.slot (((ads.2[q2.elems.length]?).map (·.1)).getD 0) fun s2 _ =>
            let us := q.need ++ q2.need
            if !us.isEmpty then
              let s2 := drop s2
              let ln := (s2.srcOf a).lognum
              let s2 := if (s2.log ln).isSome then s2.horizon ln 3 else s2
              (s2.modMat a fun m => { m with load := some { l with acc := some s2.nextAcc } }).openParts noAgent (got ++ us)
            else
              let n := pN0 l.pat + 1
              let mx := pSoff l.pat ≠ 0
              let scales := (List.range 128).map fun j =>
                if j % 64 < n then ((q2.elems[j / 64 * n + j % 64]?).map (·.enc)).getD 127 else 127
              let tag := if loc then tagGeneral else loadTag l.f.ty n (pSt1 l.pat) q.elems (mx && q2.elems.any fun e => e.enc = 255)
              let reg := loadedReg l.f.ty (pN1 l.pat + 1) n mx q.elems scales tag
              let s := ((drop s2).unholdReads a l.slot).modMat a fun m => { m with t1 := reg, load := none }
              let s := (s.keep a l.slot [wordTok 0]).setSlot a l.slot fun sl => { sl with st := .fired }
              s.sendBoth a l.slot 0x60 (.t l.f) (wordTok 0) 1

/-- TSWAP (R339): exchanges T0 and T1 once earlier loads and rows are done. -/
def execTswap (f : FmtT) (s : State) : Host.Outcome State Fault Refusal :=
  fireWith s 0x61 (.t f) fun s a i _ =>
    s.orKept a i 0x61 (.t f) fun s =>
      ((s.modMat a fun m => { m with t0 := m.t1, t1 := m.t0 }).keep a i [wordTok 0]).sendBoth a i 0x61 (.t f) (wordTok 0) 1

/-! ## MMROW (R340) -/

/-- MMROW: its first token fires it; a stop token makes it a pass-through. -/
def execMmrow (f : FmtT) (s : State) : Host.Outcome State Fault Refusal :=
  fireWith s 0x62 (.t f) fun s a i sl =>
    let t := sl.tok .l
    if t.stop ≠ 0 then
      ((s.setSlot a i fun sl => { sl with st := .passed, l := sl.l.pop })).sendBoth a i 0x62 (.t f) (stopToken t.stop) 1
    else
      match s.patternOf a f.sr.toNat 0 with
      | .error c => s.shapeFault a i c
      | .ok p =>
        if (s.keptAt a i).isNone && pN0 p + 1 ≠ (s.matOf a).t0.k then s.shapeFault a i scKdim
        else
          let e := { StrEng.fresh p with again := (s.keptAt a i).isSome }
          let tk := match a with | .task _ _ t => t | .helm _ => 0
          (s.setSlot a i fun sl => { sl with st := .running, eng := .row (DigEng.fresh f.ta f.tb) e }).modMat a fun m => { m with row := some tk }

/-- A data block of a row from a vector or word token (R340). -/
def wordBlock (ty : Ty) (mx : Bool) (scale : Option Token) (t : Token) : RowBlock :=
  let s := match scale with | some x => sextN (fieldN x.w64 43 32) 12 | none => 0
  let al := alignBlock ty s mx (t.lanes ty)
  { vals := al.1, bexp := al.2, bnan := match scale with | some x => x.payload.getLsbD 60 | none => false }

/-- The class of a digit-fed lane: the sign of a NORMAL one, and whether it is zero, are those of its aligned digits, since its SIGN does
not constrain X (R190, R205; DEDUCED, log entry 110). -/
def groupClass (x : DLane) : Nat := if x.h.cls = 0 || x.h.cls = 1 then 0 else if x.h.cls = 3 then 3 else if x.h.sign then 2 else 1

/-- A data block of a row from an element group (R203, R340). Its largest head exponent is taken over the NORMAL heads: whether QEXP of
another head counts the spec does not say (DESIGN CHOICE, log entry 124). -/
def groupBlock (ty : Ty) (scale : Option Token) (e : DigEng) : RowBlock :=
  let s := match scale with | some x => sextN (fieldN x.w64 43 32) 12 | none => 0
  let nd := matDigits ty
  let xs := (List.range 32).map fun i => e.lane .l i
  let qs := (xs.filter fun x => x.h.cls = 1).map (·.h.q)
  let qm := qs.foldl max (qs.headD 0)
  { vals := xs.map fun x =>
      (if x.h.cls = 1 then prefixN (nd - (qm - x.h.q).toNat) x.digs else 0, groupClass x)
    bexp := s + 2 * (qm - nd), bnan := match scale with | some x => x.payload.getLsbD 60 | none => false }

/-- The last block of a row has been added: the row counts as elided where R98 says so, having held the array for one cycle and not for
its digit count (R100, R382), and the tokens leave. -/
def State.finishRow (s : State) (a : Agent) (i : Nat) (f : FmtT) (e : StrEng) : State :=
  let s := s.modMat a fun m => { m with row := none }
  let s := s.setSlot a i fun sl => { sl with st := .fired, eng := .none }
  if e.again then s.orKept a i 0x62 (.t f) id
  else
    let k := s.regionOf a
    let elided := elides (s.matOf a).t0.tag (e.tag.getD tagGeneral) e.special
    let s := s.spend k 2 (if elided then 1 else matDigits f.ty)
    let s := if elided then
        (s.traceElide k).modRegion k fun r =>
          { r with cur := listModify (r.cur ++ List.replicate (16 - r.cur.length) 0) 6 (· + 1) } else s
    (s.keep a i [wordTok 0]).sendBoth a i 0x62 (.t f) (wordTok 0) 4

/-- Tokens beyond the length of a row that was finished had come already (R340): all but digits of lanes that it had ended. -/
def State.rowExcess (s : State) (a : Agent) (i : Nat) : State :=
  let more := optB (s.win a) fun w => optB w.slots[i]? fun sl => sl.l.q.any fun y => !(y.tok.kind == .digit && y.tok.stop = 0)
  if more then s.shapeFault a i scKdim else s

/-- The tag of a block (R98, R204): its scale token's, GENERAL without one; a block of digit groups has passed a digit operator and
carries GENERAL (R97). -/
def blockTag (f : FmtT) (scale : Option Token) : Word :=
  match scale with
  | some t => (t.payload.setWidth 64) ||| (if f.sh == .vector then 0 else 0xC000000000000000)
  | none => tagGeneral

/-- Add a block; after the row's last one it is done (R205, R340). A row that a re-execution takes again ends by its own length, whatever
T0 has become (R335). -/
def State.addRowBlock (s : State) (a : Agent) (i : Nat) (f : FmtT) (d : DigEng) (e : StrEng) (k : RowBlock) : State :=
  let m := s.matOf a
  let s := if e.again then s else s.modMat a fun m => m.addBlock (f.aux.toNat % 4) e.i k
  let e := { e with i := e.i + 1, cur := none, tag := some (joinTag e.tag (blockTag f e.cur))
                    special := e.special || k.bnan || k.vals.any fun v => v.2 = 1 || v.2 = 2 || v.2 = 3 }
  if 32 * e.i = (if e.again then pN0 e.pat + 1 else m.t0.k) then (s.finishRow a i f e).rowExcess a i
  else s.setSlot a i fun sl => { sl with eng := .row d e }

/-- Which of its tokens a row takes next: with SH 10, the digits of an open group before anything behind them. -/
def rowFits (f : FmtT) (d : DigEng) (y : Arrival) : Bool :=
  f.sh == .vector || fits (if ((d.heads[0]?).getD none).isSome then some ((d.srcs[0]?).getD 0) else none) y

/-- One token of a row (R340). A digit token with no head before it is no token of the field, unless its group has ended (R289). -/
def State.rowToken (s : State) (a : Agent) (i : Nat) (f : FmtT) (d : DigEng) (e : StrEng) (y : Arrival) : State :=
  let t := y.tok
  let s := s.setSlot a i fun sl => { sl with l := { sl.l with q := dropThrough (fun z => rowFits f d z || ((d.heads[0]?).getD none).isNone) (rowFits f d) sl.l.q } }
  let fm : Fmt := .t f
  let open0 := ((d.heads[0]?).getD none).isSome
  let put (s : State) (d : DigEng) (e : StrEng) : State := s.setSlot a i fun sl => { sl with eng := .row d e }
  let mx := pSoff e.pat ≠ 0
  if t.stop ≠ 0 || t.kind == .null then s.shapeFault a i scKdim
  else if f.sh == .vector then
    if t.kind == .scale then (if e.cur.isSome then s.shapeFault a i scKdim else put s d { e with cur := some t })
    else s.addRowBlock a i f d e (wordBlock f.ty mx e.cur t)
  else if t.kind == .scale then
    (if e.cur.isSome || open0 then s.shapeFault a i scKdim else put s d { e with cur := some t })
  else if t.kind == .head then
    let d := { d with heads := [some t.payload, none, none], digs := [[], [], []], endIn := [0, 0, 0], srcs := [y.src, 0, 0] }
    let r := s.endIn a i 0x62 fm d .l (laneMask fun n => (headLane t.payload n).cls != 1) none
    if (r.2.endIn[0]?).getD 0 = allLanes then
      r.1.addRowBlock a i f { r.2 with heads := [none, none, none] } e (groupBlock f.ty e.cur r.2)
    else put r.1 r.2 e
  else if !open0 then (if y.src = (d.srcs[0]?).getD 0 then s else s.blockFault a (some i) fcWmask bcKind 0)
  else
    let d := { d with digs := listModify d.digs 0 (· ++ [t.payload]) }
    if d.nIn .l < matDigits f.ty then put s d e
    else
      let r := s.endIn a i 0x62 fm d .l allLanes none
      r.1.addRowBlock a i f { r.2 with heads := [none, none, none], digs := [[], [], []] } e (groupBlock f.ty e.cur r.2)

/-- MATRIX_ROW_ADD (R340): the matrix unit takes the next token of a running row, and adds the block it completes. -/
def execMatrixRowAdd (a : Agent) (slot : Nat) (s : State) : Host.Outcome State Fault Refusal :=
  match s.win a with
  | none => .next s
  | some w =>
    match w.slots[slot]?, s.fieldsAt a w.baddr slot with
    | some sl, some (_, .t f) =>
      (match sl.st, sl.eng with
       | .running, .row d e =>
         (match sl.l.q.find? (rowFits f d) with
          | some y => if y.at0 ≤ s.cycle then .next ((s.moved (s.regionOf a)).rowToken a slot f d e y) else .next s
          | none => .next s)
       | _, _ => .next s)
    | _, _ => .next s

/-- MMOUT (R341, R207): the records of an accumulator as two vectors; draws in the order of the columns. -/
def execMmout (f : FmtT) (s : State) : Host.Outcome State Fault Refusal :=
  fireWith s 0x63 (.t f) fun s a i _ =>
    let aux := f.aux.toNat
    let rm := s.resolveRm a (Rm.ofCode (fieldN aux 4 2))
    let m := s.matOf a
    let r := mapRes (fun gen c => accOut f.ty rm (aux.testBit 5) gen (m.acc.get (64 * (aux % 4) + c) 0)) (List.range 64) (s.genOf a i)
    let s := s.modWin a fun w => w.raise r.2.1
    (s.send a i 0x63 (.t f) f.ta (lanesTok f.ty (r.1.take 32)) 8).send a i 0x63 (.t f) f.tb (lanesTok f.ty (r.1.drop 32)) 8

/-- MMZERO (R342). -/
def execMmzero (f : FmtT) (s : State) : Host.Outcome State Fault Refusal :=
  fireWith s 0x64 (.t f) fun s a i _ =>
    s.orKept a i 0x64 (.t f) fun s =>
      ((s.modMat a fun m => { m with acc := m.acc.filter fun e => !f.aux.toNat.testBit (e.1 / 64) }).keep a i [wordTok 0]).sendBoth
        a i 0x64 (.t f) (wordTok 0) 1

/-! ## Shape records (R333) -/

/-- SHAPE (R333): checked when it fires; the word is written when its block commits. -/
def execShape (f : FmtT) (s : State) : Host.Outcome State Fault Refusal :=
  fireWith s 0x68 (.t f) fun s a i _ =>
    match s.recordOf a f.sr.toNat with
    | .error c => s.shapeFault a i c
    | .ok _ => s

/-- The write of SHAPE at commit. -/
def State.commitShape (s : State) (a : Agent) (f : FmtT) (v : Nat) : State :=
  match s.recordOf a f.sr.toNat with
  | .error _ => s
  | .ok p =>
    let i := s.recordIndex a f.sr.toNat
    s.modCell (s.actsFor a).1 fun c => { c with shapes := c.shapes.put i (listSet p (f.aux.toNat % 4) (word v)) }

/-- SHAPEQ (R333). -/
def execShapeq (f : FmtT) (s : State) : Host.Outcome State Fault Refusal :=
  fireWith s 0x69 (.t f) fun s a i _ =>
    match s.recordOf a f.sr.toNat with
    | .error c => s.shapeFault a i c
    | .ok p => s.sendBoth a i 0x69 (.t f) (wordTok (pw p (f.aux.toNat % 4)).toNat) 1

/-! ## Directory instructions (R92-R94, R343) -/

/-- TDIR, TCLASS and TFILL open an access to the directory tile of their address. -/
def fireDir (s : State) (op : Nat) (f : FmtT) : Host.Outcome State Fault Refusal :=
  fireWith s op (.t f) fun s a i sl =>
    s.orKept a i op (.t f) fun s =>
      s.openAccess a i op f.ty false 3 .rlx false (sl.tok .l).w64 (sl.tok .r) (wordTok 0) none

/-- TDIR (R94). -/
def execTdir (f : FmtT) (s : State) : Host.Outcome State Fault Refusal := fireDir s 0x65 f
/-- TCLASS (R93). -/
def execTclass (f : FmtT) (s : State) : Host.Outcome State Fault Refusal := fireDir s 0x66 f
/-- TFILL (R92). -/
def execTfill (f : FmtT) (s : State) : Host.Outcome State Fault Refusal := fireDir s 0x67 f

end Sys2Proof.Machine
end

