-- ==== Sys2Proof/Machine/Streams.lean ====
section
/-! DEFINITION. The stream unit 72-79 with STREAM_TOKEN (R344-R346, R349-R354). A running engine takes one step for each
event: a token consumed, an element accessed or a token sent. -/

namespace Sys2Proof.Machine

/-! ## Tokens of an engine -/

/-- AUX of a stream instruction: RK (R346). -/
def strRk (op : Nat) (f : FmtT) : Nat := if 0x77 ≤ op then fieldN f.aux.toNat 5 3 else fieldN f.aux.toNat 6 4

/-- SC of GATHER, SCATTER and SCATA (R346). -/
def strSc (f : FmtT) : Nat := fieldN f.aux.toNat 11 9
/-- Is the element access an acquire, a release (R109)? -/
def strAcq (f : FmtT) : Bool := strOrd f = 1 || strOrd f = 3 || strOrd f = 4
def strRel (f : FmtT) : Bool := strOrd f = 2 || strOrd f = 3 || strOrd f = 4

/-- The token at the head of a stream field. -/
def State.strHead (s : State) (a : Agent) (op : Nat) (f : Fmt) (sl : Slot) (x : Fld) : Option Token :=
  match s.offered a op f sl x with
  | some y => if y.at0 ≤ s.cycle then some y.tok else none
  | none => none

/-- The state with the head of a stream field consumed. -/
def State.strPop (s : State) (a : Agent) (i op : Nat) (f : Fmt) (sl : Slot) (x : Fld) : State :=
  let s := s.moved (s.regionOf a)
  if (sl.fld x).q.isEmpty then (match chlOf op f with | some j => s.takeChan a j | none => s)
  else s.setSlot a i fun sl => sl.setFld x (sl.fld x).pop

/-- Keep a token that a stream instruction sends to an instruction that may begin afresh (R353). -/
def State.strKeep (s : State) (a : Agent) (tgt : Target) (k : Nat) (tok : Token) : State :=
  match tgt, s.win a with
  | .slot _ _, some _ => s.modWin a fun w => { w with kept := w.kept.put k (w.kept.get k [] ++ [tok]) }
  | _, _ => s

/-- Output tokens of a stream instruction: one to each target (R345, R353). -/
def State.strSend (s : State) (a : Agent) (i op : Nat) (f : Fmt) (x y : Token) : State :=
  let s := ((s.moved (s.regionOf a)).strKeep a f.ta i x).strKeep a f.tb (128 + i) y
  (s.send a i op f f.ta x 1).send a i op f f.tb y 1

/-- The same stop token to both targets; S8 does not exist, and S7 stands for it. -/
def State.strStop (s : State) (a : Agent) (i op : Nat) (f : Fmt) (k : Nat) : State :=
  s.strSend a i op f (stopToken (min 7 k)) (stopToken (min 7 k))

/-- The engine of a slot changed. -/
def State.setStr (s : State) (a : Agent) (i : Nat) (g : StrEng → StrEng) : State :=
  s.setSlot a i fun sl => match sl.eng with | .stream e => { sl with eng := .stream (g e) } | _ => sl

/-- After a stop token of level k: a stream of rank RK ends with it when it closes level RK (R164, R345). -/
def State.strEnd (s : State) (a : Agent) (i rk k : Nat) : State :=
  if rk ≤ k then s.setSlot a i fun sl => { sl with st := .fired, eng := .none } else s

/-- A coordinate token (R346). -/
def coordTok (crd ref : Nat) : Token := wordTok (ref % 2 ^ 32 * 2 ^ 32 + crd % 2 ^ 32)
/-- CRD and REF of a 64-bit lane. -/
def crdOf (v : Nat) : Nat := v % 2 ^ 32
def refOf (v : Nat) : Nat := v / 2 ^ 32 % 2 ^ 32
/-- REF of no element. -/
def absent : Nat := 0xFFFFFFFF

/-- An element access of a slot's engine. -/
def State.strElem (s : State) (a : Agent) (i : Nat) (e : StrEng) (rd wr loc : Bool) (va n : Nat) (attempt : State → ElemRes)
    (ok : State → Nat → State) : State :=
  let b := match s.win a with | some w => (w.seq, w.baddr) | none => (0, 0)
  let x := s.elemAcc a i b.1 b.2 (s.blockLogs a) va n 0
  let h : Hold := { fault := if e.held then some (s.faultOf a (some i) 0 0 0) else none, log := e.logHeld, acc := e.acc }
  let acc := if rd && wr then accRmw else if wr then accWrite else accRead
  s.tryElem (s.viaCell a acc (s.blockLogs a) false i) x (s.regionOf a) rd wr loc h
    (fun s h => s.setStr a i fun e => { e with held := h.fault.isSome, logHeld := h.log, acc := h.acc }) attempt
    fun s v => ok (s.moved (s.regionOf a)) v

/-! ## SCAN (R349) -/

/-- One step of SCAN. `flush` is set while a coordinate token is being expanded. Its reads carry the access code 000: R40's table does not
list SCAN and R349 gives no code (DESIGN CHOICE, log entry 125). -/
def State.stepScan (s : State) (a : Agent) (i : Nat) (f : FmtT) (sl : Slot) (e : StrEng) : State :=
  let fm : Fmt := .t f
  let sz := elemBytes f.ty
  match s.strHead a 0x72 fm sl .l with
  | none => s
  | some t =>
    if t.stop ≠ 0 then
      (((s.strPop a i 0x72 fm sl .l).setStr a i fun e => { e with pend := false }).strStop a i 0x72 fm (t.stop + 1)).strEnd a i
        (strRk 0x72 f) t.stop
    else
      let ref := refOf t.w64
      match e.flush with
      | some _ =>
        if e.hi ≤ e.i then (s.strPop a i 0x72 fm sl .l).setStr a i fun e => { e with flush := none, pend := true }
        else if pPk e.pat = 0 then
          let c := coordTok e.i (ref * (pN0 e.pat + 1) + e.i)
          (s.setStr a i fun e => { e with i := e.i + 1 }).strSend a i 0x72 fm c c
        else
          s.strElem a i e true false (pAs e.pat) (vaAdd (pBase e.pat) (pSoff e.pat + (e.i * sz : Nat))) sz
            (fun s => s.readElem a (pAs e.pat) .yes (s.viaCell a accRead (s.blockLogs a) false i)
              (vaAdd (pBase e.pat) (pSoff e.pat + (e.i * sz : Nat))) sz)
            fun s v => (s.setStr a i fun e => { e with i := e.i + 1 }).strSend a i 0x72 fm (coordTok v e.i) (coordTok v e.i)
      | none =>
        if e.pend then (s.setStr a i fun e => { e with pend := false }).strStop a i 0x72 fm 1
        else if ref = absent then (s.strPop a i 0x72 fm sl .l).setStr a i fun e => { e with pend := true }
        else if pPk e.pat = 0 then s.setStr a i fun e => { e with flush := some 1, i := 0, hi := pN0 e.pat + 1 }
        else
          let k := ref + e.vals.length
          let va := vaAdd (pBase e.pat) ((k * sz : Nat) : Int)
          s.strElem a i e true false (pAs e.pat) va sz
            (fun s => s.readElem a (pAs e.pat) .yes (s.viaCell a accRead (s.blockLogs a) false i) va sz)
            fun s v =>
              match e.vals with
              | [] => s.setStr a i fun e => { e with vals := [v] }
              | lo :: _ => s.setStr a i fun e => { e with vals := [], flush := some 1, i := lo, hi := v }

/-! ## ISECT and UNION (R350) -/

/-- One step of ISECT or UNION. -/
def State.stepJoin (s : State) (a : Agent) (i op : Nat) (f : FmtT) (sl : Slot) : State :=
  let fm : Fmt := .t f
  match s.strHead a op fm sl .l, s.strHead a op fm sl .r with
  | some x, some y =>
    let popL (s : State) : State := s.strPop a i op fm sl .l
    let popR (s : State) : State := s.strPop a i op fm sl .r
    let left (s : State) : State :=
      if op = 0x74 then (popL s).strSend a i op fm (wordTok x.w64) (coordTok (crdOf x.w64) absent) else popL s
    let right (s : State) : State :=
      if op = 0x74 then (popR s).strSend a i op fm (coordTok (crdOf y.w64) absent) (wordTok y.w64) else popR s
    if x.stop ≠ 0 && y.stop ≠ 0 then
      (if x.stop = y.stop then ((popR (popL s)).strStop a i op fm x.stop).strEnd a i (strRk op f) x.stop else s)
    else if y.stop ≠ 0 then left s
    else if x.stop ≠ 0 then right s
    else if crdOf x.w64 = crdOf y.w64 then (popR (popL s)).strSend a i op fm (wordTok x.w64) (wordTok y.w64)
    else if crdOf x.w64 < crdOf y.w64 then left s
    else right s
  | _, _ => s

/-! ## REPEAT (R351) -/

/-- One step of REPEAT. -/
def State.stepRepeat (s : State) (a : Agent) (i : Nat) (f : FmtT) (sl : Slot) (e : StrEng) : State :=
  let fm : Fmt := .t f
  match s.strHead a 0x75 fm sl .r with
  | none => s
  | some y =>
    match e.cur with
    | none =>
      (match s.strHead a 0x75 fm sl .l with
       | some x => if x.stop ≠ 0 then s else (s.strPop a i 0x75 fm sl .l).setStr a i fun e => { e with cur := some x }
       | none => s)
    | some v =>
      if y.stop = 0 then (s.strPop a i 0x75 fm sl .r).strSend a i 0x75 fm v y
      else
        let go (s : State) : State :=
          (((s.strPop a i 0x75 fm sl .r).setStr a i fun e => { e with cur := none }).strStop a i 0x75 fm y.stop).strEnd a i
            (strRk 0x75 f) y.stop
        if y.stop < 2 then go s
        else
          match s.strHead a 0x75 fm sl .l with
          | some x => if x.stop + 1 = y.stop then go (s.strPop a i 0x75 fm sl .l) else s
          | none => s

/-! ## SACC (R351) -/

/-- The value of an accumulation or of SCATA's operation: the result, flags, generator (R313, R314, R351). AOP 3 is the
float add; on integers 0 wraps. -/
def strCombine (ty : Ty) (aop : Nat) (rm : Rm) (gen old v : Nat) : Nat × Nat × Nat :=
  let w := ty.width
  let lt (a b : Nat) : Bool := ty.intVal a < ty.intVal b
  if ty.isFloat then
    let r := floatRes ty rm false gen (addNum rm (Num.decode ty old) (Num.decode ty v))
    (r.bits, r.flags, r.gen)
  else
    ((match aop with
      | 0 => (old + v) % 2 ^ w
      | 1 => if lt v old then v else old
      | 2 => if lt old v then v else old
      | 4 => old &&& v
      | 5 => old ||| v
      | 6 => old ^^^ v
      | _ => v), 0, gen)

/-- Flags of an element merge at the block's commit, even when its block executes again (R351, R353). -/
def State.strFlags (s : State) (a : Agent) (i fl : Nat) : State :=
  s.modWin a fun w => { w.raise fl with keptFl := w.keptFl.put i (w.keptFl.get i 0 ||| fl) }

/-- One step of SACC. Its LOCAL and SPILL failures carry the access code 001, for reads too: R40 lists no code for SACC, and R351 and R354
give none (DESIGN CHOICE, log entry 126). -/
def State.stepSacc (s : State) (a : Agent) (i : Nat) (f : FmtT) (sl : Slot) (e : StrEng) : State :=
  let fm : Fmt := .t f
  let sz := elemBytes f.ty
  let lv := fieldN f.aux.toNat 2 0
  let ad (c : Nat) : Nat := vaAdd (pBase e.pat) ((c * sz : Nat) : Int)
  let via (s : State) : Via := s.viaCell a accWrite (s.blockLogs a) false i
  match s.strHead a 0x76 fm sl .l, s.strHead a 0x76 fm sl .r with
  | some x, some y =>
    let pop (s : State) : State := (s.strPop a i 0x76 fm sl .l).strPop a i 0x76 fm sl .r
    if x.stop ≠ y.stop then s
    else if x.stop = 0 then
      let c := crdOf x.w64
      if pN0 e.pat < c then
        s.strElem a i e false true true (ad c) sz (fun s => .bad s fcNotMapped (trDetail accWrite 0 8) (ad c)) fun s _ => s
      else if e.occ.contains c then
        s.strElem a i e true true true (ad c) sz
          (fun s =>
            match s.readElem a true .no (via s) (ad c) sz with
            | .ok s old =>
              let r := strCombine f.ty 0 .rne 0 old (y.elem f.ty)
              (match s.writeElem a true false (via s) (ad c) sz r.1 with
               | .ok s _ => .ok s r.2.1
               | r => r)
            | r => r)
          fun s fl => (pop s).strFlags a i fl
      else
        s.strElem a i e false true true (ad c) sz (fun s => s.writeElem a true false (via s) (ad c) sz (y.elem f.ty))
          fun s _ => (pop s).setStr a i fun e => { e with occ := setAdd e.occ c }
    else if x.stop < lv then (pop s).strEnd a i (strRk 0x76 f) x.stop
    else
      match e.occ with
      | c :: r =>
        s.strElem a i e true false true (ad c) sz (fun s => s.readElem a true .no (via s) (ad c) sz)
          fun s v => (s.setStr a i fun e => { e with occ := r, ord := e.ord + 1 }).strSend a i 0x76 fm (coordTok c e.ord) (elemTok f.ty v)
      | [] => ((pop s).strStop a i 0x76 fm (x.stop - lv + 1)).strEnd a i (strRk 0x76 f) x.stop
  | _, _ => s

/-! ## GATHER, SCATTER, SCATA (R351, R352) -/

/-- A performed element is a point of no return (R335). -/
def State.strPnr (s : State) (a : Agent) : State := s.modWin a fun w => { w with pnr := true }

/-- The lanes of coordinate tokens: one, or 32. -/
def coordLanes (f : FmtT) (t : Token) : List Nat := if f.sh == .vector then t.lanes .i64 else [t.w64]

/-- An element read-modify-written for SCATA, under access code 001 (R40). The element must be aligned, which is judged after
the canonical form of its address (R43, R103, R304). -/
def State.scataElem (s : State) (a : Agent) (loc : Bool) (v : Via) (va n : Nat) (g : Nat → Nat) : ElemRes :=
  if va % n ≠ 0 && (loc || canonical va) then .bad s fcAlign (memDetail v.acc 1) va
  else if loc then
    match s.readElem a true .no v va n with
    | .ok s old => (match s.writeElem a true false v va n (g old) with | .ok s _ => .ok s old | r => r)
    | r => r
  else
    match s.elemLook v va with
    | (.bad c d, s) => .bad s c d va
    | (.miss, s) => .wait s
    | (.hit pa attr, s) =>
      if s.elemBehind v v.rel false pa n || !s.homeReady pa then .wait s
      else if attr.kind = 1 then .bad s fcAlign (memDetail v.acc 2) va
      else (s.rmwAt v.src attr pa n fun old => some (g old)).elem s v.acc { va := va, pa := pa, attr := attr, n := n }

/-- One lane of GATHER, SCATTER or SCATA, the next of its token; after the last the tokens are consumed. -/
def State.stepGather (s : State) (a : Agent) (i op : Nat) (f : FmtT) (sl : Slot) (e : StrEng) : State :=
  let fm : Fmt := .t f
  let n := elemBytes f.ty
  let two := op ≠ 0x77
  let pop (s : State) : State := let s := s.strPop a i op fm sl .l; if two then s.strPop a i op fm sl .r else s
  match s.strHead a op fm sl .l, (if two then s.strHead a op fm sl .r else some (wordTok 0)) with
  | some x, some y =>
    if x.stop ≠ 0 then
      (if two then (if x.stop = y.stop then (pop s).strEnd a i (strRk op f) x.stop else s)
       else ((pop s).strStop a i op fm x.stop).strEnd a i (strRk op f) x.stop)
    else if two && y.stop ≠ 0 then s
    else
      let cs := coordLanes f x
      let j := e.vals.length
      match cs[j]? with
      | none =>
        let s := (pop s).setStr a i fun e => { e with vals := [] }
        if two then s
        else
          let t := if f.sh == .vector then lanesTok f.ty e.vals else elemTok f.ty (e.vals.headD 0)
          s.strSend a i op fm t t
      | some c =>
        let next (s : State) (v gen : Nat) : State := s.setStr a i fun e => { e with vals := e.vals ++ [v], ref := gen }
        if refOf c = absent then next s 0 e.ref
        else
          let va := vaAdd (pBase e.pat) ((refOf c : Nat) * pSt0 e.pat)
          let loc := pAs e.pat
          let log := s.blockLogs a
          let val := if f.sh == .vector then ((y.lanes f.ty)[j]?).getD 0 else y.elem f.ty
          let acq (s : State) : State := if strAcq f && op ≠ 0x78 && !loc then s.acquireAt a (strSc f) else s
          let via (s : State) (acc : Nat) : Via := { s.viaCell a acc log (strRel f) i with sc := if loc then 1 else strSc f }
          let once : Bool := op = 0x77 && !loc && (match (s.elemLook (via s accRead) va).1 with | .hit _ attr => attr.kind = 1 | _ => false)
          if once && !e.once then s.setStr a i fun e => { e with once := true }
          else if op = 0x77 then
            s.strElem a i e true false loc va n
              (fun s => s.readElem a loc (if strAcq f && 4 ≤ strSc f then .no else .yes) (via s accRead) va n)
              fun s v => next ((acq s).strPnr a) v e.ref
          else if op = 0x78 then
            s.strElem a i e false true loc va n (fun s => s.writeElem a loc false (via s accWrite) va n val)
              fun s _ => next (s.strPnr a) 0 e.ref
          else
            let aop := fieldN f.aux.toNat 2 0
            let rm := s.resolveRm a .dyn
            let res (old : Nat) : Nat × Nat × Nat := strCombine f.ty aop rm e.ref old val
            s.strElem a i e true true loc va n
              (fun s => s.scataElem a loc (via s accWrite) va n fun old => (res old).1)
              fun s old => next (((acq s).strPnr a).strFlags a i (res old).2.1) 0 (res old).2.2
  | _, _ => s

/-! ## Firing -/

/-- The kind of record a stream instruction takes: AFFINE, or either; SACC's is local (R346, R349, R351). -/
def State.strRecord (s : State) (a : Agent) (op : Nat) (f : FmtT) : Except Nat (List Word) :=
  if 0x73 ≤ op && op ≤ 0x75 then .ok []
  else
    match s.patternOf a f.sr.toNat (if op = 0x72 then 2 else 0) with
    | .error c => .error c
    | .ok p => if op = 0x76 && !pAs p then .error scBadrec else .ok p

/-- A stream instruction fires and holds its engine (R344, R345). -/
def fireStream (s : State) (op : Nat) (f : FmtT) : Host.Outcome State Fault Refusal :=
  fireWith s op (.t f) fun s a i _ =>
    match s.strRecord a op f with
    | .error c => s.shapeFault a i c
    | .ok p => s.setSlot a i fun sl => { sl with st := .running, eng := .stream { StrEng.fresh p with ref := s.genOf a i } }

/-- SCAN (R349). -/
def execScan (f : FmtT) (s : State) : Host.Outcome State Fault Refusal := fireStream s 0x72 f
/-- ISECT (R350). -/
def execIsect (f : FmtT) (s : State) : Host.Outcome State Fault Refusal := fireStream s 0x73 f
/-- UNION (R350). -/
def execUnionS (f : FmtT) (s : State) : Host.Outcome State Fault Refusal := fireStream s 0x74 f
/-- REPEAT (R351). -/
def execRepeatS (f : FmtT) (s : State) : Host.Outcome State Fault Refusal := fireStream s 0x75 f
/-- SACC (R351). -/
def execSacc (f : FmtT) (s : State) : Host.Outcome State Fault Refusal := fireStream s 0x76 f
/-- GATHER (R351). -/
def execGather (f : FmtT) (s : State) : Host.Outcome State Fault Refusal := fireStream s 0x77 f
/-- SCATTER (R351). -/
def execScatter (f : FmtT) (s : State) : Host.Outcome State Fault Refusal := fireStream s 0x78 f
/-- SCATA (R351). -/
def execScata (f : FmtT) (s : State) : Host.Outcome State Fault Refusal := fireStream s 0x79 f

/-- One step of a running engine. -/
def State.stepStream (s : State) (a : Agent) (i op : Nat) (f : FmtT) (sl : Slot) (e : StrEng) : State :=
  if op = 0x72 then s.stepScan a i f sl e
  else if op = 0x73 || op = 0x74 then s.stepJoin a i op f sl
  else if op = 0x75 then s.stepRepeat a i f sl e
  else if op = 0x76 then s.stepSacc a i f sl e
  else s.stepGather a i op f sl e

/-- STREAM_TOKEN (R345): a running stream instruction goes on with the token at its field. -/
def execStreamToken (a : Agent) (slot : Nat) (s : State) : Host.Outcome State Fault Refusal :=
  match s.win a with
  | none => .next s
  | some w =>
    match w.slots[slot]?, s.fieldsAt a w.baddr slot with
    | some sl, some (op, .t f) =>
      (match sl.st, sl.eng with
       | .running, .stream e =>
         if e.held || (s.task a).st ≠ .active then .next s else .next (s.stepStream a slot op f sl e)
       | _, _ => .next s)
    | _, _ => .next s

end Sys2Proof.Machine
end

