-- ==== Sys2Proof/Machine/Ports.lean ====
section
/-! DEFINITION. The stream commands of the memory ports: SBIND and SBAR with their events (R95-R97, R168, R204, R347,
R348, R353, R354, R399, R414, R457, R471). -/

namespace Sys2Proof.Machine

/-! ## A command and its place -/

/-- The state with a command of a port changed, in its scoreboard or waiting before it. -/
def State.modCmd (s : State) (port id : Nat) (g : StreamCmd → StreamCmd) : State :=
  let h (l : List StreamCmd) : List StreamCmd := l.map fun c => if c.id = id then g c else c
  s.modPort port fun p => { p with cmds := h p.cmds, waiting := h p.waiting }

/-- A command of a port's scoreboard. -/
def State.cmd? (s : State) (port id : Nat) : Option StreamCmd := (s.port port).cmds.find? fun c => c.id == id

/-- The agent in whose space and for whose region a command accesses memory (R457). -/
def StreamCmd.actor (c : StreamCmd) : Agent := .task (c.cell / 256) (c.cell % 256) c.task

/-- CFG values of a configuration context (R50). -/
def State.cfgAt (s : State) (cell cctx : Nat) : Cfg :=
  let x := (s.cell cell).cctx cctx
  { phys := false, asid := x.asid, troot := x.troot, dset := x.dset, keyid := x.keyid
    priv := match s.regions.find x.region with | some r => r.rank == 7 | none => false }

/-- How a command's accesses translate (R347): at the TLB of its port, with its context's CFG values. -/
def State.viaCmd (s : State) (port : Nat) (c : StreamCmd) (acc : Nat) : Via :=
  { port := port, cfg := s.cfgAt c.cell c.cctx, acc := acc, src := { s.srcOf c.agent with blockLog := c.log, die := port / 64 }
    region := 0, agent := c.agent, seq := c.seq, slot := c.slot, rel := false, sc := 3 }

/-- The extent of a pattern: its lowest and its highest element offset (R330). -/
def patExtent (p : List Word) : Int × Int :=
  let part (n : Nat) (st : Int) : Int × Int := (min 0 (n * st), max 0 (n * st))
  let a := part (pN0 p) (pSt0 p)
  let b := part (pN1 p) (pSt1 p)
  let c := part (pN2 p) (pSt2 p)
  (a.1 + b.1 + c.1, a.2 + b.2 + c.2)

/-- The offset of a vector's scale byte from BASE + L + SOFF (R347): a nibble offset counts half for E2M1. -/
def scaleOff (ty : Ty) (d : Int) : Int := Int.fdiv d (32 * elemBytes ty)

/-- The footprint of a command (R168): the lowest and highest byte its record can touch. -/
def footprint (p : List Word) (off : Nat) (ty : Ty) : Int × Int :=
  let e := patExtent p
  let b : Int := vaAdd (pBase p) off
  let lo := if ty = .e2m1 then Int.fdiv e.1 2 else e.1
  let hi := if ty = .e2m1 then Int.fdiv e.2 2 else e.2 + (elemBytes ty - 1 : Nat)
  if pMm p && pSoff p ≠ 0 then
    (b + min lo (pSoff p + scaleOff ty e.1), b + max hi (pSoff p + scaleOff ty e.2))
  else (b + lo, b + hi)

/-- A command with its context's region, colour and record as they are now (R457, R471). -/
def State.bindCmd (s : State) (c : StreamCmd) (p : List Word) : StreamCmd :=
  let fp := footprint p c.off c.ty
  { c with pat := p, lo := fp.1, hi := fp.2, region := ((s.cell c.cell).cctx c.cctx).region
           color := ((s.cell c.cell).task c.task).color }

/-- A command arrives at a port: one of its 16 places, or it waits for one (R168). -/
def State.addCmd (s : State) (port : Nat) (c : StreamCmd) : State :=
  s.modPort port fun p =>
    if p.cmds.length < 16 && p.waiting.isEmpty then { p with cmds := p.cmds ++ [c] } else { p with waiting := p.waiting ++ [c] }

/-- A command of an instruction, not yet bound. -/
def State.newCmd (s : State) (a : Agent) (i : Nat) (isBar : Bool) (f : FmtT) (off : Nat) : StreamCmd :=
  let q := s.actsFor a
  { id := s.nextAcc, agent := a, cell := q.1, task := q.2.1, cctx := q.2.2, region := 0, slot := i, seq := s.seqOf a
    baddr := match s.win a with | some w => w.baddr | none => 0
    log := s.blockLogs a, isBar := isBar, write := !isBar && f.aux.toNat.testBit 11, circ := fieldN f.aux.toNat 10 5, color := 0
    ty := f.ty, pat := [], off := off, lo := 0, hi := -1, st := 0, i0 := 0, i1 := 0, i2 := 0, buf := [], tag := none, tiles := []
    pendStop := 0, fault := none, logHeld := false, acc := none
    outCol := match f.ta, (s.win a).bind fun w => w.slots[i]? with | .chan _ x, some sl => s.chanColour a sl x | _, _ => 0 }

/-- The port of a command: PT on the die of the cell it acts for (R347, R457). -/
def State.cmdPort (s : State) (a : Agent) (f : FmtT) : Nat := 64 * ((s.actsFor a).1 / 256) + f.pt.toNat

/-- An instruction whose command's token goes to a slot waits for it; any other has fired (R347, R353). -/
def State.cmdSlot (s : State) (a : Agent) (i : Nat) (f : FmtT) : State :=
  if f.ta.isSlot then s.setSlot a i fun sl => { sl with st := .pending } else s

/-- SBIND (R347): binds its record to its port. A helm core's command for a context without an active chart waits there
(R471). -/
def execSbind (f : FmtT) (s : State) : Host.Outcome State Fault Refusal :=
  fireWith s 0x70 (.t f) fun s a i sl =>
    let c := s.newCmd a i false f (sl.tok .l).w64
    let add (s : State) (c : StreamCmd) : State :=
      ({ s with nextAcc := s.nextAcc + 1 }.addCmd (s.cmdPort a f) c).cmdSlot a i f
    if a.isHelm && ((s.cell c.cell).cctx c.cctx).st != .active then add s { c with st := 3 }
    else
      match s.patternOf a f.sr.toNat 0 with
      | .error k => s.shapeFault a i k
      | .ok p => add s (s.bindCmd c p)

/-- SBAR (R348): a command that separates. -/
def execSbar (f : FmtT) (s : State) : Host.Outcome State Fault Refusal :=
  fireWith s 0x71 (.t f) fun s a i _ =>
    let c := s.newCmd a i true f 0
    ({ s with nextAcc := s.nextAcc + 1 }.addCmd (s.cmdPort a f)
      { c with region := ((s.cell c.cell).cctx c.cctx).region }).cmdSlot a i f

/-! ## Starting (R168, R399) -/

/-- Must a command wait for an earlier one at its port (R168)? -/
def StreamCmd.after (c e : StreamCmd) : Bool :=
  e.st != 3 && (e.isBar || c.isBar
    || ((e.write || c.write) && decide (e.lo ≤ c.hi) && decide (c.lo ≤ e.hi)))

/-- Is the gate of a command's region closed (R399)? During a splice the one gate of the pair stands with the region that owns the mailbox. -/
def State.gatedAt (s : State) (k : Nat) : Bool := match s.regions.find (s.mailKey k) with | some r => r.gate | none => false
/-- Is a region halted by the debug hub (R414)? -/
def State.haltedAt (s : State) (k : Nat) : Bool := match s.regions.find k with | some r => r.dh | none => false

/-- STREAM_COMMAND_START (R168): the command that waits longest takes a free place; one in the scoreboard begins once
nothing earlier stands against it. A read command does not start behind a closed gate (R399). -/
def execStreamCommandStart (port cmd : Nat) (s : State) : Host.Outcome State Fault Refusal :=
  let p := s.port port
  match p.waiting with
  | c :: r =>
    if c.id = cmd then
      (if p.cmds.length < 16 then .next (s.modPort port fun p => { p with cmds := p.cmds ++ [c], waiting := r }) else .next s)
    else .next (start p)
  | [] => .next (start p)
where
  start (p : Port) : State :=
    match s.cmd? port cmd with
    | none => s
    | some c =>
      if c.st = 0 && !((p.cmds.takeWhile fun e => e.id != cmd).any c.after) && !(!c.isBar && !c.write && s.gatedAt c.region)
      then s.modCmd port cmd fun c => { c with st := 1 }
      else s

/-! ## Elements (R347) -/

/-- A token enters the mesh at a memory port, if there is room (R165, R347). -/
def State.portSend (s : State) (port circ : Nat) (tok : Token) : Option State :=
  match s.portEnd (port / 64) (port % 64) with
  | none => none
  | some (p, side) =>
    let key := cellKey (port / 64) p
    let lk := 64 * side + circ
    if (s.cell key).latchRoom lk tok then some (s.latchPut key lk tok) else none

/-- Elements of one token of a command: 32 with VEC, else one (R330). -/
def StreamCmd.lanes (c : StreamCmd) : Nat := if pVec c.pat then 32 else 1

/-- A command's counters after a token, the stop token due, and whether the pattern is done (R347). -/
def StreamCmd.advance (c : StreamCmd) : StreamCmd × Bool :=
  let c := { c with buf := [], scale := none, i0 := c.i0 + c.lanes }
  if c.i0 ≤ pN0 c.pat then ({ c with pendStop := 0 }, false)
  else if c.i1 < pN1 c.pat then ({ c with i0 := 0, i1 := c.i1 + 1, pendStop := 1 }, false)
  else
    let k := if 2 ≤ pRank c.pat then 2 else 1
    if c.i2 < pN2 c.pat then ({ c with i0 := 0, i1 := 0, i2 := c.i2 + 1, pendStop := k }, false)
    else ({ c with i0 := 0, i1 := 0, i2 := c.i2 + 1, pendStop := if pRank c.pat = 3 then 3 else k }, true)

/-- Has a command passed the last element of its pattern? -/
def StreamCmd.finished (c : StreamCmd) : Bool := pN2 c.pat < c.i2

/-- The completion token of a command leaves on its channel, in the colour that it had when the command fired (R155). -/
def State.outlived (s : State) (c : StreamCmd) (tok : Token) : State :=
  match c.agent, s.fieldsAt c.agent c.baddr c.slot with
  | .task d p _, some (_, f) =>
    (match f.ta with
     | .chan n _ =>
       (match (s.task c.agent).outCircuit n.val with
        | some circ => s.latchPut (cellKey d p) (64 * 4 + circ) { tok with color := c.outCol }
        | none => s)
     | _ => s)
  | _, _ => s

/-- A command completes: its place is free and its token leaves (R347, R348, R353). -/
def State.endCmd (s : State) (port : Nat) (c : StreamCmd) : State :=
  let s := s.modPort port fun p => { p with cmds := p.cmds.filter fun e => e.id != c.id }
  let tok := wordTok 0
  if optB (s.win c.agent) (fun w => w.seq == c.seq) then
    match s.fieldsAt c.agent c.baddr c.slot with
    | some (op, f) =>
      (match f.ta with
       | .slot _ _ =>
         let s := (s.strKeep c.agent f.ta c.slot tok).setSlot c.agent c.slot fun sl => { sl with st := .fired }
         s.send c.agent c.slot op f f.ta tok 1
       | .chan _ _ => s.outlived c tok
       | _ => s)
    | none => s
  else s.outlived c tok

/-- An element access of a command: a global one whatever AS of its record, since stream-port patterns never use the local space
(R28). -/
def State.cmdElem (s : State) (port : Nat) (c : StreamCmd) (va n : Nat) (attempt : State → ElemRes) (ok : State → Nat → State) :
    State :=
  let x := { s.elemAcc c.actor c.slot c.seq c.baddr c.log va n 0 with agent := if c.agent.isHelm then c.actor else c.agent }
  s.tryElem (s.viaCmd port c (if c.write then accPortWr else accPortRd)) x c.region (!c.write) c.write false { fault := c.fault, log := c.logHeld, acc := c.acc }
    (fun s h => s.modCmd port c.id fun c => { c with fault := h.fault, logHeld := h.log, acc := h.acc }) attempt
    fun s v => ok (s.moved c.region) v

/-- Address of lane `j` of a command's next token. -/
def StreamCmd.lane (c : StreamCmd) (j : Nat) : Nat × Bool := patAddr c.pat c.off c.ty (c.i0 + j) c.i1 c.i2

/-- An element of a class-tagged read and the tiles taken so far (R95): a tile read at its home slice is read as a whole, at one
point, its entry with it. -/
def State.readTile (s : State) (v : Via) (tiles : Table (BitVec 32768 × Word)) (va n x : Nat) :
    (Nat × Nat × Word) × Table (BitVec 32768 × Word) :=
  match (s.elemLook v va).1 with
  | .hit pa attr =>
    let home := match s.placeOf v.src pa with
      | .home => true
      | .rdc => (s.rdcHit v.src.die (pa / 128)).isNone
      | _ => false
    if !home || 4096 < pa % 4096 + n then ((x, pa, s.readTag v.src attr pa), tiles)
    else
      let t := (tiles.find (pa / 4096)).getD
        (BitVec.ofNat 32768 (s.natAs attr.conf (pa / 4096 * 4096) 4096), s.readTag v.src attr pa)
      ((fieldN t.1.toNat (8 * (pa % 4096 + n) - 1) (8 * (pa % 4096)), pa, t.2), tiles.put (pa / 4096) t)
  | _ => ((x, 0, tagGeneral), tiles)

/-- The whole vector of a command, at one point, with the tags of its tiles (R95-R97). -/
def State.readVector (s : State) (c : StreamCmd) (v : Via) (tiles : Table (BitVec 32768 × Word)) :
    List Nat → ElemRes × List LoadElem × Table (BitVec 32768 × Word)
  | [] => (.ok s 0, [], tiles)
  | j :: r =>
    let ad := c.lane j
    match s.farTile v ad.1 (elemBytes c.ty) with
    | some (pa, _) =>
      let t := (tiles.find (pa / 4096)).getD (0, tagGeneral)
      let q := State.readVector s c v tiles r
      (q.1, { enc := pickElem c.ty ad.2 (tileBytes t.1.toNat pa (elemBytes c.ty)), pa := pa, tag := t.2 } :: q.2.1, q.2.2)
    | none =>
    match s.readElem c.actor false .tagged v ad.1 (elemBytes c.ty) with
    | .ok s x =>
      let e := s.readTile v tiles ad.1 (elemBytes c.ty) x
      let q := State.readVector s c v e.2 r
      (q.1, { enc := pickElem c.ty ad.2 e.1.1, pa := e.1.2.1, tag := e.1.2.2 } :: q.2.1, q.2.2)
    | e => (e, [], tiles)

/-- The tag of a row that a port reads (R97): its tile's, ZERO over two tiles that both are, else GENERAL. -/
def rowTag (es : List LoadElem) : Word :=
  let ts := ((es.map fun e => (e.pa / 4096, e.tag)).eraseDups).map (·.2)
  match ts with
  | [t] => t
  | _ =>
    let nf := bit (ts.any fun t => flag t 61)
    if ts.all fun t => tagClass t = 0 then word (nf * 2 ^ 61) else word (3 * 2 ^ 62 + nf * 2 ^ 61)

/-- The scale token of a row: class, NF and CVAL of the row, BNAN and s of the scale byte (R204, R347). -/
def scaleToken (tag : Word) (b : Nat) : Word :=
  word (field tag 63 61 * 2 ^ 61 + bit (b = 255) * 2 ^ 60 + wrapN ((b : Int) - 127) 12 * 2 ^ 32 + field tag 31 0)

/-- The address of the scale byte of a command's next vector (R347). -/
def StreamCmd.scaleAddr (c : StreamCmd) : Nat :=
  let d := c.i0 * pSt0 c.pat + c.i1 * pSt1 c.pat + c.i2 * pSt2 c.pat
  vaAdd (vaAdd (pBase c.pat) c.off) (pSoff c.pat + scaleOff c.ty d)

/-- Does some lane of a vector lie in another package where no whole tile can be read for it: over a tile's end, or on an ONCE page? The
lanes come one by one then, and the tag is GENERAL. -/
def StreamCmd.remote (c : StreamCmd) (s : State) (v : Via) : Bool :=
  (List.range 32).any fun j => match (s.elemLook v (c.lane j).1).1 with
    | .hit pa _ => paPkg pa != s.pkgNum && (s.farTile v (c.lane j).1 (elemBytes c.ty)).isNone
    | _ => false

/-- A tile in another package that a vector lies in and that the command has not read yet (R95): a lane's address, its place. -/
def StreamCmd.farLane (c : StreamCmd) (s : State) (v : Via) : Option (Nat × Nat × Attr) :=
  (List.range 32).findSome? fun j => match s.farTile v (c.lane j).1 (elemBytes c.ty) with
    | some (pa, attr) => if (c.tiles.find (pa / 4096)).isNone then some ((c.lane j).1, pa, attr) else none
    | none => none

/-- The scale byte of a command's next vector: 127 where the record has no scales (R347). -/
def State.scaleByte (s : State) (c : StreamCmd) (v : Via) : ElemRes :=
  if pSoff c.pat = 0 then .ok s 127
  else
    s.readElem c.actor false .yes v c.scaleAddr 1

/-- Does the scale byte of a command's next vector lie in another package? -/
def StreamCmd.farScale (c : StreamCmd) (s : State) (v : Via) : Bool :=
  pSoff c.pat ≠ 0 && (match (s.elemLook v c.scaleAddr).1 with | .hit pa _ => s.placeOf v.src pa = .pod | _ => false)

/-- The token of the elements a command has read. -/
def StreamCmd.token (c : StreamCmd) : Token :=
  { (if pVec c.pat then lanesTok c.ty c.buf else elemTok c.ty (c.buf.headD 0)) with color := c.color }

/-- One step of a read command: a stop token, a scale token or a data token leaves, or an element is read. -/
def State.readCmd (s : State) (port : Nat) (c : StreamCmd) : State :=
  let v := s.viaCmd port c accPortRd
  let n := elemBytes c.ty
  if c.pendStop ≠ 0 then
    match s.portSend port c.circ { stopToken c.pendStop with color := c.color } with
    | none => s
    | some s =>
      let s := s.entered c.region
      if c.finished then s.endCmd port c
      else
        let sg := match s.regions.find c.region with | some r => r.sg | none => 1
        s.modCmd port c.id fun e => { e with pendStop := 0, st := if s.gatedAt c.region && Nat.ble sg c.pendStop then 2 else 1 }
  else if s.haltedAt c.region then s
  else if c.buf.length = c.lanes then
    match c.tag with
    | some w =>
      (match s.portSend port c.circ { kind := .scale, stop := 0, color := c.color, payload := w.setWidth 2048 } with
       | some s => (s.entered c.region).modCmd port c.id fun e => { e with tag := none }
       | none => s)
    | none =>
      match s.portSend port c.circ c.token with
      | none => s
      | some s => (s.entered c.region).modCmd port c.id fun e => e.advance.1
  else if pMm c.pat && c.tag.isNone && !c.remote s v && (c.farScale s v && c.scale.isNone) then
    s.cmdElem port c c.scaleAddr 1 (fun s => s.scaleByte c v) fun s b => s.modCmd port c.id fun e => { e with scale := some b }
  else if pMm c.pat && c.tag.isNone && !c.remote s v && (c.farLane s v).isSome then
    match c.farLane s v with
    | none => s
    | some (va, pa, attr) =>
      s.cmdElem port c va n (fun s => .pod ((s.planeFor pa).getD 32) [tileUnit s va pa attr]) fun s x =>
        s.modCmd port c.id fun e => { e with tiles := e.tiles.put (pa / 4096) (BitVec.ofNat 32768 (x % 2 ^ 32768), tileTag attr x) }
  else if pMm c.pat && c.tag.isNone && !c.remote s v then
    s.cmdElem port c (c.lane 0).1 n
      (fun s =>
        match (match c.scale with | some b => ElemRes.ok s b | none => s.scaleByte c v) with
        | .ok s b =>
          (match s.readVector c v c.tiles (List.range 32) with
           | (.ok s _, es, tiles) =>
             .ok (s.modCmd port c.id fun e => { e with tiles := tiles })
               (packLanes 64 ((scaleToken (rowTag es) b).toNat :: es.map (·.enc)))
           | (r, _) => r)
        | r => r)
      fun s x => s.modCmd port c.id fun e =>
        { e with tag := some (word x), buf := (List.range 32).map fun j => x / 2 ^ (64 * (j + 1)) % 2 ^ 64 }
  else if pMm c.pat && c.tag.isNone then
    s.cmdElem port c (c.scaleAddr) 1 (fun s => s.scaleByte c v)
      fun s b => s.modCmd port c.id fun e => { e with tag := some (scaleToken tagGeneral b) }
  else
    let ad := c.lane c.buf.length
    s.cmdElem port c ad.1 n (fun s => s.readElem c.actor false .yes v ad.1 n)
      fun s x => s.modCmd port c.id fun e => { e with buf := e.buf ++ [pickElem c.ty ad.2 x] }

/-- A value written for an element: an E2M1 nibble leaves the other half of its byte (R330). -/
def State.writeLane (s : State) (c : StreamCmd) (v : Via) (ad : Nat × Bool) (val : Nat) : ElemRes :=
  if c.ty = .e2m1 then
    match s.readElem c.actor false .no v ad.1 1 with
    | .ok s b => s.writeElem c.actor false true v ad.1 1 (if ad.2 then val % 16 * 16 + b % 16 else b / 16 * 16 + val % 16)
    | r => r
  else s.writeElem c.actor false true v ad.1 (elemBytes c.ty) val

/-- Lanes that follow lane `j` of a write without a gap and fill an aligned 8-byte word with it (R76, R77, R103); 1 where there
is no such word. -/
def StreamCmd.wordLanes (c : StreamCmd) (j : Nat) : Nat :=
  let w := c.ty.width
  let k := 64 / w
  let bitAt (i : Nat) : Nat := 8 * (c.lane i).1 + (if (c.lane i).2 then 4 else 0)
  if 1 < k && j + k ≤ c.lanes && bitAt j % 64 = 0 && (List.range k).all (fun i => bitAt (j + i) == bitAt j + i * w) then k else 1

/-- One step of a write command: a stop token is discarded, or the next element of a data token is written, or the elements
that fill one aligned word. -/
def State.writeCmd (s : State) (port : Nat) (c : StreamCmd) : State :=
  let pop (s : State) : State := s.modPort port fun p => { p with inq := p.inq.put c.circ ((p.inq.get c.circ []).drop 1) }
  match (s.port port).inq.get c.circ [] with
  | [] => s
  | t :: _ =>
    if t.stop ≠ 0 || t.kind == .splice then (pop s).moved c.region
    else
      let j := c.buf.length
      let k := c.wordLanes j
      let val (i : Nat) : Nat := if pVec c.pat then ((t.lanes c.ty)[i]?).getD 0 else t.elem c.ty
      let v := s.viaCmd port c accPortWr
      s.cmdElem port c (c.lane j).1 (if k = 1 then elemBytes c.ty else 8)
        (fun s => if k = 1 then s.writeLane c v (c.lane j) (val j)
          else s.writeElem c.actor false true v (c.lane j).1 8 (packLanes c.ty.width ((List.range k).map fun i => val (j + i))))
        fun s _ =>
          let s := match s.win c.agent with | some w => if w.seq = c.seq then s.strPnr c.agent else s | none => s
          if j + k < c.lanes then s.modCmd port c.id fun e => { e with buf := e.buf ++ List.replicate k 0 }
          else
            let r := c.advance
            let s := (pop s).modCmd port c.id fun e => { e.advance.1 with pendStop := 0 }
            if r.2 then s.endCmd port c else s

/-- May a command's completion token leave: its slot's task has not faulted (R270, R353)? -/
def State.cmdFree (s : State) (c : StreamCmd) : Bool :=
  match s.win c.agent with
  | some w => w.seq != c.seq || (s.task c.agent).fault.isNone || s.paused c.agent
  | none => true

/-- STREAM_COMMAND_ELEMENT (R347): a running command takes its next step; a stopped one goes on when its gate is open
(R399). A separator has nothing to do but complete. -/
def execStreamCommandElement (port cmd : Nat) (s : State) : Host.Outcome State Fault Refusal :=
  match s.cmd? port cmd with
  | none => .next s
  | some c =>
    if c.st = 2 then (if s.gatedAt c.region then .next s else .next (s.modCmd port cmd fun c => { c with st := 1 }))
    else if c.st ≠ 1 || c.fault.isSome || !s.cmdFree c then .next s
    else if c.isBar then .next ((s.moved c.region).endCmd port c)
    else if c.write then .next (s.writeCmd port c)
    else .next (s.readCmd port c)

/-- HELM_SBIND_ACTIVATION (R471): a chart has been activated in the context a waiting command names; it enters the
scoreboard behind those already there, with the chart's record, colour and CFG values (R457). -/
def execHelmSbindActivation (port cmd : Nat) (s : State) : Host.Outcome State Fault Refusal :=
  match s.cmd? port cmd with
  | none => .next s
  | some c =>
    let x := (s.cell c.cell).cctx c.cctx
    if c.st ≠ 3 || x.st != .active || c.fault.isSome then .next s
    else
      let i := (match s.fieldsAt c.agent c.baddr c.slot with
        | some (_, .t f) => (f.sr.toNat + ((s.cell c.cell).task c.task).shapeb) % 256
        | _ => 0)
      let p := (s.cell c.cell).shapes.get i [0, 0, 0, 0]
      let rec0 (k : Nat) : FaultRec :=
        { s.accRecord (s.elemAcc c.actor c.slot c.seq c.baddr false 0 0 0) fcShape k 0 with strm := true, acc := none }
      let hold (k : Nat) : State := (s.modCmd port cmd fun c => { c with fault := some (rec0 k) }).takeHeld x.region (rec0 k)
      if !x.shapes.contains i then .next (hold scNorec)
      else if badRecord p || pPk p ≠ 0 then .next (hold scBadrec)
      else .next (s.modPort port fun q =>
        { q with cmds := (q.cmds.filter fun e => e.id != cmd) ++ [{ s.bindCmd c p with st := 0 }] })

end Sys2Proof.Machine
end

