-- ==== Sys2Proof/Machine/Control.lean ====
section
/-! DEFINITION. The control instructions A0-AB (R262-R273), the return of colours and their grant (R163, R271), and the
activation of a task by a token (R156). What an exit does takes effect when its block commits (Commit). -/

namespace Sys2Proof.Machine

/-! ## Cell choices in a logged context (R134, R145) -/

/-- Word 0 of the CHOICE entry of an agent's instruction: CKIND 1 SPAWN, 2 SYNC (R134). -/
def choiceWord (d p t ck slot : Nat) : Nat := 6 * 2 ^ 60 + d * 2 ^ 46 + p * 2 ^ 38 + ck * 2 ^ 36 + t * 2 ^ 30 + slot * 2 ^ 23

/-- The value that a logged context records for an instruction: the recorded one during replay (R145). -/
def State.choice (s : State) (a : Agent) (ck slot v : Nat) : LogRes :=
  match a with
  | .helm _ => .done s
  | .task d p t =>
    let ln := s.cctxLog (cellKey d p) (s.task a).cctx
    if ln = 0 then .done s else s.append ln (choiceKey (cellKey d p)) (choiceWord d p t ck slot) v

/-- The value that replay has recorded for an instruction's next choice. -/
def State.recorded (s : State) (a : Agent) (ck slot : Nat) : Option Nat :=
  match a with
  | .helm _ => none
  | .task d p t =>
    let key := cellKey d p
    let ln := s.cctxLog key (s.task a).cctx
    match s.log ln with
    | some l =>
      if l.replaying (choiceKey key) then (s.replayNext ln (choiceKey key) (· == choiceWord d p t ck slot)).map (·.2) else none
    | none => none

/-- A choice meets a full sub-log (R138). It is no write: no address stands for it. -/
def State.choiceFull (s : State) (ln key : Nat) : State := s.logFull ln key none noWord 0

/-! ## Exits (R262-R270) -/

/-- An exit fires: a second one in the attempt is a fault (R160, R262). `next` is the successor it names. -/
def State.takeExit (s : State) (a : Agent) (i op next code : Nat) : State :=
  match s.win a with
  | none => s
  | some w =>
    if w.exit.isSome then s.blockFault a (some i) fcNoExit bcMultiExit 0
    else (s.modWin a fun w => { w with exit := some { slot := i, op := op, next := next, code := code } }).modTask a
      fun t => { t with succ := if op = 0xA7 then none else some next }

/-- The successor at OFF of an exit of the block at `b` (R219). -/
def offTarget (f : FmtC) (b : Nat) : Nat := ((b : Int) + sextN f.off.toNat 32).toNat

/-- The block address of the firing block. -/
def State.baddrOf (s : State) (a : Agent) : Nat := match s.win a with | some w => w.baddr | none => 0

/-- CK and AUX of TRAP and BRK as a code (R270). -/
def codeOf (f : FmtC) : Nat := f.ck.toNat * 32 + f.aux.toNat

/-- An exit whose successor is at OFF. -/
def fireExit (s : State) (op : Nat) (f : FmtC) : Host.Outcome State Fault Refusal :=
  fireWith s op (.c f) fun s a i _ => s.takeExit a i op (offTarget f (s.baddrOf a)) (codeOf f)

/-- The block address in L, none where it is a bad one (R265). -/
def State.addrInL (s : State) (a : Agent) (t : Token) : Option Nat :=
  if t.kind == .word && t.stop == 0 && t.w64 < 2 ^ 12 && (blockStarts (s.blockStore a)).contains t.w64 then some t.w64 else none

/-- An exit whose successor is in L (R265). One with a bad target that is also the block's second exit to fire raises TRAP, since the
target is judged first: which of TRAP and MULTIEXIT is raised the rules do not say (DESIGN CHOICE, log entry 132). -/
def State.indirect (s : State) (a : Agent) (i op : Nat) (t : Token) (ok : State → State) : State :=
  match s.addrInL a t with
  | none => s.blockFault a (some i) fcTrap 0x100 0
  | some b => ok (s.takeExit a i op b 0)

/-- The return word of a call: the address of the continuation (R266). -/
def State.returnWord (s : State) (a : Agent) : Token :=
  let b := s.baddrOf a
  wordTok (b + cdiv (16 + 8 * hdrSize (blockHeader (s.blockStore a) b)) 16)

/-- BR (R264). -/
def execBr (f : FmtC) (s : State) : Host.Outcome State Fault Refusal := fireExit s 0xA0 f
/-- YIELD (R264). -/
def execYield (f : FmtC) (s : State) : Host.Outcome State Fault Refusal := fireExit s 0xA8 f
/-- WAYPT (R269). -/
def execWaypt (f : FmtC) (s : State) : Host.Outcome State Fault Refusal := fireExit s 0xA9 f
/-- TRAP (R270). -/
def execTrap (f : FmtC) (s : State) : Host.Outcome State Fault Refusal := fireExit s 0xAA f
/-- HALT (R268). -/
def execHalt (f : FmtC) (s : State) : Host.Outcome State Fault Refusal := fireExit s 0xA7 f

/-- BRI (R265). -/
def execBri (f : FmtC) (s : State) : Host.Outcome State Fault Refusal :=
  fireWith s 0xA1 (.c f) fun s a i sl => s.indirect a i 0xA1 (sl.tok .l) id
/-- RET (R267). -/
def execRet (f : FmtC) (s : State) : Host.Outcome State Fault Refusal :=
  fireWith s 0xA4 (.c f) fun s a i sl => s.indirect a i 0xA4 (sl.tok .l) id

/-- CALL (R266): the return word leaves when it fires. -/
def execCall (f : FmtC) (s : State) : Host.Outcome State Fault Refusal :=
  fireWith s 0xA2 (.c f) fun s a i _ =>
    let t := s.returnWord a
    (s.takeExit a i 0xA2 (offTarget f (s.baddrOf a)) 0).send a i 0xA2 (.c f) f.ta t 1
/-- CALLI (R266). -/
def execCalli (f : FmtC) (s : State) : Host.Outcome State Fault Refusal :=
  fireWith s 0xA3 (.c f) fun s a i sl =>
    s.indirect a i 0xA3 (sl.tok .l) fun s => s.send a i 0xA3 (.c f) f.ta (s.returnWord a) 1

/-- BRK (R270): the task stops, its window kept. -/
def execBrk (f : FmtC) (s : State) : Host.Outcome State Fault Refusal :=
  fireWith s 0xAB (.c f) fun s a i _ =>
    (s.takeStop a (s.faultOf a (some i) fcBrk (codeOf f) 0) false).traceEvent (s.regionOf a) 2 fcBrk

/-! ## Colours (R163, R271, R272) -/

/-- SPAWN (R271): asks the region's pool for a colour. -/
def execSpawn (f : FmtC) (s : State) : Host.Outcome State Fault Refusal :=
  fireWith s 0xA5 (.c f) fun s a i _ =>
    (s.setSlot a i fun sl => { sl with st := .pending }).modRegion (s.regionOf a) fun r =>
      { r with spawnQ := r.spawnQ ++ [(a, i, s.cycle)] }

/-- The request that comes first: by cycle, then logical cell, task context and slot (R271). -/
def State.firstSpawn (s : State) (q : List (Agent × Nat × Nat)) : Option (Agent × Nat × Nat) :=
  let key (e : Agent × Nat × Nat) : Nat :=
    match e.1 with
    | .task d p t => ((e.2.2 * 256 + (s.die d).logical p) * 8 + t) * 128 + e.2.1
    | .helm _ => 0
  q.foldl (fun b e => match b with | some x => if key e < key x then some e else b | none => some e) none

/-- In replay, is the choice of an agent's slot the record that stands next (R145)? -/
def State.choiceDue (s : State) (a : Agent) (ck slot : Nat) : Bool :=
  match a with
  | .helm _ => false
  | .task d p t =>
    let key := choiceKey (cellKey d p)
    let ln := s.cctxLog (cellKey d p) (s.task a).cctx
    match s.log ln with
    | some l => l.replaying key && s.entryWord ln key (l.sub key).tail 0 == choiceWord d p t ck slot
    | none => false

/-- SPAWN_GRANT (R163, R271): the pool grants its lowest free colour to the first request, or during replay the recorded one to
the recorded request (R145): one in a cycle, among requests of cycles that have ended. -/
def execSpawnGrant (region : Nat) (s : State) : Host.Outcome State Fault Refusal :=
  match s.regions.find region with
  | none => .next s
  | some r =>
    match (r.spawnQ.find? fun e => s.choiceDue e.1 1 e.2.1).orElse fun _ => s.firstSpawn r.spawnQ with
    | none => .next s
    | some (a, i, c) =>
      let free := (bitsOf r.pool 64).filter fun n => !r.poolHeld.testBit n
      let pick := match s.recorded a 1 i with | some n => some (n % 64) | none => free.head?
      match (if s.cycle ≤ c || s.cycle < r.spawnAt then none else pick) with
      | none => .next s
      | some n =>
        match s.choice a 1 i n with
        | .done s =>
          let s := s.modRegion region fun r =>
            { r with spawnQ := r.spawnQ.filter (· != (a, i, c)), poolHeld := r.poolHeld ||| 2 ^ n, moved := s.cycle, spawnAt := s.cycle + 1 }
          let s := (s.modWin a fun w => { w with kept := w.kept.put i [wordTok n] }).setSlot a i fun sl => { sl with st := .fired }
          (match s.fieldsAt a (s.baddrOf a) i with
           | some (op, f) => .next (s.send a i op f f.ta (wordTok n) 1)
           | none => .next s)
        | .diverge ln => .next (s.diverged ln)
        | .full ln key _ => .next (s.choiceFull ln key)
        | .wait => .next s

/-- RETC (R272): its token leaves at commit, with the end of the task. -/
def execRetc (f : FmtC) (s : State) : Host.Outcome State Fault Refusal :=
  fireWith s 0xA6 (.c f) fun s a i sl => s.send a i 0xA6 (.c f) f.ta (sl.tok .l) 1

/-! ## Activation (R156) -/

/-- The colour whose token activates an idle task: among the tokens on its input channels of colours mapped to it, the
first to arrive, and of one cycle the lowest colour. -/
def State.wakingColour (s : State) (cell t : Nat) : Option Nat :=
  let c := s.cell cell
  let x := c.task t
  let arr := ((List.range 16).filterMap x.inCircuit).eraseDups.flatMap fun circ => c.inbox.get circ []
  let mine := arr.filter fun y =>
    let b := c.cmap.get y.tok.color 0
    y.at0 ≤ s.cycle && b.testBit 7 && b / 4 % 8 == t && b / 32 % 4 == x.cctx
  (mine.foldl (fun (b : Option Arrival) y => match b with
    | some z => if y.at0 < z.at0 || (y.at0 = z.at0 && y.tok.color < z.tok.color) then some y else b
    | none => some y) none).map (·.tok.color)

/-- TOKEN_ARRIVAL_ACTIVATE (R156): an idle task takes the colour of the first token that waits for it, and its entry
block becomes its firing block. -/
def execTokenArrivalActivate (cell t : Nat) (s : State) : Host.Outcome State Fault Refusal :=
  let x := (s.cell cell).task t
  if x.st ≠ .idle then .next s
  else
    match s.wakingColour cell t with
    | none => .next s
    | some col =>
      let a := Agent.task (cell / 256) (cell % 256) t
      .next ((s.modTask a fun t => { t with color := col }).startBlock a x.entry)

end Sys2Proof.Machine
end

