-- ==== Sys2Proof/Machine/Sync.lean ====
section
/-! DEFINITION. The synchronisation instructions B0-B6 (R322-R329) and the completion of a barrier phase. What EVT does
takes effect when its block commits (Commit). -/

namespace Sys2Proof.Machine

/-! ## Barriers (R324-R327) -/

/-- Beside the SYNC entry that an agent's cell appends next stand the flags of the delivery and whether it is a NULL: replay reproduces
both (R146; DESIGN CHOICE, log entry 108). -/
def State.noteSync (s : State) (a : Agent) (note : Nat) : State :=
  match a with
  | .helm _ => s
  | .task d p _ =>
    let key := choiceKey (cellKey d p)
    s.putNote (s.cctxLog (cellKey d p) (s.task a).cctx) key note

/-- The note beside the SYNC entry that replay has recorded for an instruction. -/
def State.noteOf (s : State) (a : Agent) (i : Nat) : Nat :=
  match a with
  | .helm _ => 0
  | .task d p t =>
    let key := choiceKey (cellKey d p)
    let ln := s.cctxLog (cellKey d p) (s.task a).cctx
    match s.log ln, s.replayAt ln key (· == choiceWord d p t 2 i) with
    | some l, some j => l.noteAt key j
    | _, _ => 0

/-- What a barrier instruction delivers: its choice is recorded, its slot has fired, its tokens leave (R145, R325,
R326). -/
def State.syncSend (s : State) (a : Agent) (i op : Nat) (f : FmtS) (tok : Token) (fl : Nat) (acq : Bool) : State :=
  let s := if s.replays a then s else s.noteSync a (fl % 64 + 64 * bit tok.isNull)
  match s.choice a 2 i tok.w64 with
  | .done s =>
    let s := if acq then s.acquireAt a f.sc else s
    let s := (s.modWin a fun w => w.raise fl).setSlot a i fun sl => { sl with st := .fired }
    (s.sendBoth a i op (.s f) tok 1).moved (s.regionOf a)
  | .full ln key _ => s.choiceFull ln key
  | .wait => s
  | .diverge ln => s.diverged ln

/-- What a waiting barrier instruction has reached: `live` says that it has arrived. -/
def State.setSync (s : State) (a : Agent) (i phase live : Nat) : State :=
  s.modWin a fun w => { w with ops := w.ops.put i (.begun phase live) }

/-- A barrier instruction arrives, BART reads its ticket; an arrival of an earlier attempt stands (R327). -/
def State.syncLive (s : State) (a : Agent) (i op : Nat) (f : FmtS) (sl : Slot) : State :=
  if op = 0xB2 then s.setSync a i ((sl.tok .l).w64 % 2 ^ 32) 1
  else
    match s.keptAt a i with
    | some (t :: _, _) => s.setSync a i t.w64 1
    | _ =>
      let p := (s.barrierOf a f).ctr
      let s := s.arrive a f (if op = 0xB0 && f.rop ≠ 0 then some (sl.tok .l) else none)
      (s.modWin a fun w => { w with kept := w.kept.put i [wordTok p] }).setSync a i p 1

/-- A barrier instruction that has arrived delivers if it can (R325, R326, R327). -/
def State.syncCheck (s : State) (a : Agent) (i op : Nat) (f : FmtS) (p : Nat) : State :=
  let b := s.barrierOf a f
  if op = 0xB1 then s.syncSend a i op f (wordTok p) 0 false
  else if op = 0xB0 then
    if !b.complete p then s
    else if b.isLast p then s.syncSend a i op f (wordTok (b.lastVal.getD 0)) b.lastFlags true
    else s.syncSend a i op f nullToken 0 true
  else if b.complete p then s.syncSend a i op f (wordTok 1) 0 true
  else if f.nowait then s.syncSend a i op f (wordTok 0) 0 false
  else s

/-- A barrier instruction in replay takes its recorded value, with its flags or as the NULL it was, and leaves the network alone (R145,
R146). -/
def State.syncReplay (s : State) (a : Agent) (i op : Nat) (f : FmtS) : State :=
  match s.recorded a 2 i with
  | some v =>
    let note := s.noteOf a i
    s.syncSend a i op f (if 64 ≤ note then nullToken else wordTok v) (note % 64) (op = 0xB0 || (op = 0xB2 && v = 1))
  | none => match s.choice a 2 i 0 with | .diverge ln => s.diverged ln | _ => s

/-- A pending barrier instruction is judged. -/
def State.syncTry (s : State) (a : Agent) (i : Nat) : State :=
  match s.win a with
  | none => s
  | some w =>
    match w.slots[i]?, s.fieldsAt a w.baddr i, w.ops.find i with
    | some sl, some (op, .s f), some (.begun p live) =>
      if sl.st ≠ .pending || w.stopped || (s.task a).st ≠ .active || !(0xB0 ≤ op && op ≤ 0xB2) then s
      else if live = 1 then s.syncCheck a i op f p
      else if s.replays a then s.syncReplay a i op f
      else if op = 0xB2 || (s.keptAt a i).isSome || s.barRoom a f then s.syncLive a i op f sl
      else s
    | _, _, _ => s

/-- A barrier instruction fires: in replay it waits for its recorded value, else it arrives. -/
def fireSync (s : State) (op : Nat) (f : FmtS) : Host.Outcome State Fault Refusal :=
  fireWith s op (.s f) fun s a i sl =>
    let s := s.setSlot a i fun sl => { sl with st := .pending }
    (if s.replays a then s.setSync a i 0 0 else s.syncLive a i op f sl).syncTry a i

/-- BARW (R325). -/
def execBarw (f : FmtS) (s : State) : Host.Outcome State Fault Refusal := fireSync s 0xB0 f
/-- BARA (R326). -/
def execBara (f : FmtS) (s : State) : Host.Outcome State Fault Refusal := fireSync s 0xB1 f
/-- BART (R326). -/
def execBart (f : FmtS) (s : State) : Host.Outcome State Fault Refusal := fireSync s 0xB2 f

/-- Every task context and helm core. -/
def State.agents (s : State) : List Agent :=
  (s.cells.flatMap fun e => e.2.tasks.map fun t => Agent.task (e.1 / 256) (e.1 % 256) t.1) ++ s.helms.map fun e => .helm e.1

/-- BARRIER_PHASE_COMPLETE (R324-R326): an instance that has its N arrivals completes its phase, and what waits on a
barrier is judged again. -/
def execBarrierPhaseComplete (n : Nat) (s : State) : Host.Outcome State Fault Refusal :=
  let s := match s.barriers[n]? with
    | some b =>
      if b.count ≠ 0 && b.n ≤ b.count then { s with barriers := listModify s.barriers n s.completePhase } else s
    | none => s
  .next (s.agents.foldl (fun s a => (List.range 128).foldl (fun s i => s.syncTry a i) s) s)

/-! ## Semaphores (R328) -/

/-- A semaphore instruction opens its access at L's address, or delivers what it kept. -/
def fireSem (s : State) (op : Nat) (f : FmtS) : Host.Outcome State Fault Refusal :=
  fireWith s op (.s f) fun s a i sl =>
    match s.keptAt a i with
    | some (toks, fl) => s.deliverKept a i op (.s f) toks fl
    | none => s.openAccess a i op .i64 false f.sc .rlx false (sl.tok .l).w64 (sl.tok .r) (sl.tok .x) none

/-- SEMW (R328). -/
def execSemw (f : FmtS) (s : State) : Host.Outcome State Fault Refusal := fireSem s 0xB3 f
/-- SEMA (R328). -/
def execSema (f : FmtS) (s : State) : Host.Outcome State Fault Refusal := fireSem s 0xB4 f
/-- SEMR (R328). -/
def execSemr (f : FmtS) (s : State) : Host.Outcome State Fault Refusal := fireSem s 0xB5 f

/-! ## Events (R329) -/

/-- EVT (R329): fires; its event is sent at the block's commit. -/
def execEvt (f : FmtS) (s : State) : Host.Outcome State Fault Refusal := fireWith s 0xB6 (.s f) fun s _ _ _ => s

end Sys2Proof.Machine
end

