-- ==== Sys2Proof/Machine/Copies.lean ====
section
/-! DEFINITION. Operations at commit and their reads of records; the copy queues and engines: COPY, BATCH, WAITB, CSTAT,
CANCEL of copies, and the steps of a copy (R50, R127, R132, R355-R360). -/

namespace Sys2Proof.Machine

/-! ## Operations at commit -/

/-- What an operation at commit comes to: done, with the token it sends; its commit waits; its block faults, with what the attempt
changed in its TLB (R46). -/
inductive CommitRes where
  | done (s : State) (tok : Option Token)
  | wait (s : State)
  | fault (s : State) (fclass detail addr : Nat)

/-- An instruction that takes effect at its block's commit: it fires and does nothing yet. -/
def fireLate (s : State) (op : Nat) (f : Fmt) : Host.Outcome State Fault Refusal := fireWith s op f fun s _ _ _ => s

/-- The words of bytes. -/
def wordsOfBytes (bs : List Byte) : List Word := (List.range (bs.length / 8)).map fun i => word (leNat ((bs.drop (8 * i)).take 8))

/-- What reading a record at commit comes to. -/
inductive RecRes where
  | ok (s : State) (ws : List Word)
  | wait (s : State)
  | bad (s : State) (fclass detail addr : Nat)

/-- The answers that an operation at commit has had from another package; none while one is due. -/
def State.opGot (s : State) (a : Agent) (i : Nat) : Option (List AUnit) :=
  match s.win a with
  | some w => (match w.ops.find i with | some (.begun id 1) => s.partsDone id | _ => some [])
  | none => some []

/-- An operation at commit needs no answer of another package any more. -/
def State.opClose (s : State) (a : Agent) (i : Nat) : State :=
  match s.win a with
  | some w => (match w.ops.find i with
    | some (.begun id 1) => (s.dropAcc id).modWin a fun w => { w with ops := w.ops.drop i }
    | _ => s)
  | none => s

/-- An operation at commit asks another package for parts, and keeps the answers it has. -/
def State.opNeed (s : State) (a : Agent) (i : Nat) (got us : List AUnit) : State :=
  let s := s.opClose a i
  (s.modWin a fun w => { w with ops := w.ops.put i (.begun s.nextAcc 1) }).openParts a (got ++ us)

/-- Read `n` bytes at a VA for an agent's operation at commit, with access code 000 or physically (R356, R366); a
record in another package is asked for first. -/
def State.readRecord (s : State) (a : Agent) (i va n : Nat) : RecRes :=
  match s.opGot a i with
  | none => .wait s
  | some us =>
    match s.readBytes (s.viaCell a accRead (s.blockLogs a) true) us (wordParts va n) with
    | .ok s bs => .ok (s.opClose a i) (wordsOfBytes bs)
    | .wait s => .wait s
    | .bad s c d b => .bad s c d b
    | .need s new => .wait (s.opNeed a i us new)

/-- The record of an operation at commit whose block was judged with it (R106): read where it stands now, or, where that fails, as it
was found before. -/
def State.readJudged (s : State) (a : Agent) (i va n : Nat) : RecRes :=
  match s.readRecord a i va n, (s.win a).bind fun w => w.recs.find i with
  | .bad s _ _ _, some ws => .ok (s.opClose a i) ws
  | r, _ => r

/-! ## Descriptors (R357) -/

def dMode (w : List Word) : Nat := field (pw w 5) 63 60
def dSty (w : List Word) : Ty := Ty.ofCode (field (pw w 5) 59 56)
def dDty (w : List Word) : Ty := Ty.ofCode (field (pw w 5) 55 52)
def dRm (w : List Word) : Rm := Rm.ofCode (field (pw w 5) 51 49)
def dSat (w : List Word) : Bool := flag (pw w 5) 48
def dOpp (w : List Word) : Bool := flag (pw w 5) 47
def dMx (w : List Word) : Bool := flag (pw w 5) 46
def dAcc (w : List Word) : Bool := flag (pw w 5) 45
def dRop (w : List Word) : Nat := field (pw w 5) 44 42
def dNsrc (w : List Word) : Nat := field (pw w 5) 41 36 + 1
def dLen (w : List Word) : Nat := field (pw w 2) 47 0
def dSeq (w : List Word) : Nat := field (pw w 4) 47 0

/-- Elements of a copy. -/
def dCount (w : List Word) : Nat := dLen w * 8 / (dSty w).width

/-- Is a descriptor refused, apart from PACE's slot size (R357)? -/
def badDescriptor (w : List Word) : Bool :=
  let m := dMode w
  let plain := m = 0 || m = 3
  field (pw w 2) 63 48 != 0 || field (pw w 4) 63 48 != 0 || field (pw w 5) 35 0 != 0 || 3 < m || dRm w == .dyn
  || 2 < dRop w || dLen w = 0 || 2 ^ 40 < dLen w || (pw w 3).toNat % 8 != 0 || (pw w 7).toNat % 8 != 0
  || (plain && (field (pw w 5) 59 48 != 0))
  || (!plain && (dSty w == .pred || dDty w == .pred))
  || dLen w * 8 % (dSty w).width != 0
  || (m = 2 && dSty w != dDty w)
  || (m = 1 && dMx w && (!(dDty w == .e4m3 || dDty w == .e5m2 || dDty w == .e2m1 || dDty w == .i8) || dCount w % 32 != 0))

/-- Destination bytes of a copy. -/
def dTotal (w : List Word) : Nat := if dMode w = 1 then (dCount w * (dDty w).width + 7) / 8 else dLen w

/-- The stamp value (R358). -/
def stampWord (err : Bool) (detail seq : Nat) : Word := word (bit err * 2 ^ 63 + detail % 512 * 2 ^ 54 + seq % 2 ^ 48)

/-- The first state of a copy's generator (R358). -/
def copyGen (seq : Nat) : Nat := let l := (seq % 2 ^ 32) ^^^ 0x9E3779B9; if l = 0 then 1 else l

/-! ## What a chunk writes (R358) -/

/-- Elements of a width in bytes. -/
def elemsOf (w : Nat) (bs : List Byte) : List Nat :=
  let v := leNat bs
  (List.range (bs.length * 8 / w)).map fun i => fieldN v (w * i + w - 1) (w * i)

/-- Bytes of elements of a width; `pad` fills what a half byte leaves. -/
def bytesOf (w : Nat) (l : List Nat) (pad : Nat) : List Byte :=
  let v := packLanes w l + 2 ^ (w * l.length) * pad
  leBytes v ((w * l.length + 7) / 8)

/-- The biased scale of a block of MX: emax by type (R358). -/
def mxScale (dty : Ty) (xs : List Num) : Nat :=
  let emax : Int := match dty with | .e4m3 => 8 | .e5m2 => 15 | .e2m1 => 2 | _ => 0
  let bad (x : Num) : Bool := match x with | .fin _ _ _ _ => false | _ => true
  let lg (x : Num) : Option Int := match x with
    | .fin _ m e _ => if m = 0 then none else some ((m.log2 : Int) + e)
    | _ => none
  if xs.any bad then 255
  else
    match xs.foldl (fun (b : Option Int) x => match b, lg x with
      | some p, some q => some (max p q)
      | none, q => q
      | p, none => p) none with
    | none => 0
    | some l => (max (-127) (min 127 (l - emax)) + 127).toNat

/-- One element of a block of MX (R358). -/
def mxElem (dty : Ty) (rm : Rm) (scale gen : Nat) (x : Num) : Res :=
  if scale = 255 then ⟨0, 0, if rm = .sto then genStep gen else gen⟩
  else
    let e : Int := (scale : Int) - 127
    let r := roundNum dty rm true gen (scaleNum x (if dty = .i8 then 6 - e else -e))
    if dty = .i8 && r.bits = 0x80 then { r with bits := 0x81 } else r

/-- CONVERT without MX. -/
def convertAll (w : List Word) (gen : Nat) (xs : List Nat) : List Nat × Nat :=
  let r := mapRes (fun g x => convertElem (dSty w) (dDty w) (dRm w) (dSat w) g x) xs gen
  (r.1, r.2.2)

/-- CONVERT with MX: elements, scale bytes, generator; `fuel` bounds the blocks. -/
def mxAll (w : List Word) : Nat → Nat → List Nat → List Nat × List Nat × Nat
  | 0, gen, _ => ([], [], gen)
  | k + 1, gen, xs =>
    if xs.isEmpty then ([], [], gen)
    else
      let b := (xs.take 32).map (Num.decode (dSty w))
      let sc := mxScale (dDty w) b
      let r := mapRes (fun g i => mxElem (dDty w) (dRm w) sc g ((b[i]?).getD .nan)) (List.range b.length) gen
      let rest := mxAll w k r.2.2 (xs.drop 32)
      (r.1 ++ rest.1, sc :: rest.2.1, rest.2.2)

/-- A list taken in an order that free values give: the order of arrival (R358 OPP; log entry 5). -/
def arrivalOrder : Nat → Nat → List Nat → List Nat
  | 0, _, l => l
  | k + 1, n, l =>
    let i := (Config.freeWord 21 n).toNat % max 1 l.length
    match l[i]? with
    | some x => x :: arrivalOrder k (n + 1) (l.eraseIdx i)
    | none => []

/-- The operation of a REDUCE (R357). -/
def dRopOf (w : List Word) : Rop := match dRop w with | 0 => .add | 1 => .min | _ => .max

/-- One combine of a REDUCE. -/
def reduceStep (w : List Word) (g a b : Nat) : Res := combineElem (dRopOf w) (dSty w) (dRm w) (dSat w) g a b

/-- One element of REDUCE: the tree, or arrival order (R358). -/
def reduceOne (w : List Word) (free gen : Nat) (vs : List Nat) : Res :=
  if dOpp w then
    match arrivalOrder vs.length free vs with
    | [] => ⟨0, 0, gen⟩
    | x :: t => t.foldl (fun r y => reduceStep w r.gen r.bits y) ⟨x, 0, gen⟩
  else reduceElems (dRopOf w) (dSty w) (dRm w) (dSat w) gen vs

/-- A chunk of REDUCE: `srcs` the sources' elements. Each value stands with the generator after its combines; one more draw
belongs to its combine with the destination (R358). -/
def reduceAll (w : List Word) (free : Nat) (srcs : List (List Nat)) : List Nat → Nat → List (Nat × Nat) × Nat
  | [], gen => ([], gen)
  | i :: is, gen =>
    let r := reduceOne w (free + 64 * i) gen (srcs.map fun l => (l[i]?).getD 0)
    let q := reduceAll w free srcs is (if dAcc w then (reduceStep w r.gen 0 0).gen else r.gen)
    ((r.bits, r.gen) :: q.1, q.2)

/-- The draws between the combine of one element with the destination and that of the next: one for each combine. -/
def accGen (w : List Word) : Nat → Nat → Nat
  | 0, g => g
  | n + 1, g => accGen w n (reduceStep w g 0 0).gen

/-- Elements that a write of REDUCE with ACC combines with those in memory (R127, R358): `x` holds their values and, above
them, the generator of the first. -/
def accWord (w : List Word) (n x old : Nat) : Nat :=
  let ew := (dSty w).width
  packLanes ew (((List.range (8 * n / ew)).foldl (fun (p : List Nat × Nat) j =>
    (p.1 ++ [(reduceStep w p.2 (old / 2 ^ (ew * j) % 2 ^ ew) (x / 2 ^ (ew * j) % 2 ^ ew)).bits], accGen w (dNsrc w) p.2))
    ([], x / 2 ^ (8 * n))).1)

/-- Bytes at a VA as the writes of a copy engine: one for each 8-byte word they touch (R103). -/
def writesOf (va : Nat) (bs : List Byte) : List (Nat × Nat × Nat) :=
  (wordsOf va bs.length).map fun wd =>
    let lo := max va (8 * wd)
    let hi := min (va + bs.length) (8 * wd + 8)
    (lo % 2 ^ 64, hi - lo, leNat ((bs.drop (lo - va)).take (hi - lo)))

/-- The writes of a chunk of REDUCE with ACC: one for each 8-byte word of an aligned destination, else one for each element, or
byte of two. -/
def accWrites (va ew : Nat) (rs : List (Nat × Nat)) : List (Nat × Nat × Nat) :=
  let n := if va % 8 = 0 then 8 else max 1 (ew / 8)
  let k := 8 * n / ew
  (List.range ((rs.length + k - 1) / k)).map fun j =>
    let part := (rs.drop (k * j)).take k
    let m := max 1 (part.length * ew / 8)
    ((va + n * j) % 2 ^ 64, m, packLanes ew (part.map (·.1)) + 2 ^ (8 * m) * ((part.head?.map (·.2)).getD 0))

/-- The same, where only the low half of the last byte is an element's (R330): that write carries 256 beside its half. -/
def halfWrites (va : Nat) (bs : List Byte) (half : Bool) : List (Nat × Nat × Nat) :=
  if half then writesOf va bs.dropLast ++ [((va + bs.length - 1) % 2 ^ 64, 1, 256 + leNat (bs.drop (bs.length - 1)) % 16)]
  else writesOf va bs

/-- The bytes that a write stores: those of its value, or for half a byte the half beside the one that stands there, which is
free where another package or an error hides it (log entry 5). -/
def State.writtenAt (s : State) (src : Src) (attr : Attr) (pa n x : Nat) : List Byte :=
  if n = 1 && Nat.ble 256 x then
    let old := match s.readAt src attr false pa 1 with | .done _ v => v / 16 | _ => (Config.freeWord 22 s.free).toNat % 16
    leBytes (x % 16 + 16 * (old % 16)) 1
  else leBytes x n

/-! ## Copies -/

/-- The state with a copy of a queue changed. -/
def State.modCopy (s : State) (q n : Nat) (g : Copy → Copy) : State :=
  s.modCopyq q fun x => { x with copies := x.copies.map fun c => if c.num = n then g c else c }

/-- A copy of a queue. -/
def State.copy? (s : State) (q n : Nat) : Option Copy := (s.copyq q).copies.find? fun c => c.num == n

/-- The TLB key of a copy engine: engine `e` of I/O die `io` (R45, R50). -/
def engineKey (io e : Nat) : Nat := 8192 + 64 * io + e

/-- Words of a copy's descriptor. -/
def Copy.words (c : Copy) : List Word := c.desc.getD []

/-- What a copy's payload writes fill from the start on (R76): its destination, and the scale bytes of MX. -/
def Copy.cover (c : Copy) : List (Nat × Nat) :=
  let w := c.words
  if c.st ≠ 1 || dMode w = 3 then []
  else if dMode w = 1 then ((pw w 1).toNat, dCount w * (dDty w).width / 8) :: if dMx w then [((pw w 6).toNat, dCount w / 32)] else []
  else [((pw w 1).toNat, dTotal w)]

/-- How a copy's accesses translate and perform: with its issuer's CFG, at its engine's TLB, as a foreign agent (R50,
R66, R132). -/
def copyVia (q : Nat) (c : Copy) (acc : Nat) : Via :=
  { port := engineKey (q / 16) c.eng, cfg := c.cfg, acc := acc, src := srcCopy (q / 16 * 4 + c.eng) (2 ^ 20 < dTotal c.words), region := 0
    agent := noAgent, seq := 0, rel := false, sc := 4, cover := c.cover }

/-- The value a WAITB reports for a copy (R359). -/
def Copy.value (c : Copy) : Word :=
  match c.fail with
  | some d => stampWord true d (match c.desc with | some w => dSeq w | none => 0)
  | none => stampWord false 0 (dSeq c.words)

/-- A waiting WAITB is judged (R359): 0 when every copy covered has succeeded, else the first failing one's value. -/
def State.waitbTry (s : State) (a : Agent) (i : Nat) : State :=
  match s.win a with
  | none => s
  | some w =>
    match w.slots[i]?, s.fieldsAt a w.baddr i, w.ops.find i with
    | some sl, some (0xC2, .t f), some (.begun b _) =>
      if sl.st ≠ .pending || w.stopped || (s.task a).st ≠ .active then s
      else
        let cs := (s.copyq (f.aux.toNat % 64)).copies.filter fun c => c.batch < b
        if cs.any fun c => c.st ≠ 3 then s
        else
          let v := match cs.find? fun c => c.fail.isSome with | some c => c.result.toNat | none => 0
          let s := (s.acquireAt a 4).setSlot a i fun sl => { sl with st := .fired }
          (s.sendBoth a i 0xC2 (.t f) (wordTok v) 1).moved (s.regionOf a)
    | _, _, _ => s

/-- Every waiting WAITB is judged. -/
def State.waitbAll (s : State) : State :=
  s.agents.foldl (fun s a => (List.range 128).foldl (fun s i => s.waitbTry a i) s) s

/-- A copy has ended: its result stands, a failure that is no withdrawal sets ERR and posts RFAULT (R358, R396). -/
def State.endCopy (s : State) (q n : Nat) : State :=
  match s.copy? q n with
  | none => s
  | some c =>
    let s := s.modCopy q n fun c => { c with st := 3, result := c.value }
    let s := match c.fail with
      | some _ =>
        if c.cancelled then s
        else (s.modCopyq q fun x => { x with err := true }).post (64 + q / 16) (eventWord 7 fcCopyErr 0) c.value
      | none => s
    s.waitbAll

/-- A copy fails: its stamp will say so. -/
def State.failCopy (s : State) (q n d : Nat) : State :=
  let s := { s with accs := s.accs.filter fun y => !(y.op = opHeld && y.slot = 64 + q / 16) }
  s.modCopy q n fun c => { c with st := 2, stage := 0, todo := [], acc := none, held := 0, fail := some d }

/-- A copy word that must cross a link or plane that is down (R387, R389): for a region's copy a held access, which RESUME sends again;
the copy of a helm core or of the host has no region to raise LINK_DOWN in, and fails (DESIGN CHOICE, log entry 123). -/
def State.linkCopy (s : State) (q n d va : Nat) : State :=
  match s.copy? q n with
  | none => s
  | some c =>
    if c.region = 0 || (s.regions.find c.region).isNone then s.failCopy q n d
    else
      let f := s.bareRecord c.region fcLinkDown d va
      (s.modCopy q n fun c => { c with down := some f }).takeHeld c.region f

/-- A copy meets a failure of a class with a detail at an address. -/
def State.copyBad (s : State) (q n c d va : Nat) : State := if c = fcLinkDown then s.linkCopy q n d va else s.failCopy q n d

/-- Does a copy wait for RESUME after a LINK_DOWN? -/
def State.copyDown (s : State) (c : Copy) : Bool := optB c.down (s.stands c.region)

/-- Copies of a queue that have not finished (R356). -/
def CopyQ.open (x : CopyQ) : Nat := (x.copies.filter fun c => c.st ≠ 3).length

/-- A captured copy, before it starts. -/
def newCopy (x : CopyQ) (cfg : Cfg) (ln : Nat) (desc : Option (List Word)) (ghost : Bool) : Copy :=
  { num := x.num, batch := x.batch, cfg := cfg, ln := ln, desc := desc, st := 0, eng := 0, pos := 0, stage := 0, size := 0
    due := 0, todo := [], acc := none, held := 0, gen := 1, fail := none, cancelled := false, ghost := ghost, result := 0 }

/-- A copy enters a queue's open batch (R356); one whose descriptor could not be read fails at once. -/
def State.addCopy (s : State) (q : Nat) (cfg : Cfg) (ln : Nat) (ghost : Bool) (d : Except Nat (List Word)) (region : Nat := 0) : State :=
  let x := s.copyq q
  let c (w : Option (List Word)) : Copy := { newCopy x cfg ln w ghost with region := region }
  match d with
  | .ok w => s.modCopyq q fun x => { x with num := x.num + 1, copies := x.copies ++ [c (some w)] }
  | .error e =>
    let s := s.modCopyq q fun x => { x with num := x.num + 1, copies := x.copies ++ [{ c none with fail := some e }] }
    s.endCopy q x.num

/-- The log of an agent's context, and whether that context is in replay (R145). -/
def State.agentLog (s : State) (a : Agent) : Nat :=
  match a with
  | .task d p _ => s.cctxLog (cellKey d p) (s.task a).cctx
  | .helm _ => 0

/-- COPY at commit (R356): waits while its queue is full, reads its descriptor, joins the open batch. In replay no copy
runs again: what it wrote is written from the log (R145). -/
def State.commitCopy (s : State) (a : Agent) (i : Nat) (f : FmtT) (l : Token) : CommitRes :=
  let q := f.aux.toNat % 64
  let b := wordTok ((s.copyq q).batch % 2 ^ 32)
  let go (s : State) (d : Except Nat (List Word)) : CommitRes :=
    .done (s.addCopy q (s.cfgFor a) (s.agentLog a) (s.replays a) d (s.regionOf a)) (some b)
  if 256 ≤ (s.copyq q).open then .wait s
  else
    match s.readRecord a i l.w64 64 with
    | .ok s ws => go s (.ok ws)
    | .wait s => .wait s
    | .bad s _ d _ => go s (.error d)

/-- BATCH at commit (R359). -/
def State.commitBatch (s : State) (f : FmtT) : CommitRes :=
  let q := f.aux.toNat % 64
  .done (s.modCopyq q fun x => { x with batch := x.batch + 1 }) (some (wordTok ((s.copyq q).batch % 2 ^ 32)))

/-- CANCEL of a queue's copies at commit (R360). -/
def State.commitCancelCopies (s : State) (f : FmtT) : CommitRes :=
  let q := f.aux.toNat % 64
  let n := ((s.copyq q).copies.filter fun c => c.st = 0).length
  let drop (c : Copy) : Copy := if c.st = 0 then { c with st := 2, fail := some 0, cancelled := true } else c
  .done (s.modCopyq q fun x => { x with copies := x.copies.map drop }) (some (wordTok n))

/-- The batches a WAITB covers: those below the number given, for L's bits [31:0] modulo 2^32 (R359). -/
def waitbBound (openB n : Nat) : Nat :=
  if openB = 0 then 0
  else
    let d := (openB - 1 + 2 ^ 32 - n % 2 ^ 32) % 2 ^ 32
    if d < 2 ^ 31 then openB - d else openB

/-- The CSTAT word (R359). -/
def CopyQ.status (x : CopyQ) : Nat :=
  x.batch % 2 ^ 32 * 2 ^ 32 + x.open * 65536 + (x.copies.filter fun c => c.st = 1 || (c.st = 2 && !c.cancelled)).length % 16 * 4096
    + bit x.err * 2048

/-- COPY (R356). -/
def execCopy (f : FmtT) (s : State) : Host.Outcome State Fault Refusal := fireLate s 0xC0 (.t f)
/-- BATCH (R359). -/
def execBatch (f : FmtT) (s : State) : Host.Outcome State Fault Refusal := fireLate s 0xC1 (.t f)
/-- CANCEL with KIND 1 (R360). -/
def execCancelCopies (f : FmtT) (s : State) : Host.Outcome State Fault Refusal := fireLate s 0xC5 (.t f)

/-- WAITB (R359): closes the open batch if it holds a copy, then waits for the copies covered. -/
def execWaitb (f : FmtT) (s : State) : Host.Outcome State Fault Refusal :=
  fireWith s 0xC2 (.t f) fun s a i sl =>
    let q := f.aux.toNat % 64
    let x := s.copyq q
    let s := if x.copies.any fun c => c.batch = x.batch then s.modCopyq q fun x => { x with batch := x.batch + 1 } else s
    let b := waitbBound (s.copyq q).batch (sl.tok .l).w64
    let s := s.modWin a fun w => { w with ops := w.ops.put i (.begun b 0) }
    (s.setSlot a i fun sl => { sl with st := .pending }).waitbTry a i

/-- CSTAT (R359): reading clears ERR. -/
def execCstat (f : FmtT) (s : State) : Host.Outcome State Fault Refusal :=
  fireWith s 0xC7 (.t f) fun s a i _ =>
    let q := f.aux.toNat % 64
    (s.modCopyq q fun x => { x with err := false }).sendBoth a i 0xC7 (.t f) (wordTok (s.copyq q).status) 1

/-- A free engine of an I/O die, one that has reported ready (R449). -/
def State.freeEngine (s : State) (io : Nat) : Option Nat :=
  (List.range 4).find? fun e => s.readyBits.contains (2228 + 4 * io + e) &&
    !(List.range 16).any fun j => (s.copyq (16 * io + j)).copies.any fun c => (c.st = 1 || (c.st = 2 && !c.cancelled)) && c.eng = e

/-- COPY_START (R356, R357): the next copy of a queue starts on a free engine; a refused descriptor fails. -/
def execCopyStart (q : Nat) (s : State) : Host.Outcome State Fault Refusal :=
  match (s.copyq q).copies.find? (fun c => c.st = 0), s.freeEngine (q / 16) with
  | some c, some e =>
    let s := s.modCopy q c.num fun c => { c with eng := e }
    if c.ghost then .next (s.modCopy q c.num fun c => { c with st := 2 })
    else if badDescriptor c.words then .next (s.failCopy q c.num 0)
    else .next (s.modCopy q c.num fun c => { c with st := 1, gen := copyGen (dSeq c.words) })
  | _, _ => .next s

/-! ## Chunks (R358) -/

/-- What computing a chunk comes to: its writes, its size, the generator after it. -/
inductive ChunkRes where
  | ok (s : State) (todo : List (Nat × Nat × Nat)) (size gen : Nat)
  | wait (s : State)
  | bad (s : State) (fclass detail addr : Nat)
  | need (s : State) (us : List AUnit)

/-- Bytes as a chunk's input. -/
def Bytes.chunk (b : Bytes) (go : State → List Byte → ChunkRes) : ChunkRes :=
  match b with
  | .ok s bs => go s bs
  | .wait s => .wait s
  | .bad s c d a => .bad s c d a
  | .need s us => .need s us

/-- The sources of a REDUCE, one after the other. -/
def State.readSources (s : State) (v : Via) (got : List AUnit) (base stride n : Nat) : List Nat → Bytes
  | [] => .ok s []
  | j :: r =>
    match s.readBytes v got (wordParts ((base + j * stride) % 2 ^ 64) n) with
    | .ok s bs =>
      (match State.readSources s v got base stride n r with
       | .ok s cs => .ok s (bs ++ cs)
       | e => e)
    | .need s us =>
      (match State.readSources s v got base stride n r with
       | .ok s _ => .need s us
       | .need s vs => .need s (us ++ vs)
       | e => e)
    | e => e

/-- Does an address lie in another package? -/
def State.copyRemote (s : State) (v : Via) (va : Nat) : Bool :=
  match (s.elemLook v va).1 with | .hit pa _ => paPkg pa != s.pkgNum | _ => false

/-- A slot of a paced copy (R43, R320, R358): the RPUT of the next bytes, or a wait for room; a bad header waits for ever. A ring
in another package has the RPUT performed there. -/
def State.paceChunk (s : State) (q : Nat) (c : Copy) (got : List AUnit) : ChunkRes :=
  let w := c.words
  let dst := (pw w 1).toNat
  let vr := copyVia q c accCopyRd
  let vw := copyVia q c accCopyWr
  if dst % 128 ≠ 0 && (if c.cfg.phys then dst < 2 ^ 52 else canonical dst) then .bad s fcAlign (memDetail accCopyWr 1) dst
  else
    (s.readBytes vw got (wordParts dst 128)).chunk fun s hb =>
      let h := leNat hb
      match ringHeader h 0 with
      | none => .wait s
      | some r =>
        let sz := 2 ^ fieldN h 127 124
        if dLen w % sz ≠ 0 then .bad s fcCopyErr 0 0
        else
          match ringMove 0x95 0 r with
          | none => .wait s
          | some m =>
            (s.readBytes vr got (wordParts (((pw w 0).toNat + c.pos) % 2 ^ 64) sz)).chunk fun s bs =>
              if s.copyRemote vw dst then .ok s [(dst, sz, leNat bs)] sz c.gen
              else .ok s (writesOf (dst + 128 + m.slot.getD 0 * sz) bs ++ writesOf dst (leBytes (ringWords h m.st) 16)) sz c.gen

/-- The next chunk of a copy: at most 4 KiB of its destination (R358). -/
def State.computeChunk (s : State) (q : Nat) (c : Copy) (got : List AUnit) : ChunkRes :=
  let w := c.words
  let vr := copyVia q c accCopyRd
  let n := min 4096 (dTotal w - c.pos)
  let dst := (pw w 1).toNat + c.pos
  let src := (pw w 0).toNat
  match dMode w with
  | 0 => (s.readBytes vr got (wordParts ((src + c.pos) % 2 ^ 64) n)).chunk fun s bs => .ok s (writesOf dst bs) n c.gen
  | 1 =>
    let dw := (dDty w).width
    let i0 := c.pos * 8 / dw
    let cnt := min (n * 8 / dw) (dCount w - i0)
    (s.readBytes vr got (wordParts ((src + i0 * (dSty w).width / 8) % 2 ^ 64) ((cnt * (dSty w).width + 7) / 8))).chunk fun s bs =>
      let xs := (elemsOf (dSty w).width bs).take cnt
      if dMx w then
        let r := mxAll w 256 c.gen xs
        .ok s (writesOf dst (bytesOf dw r.1 0) ++ writesOf ((pw w 6).toNat + i0 / 32) (r.2.1.map (BitVec.ofNat 8))) n r.2.2
      else
        let r := convertAll w c.gen xs
        .ok { s with free := s.free + 1 } (halfWrites dst (bytesOf dw r.1 0) (dw = 4 && cnt % 2 = 1)) n r.2
  | 2 =>
    let ew := (dSty w).width
    (s.readSources vr got ((src + c.pos) % 2 ^ 64) (pw w 6).toNat n (List.range (dNsrc w))).chunk fun s bs =>
      let srcs := (List.range (dNsrc w)).map fun j => elemsOf ew ((bs.drop (j * n)).take n)
      let k := n * 8 / ew
      let r := reduceAll w s.free srcs (List.range k) c.gen
      .ok { s with free := s.free + 64 * k }
        (if dAcc w then accWrites (dst % 2 ^ 64) ew r.1 else writesOf dst (bytesOf ew (r.1.map (·.1)) 0)) n r.2
  | _ => s.paceChunk q c got

/-- How far the writes of a copy came: those left, parts for another package, a failure with its class, detail and address, a
full sub-log with the word it holds. -/
structure WriteRun where
  s : State
  rest : List (Nat × Nat × Nat)
  us : List AUnit
  bad : Option (Nat × Nat × Nat)
  full : Option (Nat × Nat × Nat)

/-- One write of a copy, cut at a page: at one point, combined by `comb` with what stands there where the write is an RMW
(R76, R77, R102, R103, R127); none to an ONCE page. `fills` says that it sets the presence bits of what it covers, as a payload
write and a stamp do, and an RPUT or an atomic add does not. -/
def State.copyWrite (s : State) (v : Via) (comb : Option (Nat → Nat → Nat → Nat)) (fills : Bool) (va n x : Nat) : ElemRes :=
  match s.lookParts v (elemParts va n) with
  | .bad s c d a => .bad s c d a
  | .wait s => .wait s
  | .ok s ps =>
    match ps.find? fun p => p.attr.kind = 1, comb with
    | some p, _ => .bad s fcAlign (memDetail v.acc 2) p.va
    | none, _ =>
      if ps.any fun p => !s.homeReady p.pa then .wait s
      else
        if ps.any (s.isFar v) then
          match comb, ps with
          | none, [p] => s.goFar v (leNat (s.writtenAt v.src p.attr p.pa n x)) ps
          | none, _ => s.goFar v x ps
          | some _, _ => s.goFar v x ((ps.find? (s.isFar v)).toList.map fun p => { p with n := n })
        else
        match comb, ps with
        | none, p :: _ => s.writePlaces s v fills (leNat (s.writtenAt v.src p.attr p.pa n x)) ps
        | none, [] => .ok s 0
        | some g, _ =>
          match s.readPlaces v .no ps with
          | .ok t old => t.writePlaces t v fills (g n x old) ps
          | e => e

/-- Perform writes of a copy in order. The writes performed so far go on without a gap from `lo` to `hi`; those that have
covered a line clear its mark (R82). -/
def State.runWritesFrom (s : State) (v : Via) (comb : Option (Nat → Nat → Nat → Nat)) (fills : Bool) (lo hi : Nat) : List (Nat × Nat × Nat) → WriteRun
  | [] => { s := s, rest := [], us := [], bad := none, full := none }
  | (va, n, x) :: r =>
    let stop (s : State) : WriteRun := { s := s, rest := (va, n, x) :: r, us := [], bad := none, full := none }
    match s.copyWrite v comb fills va n x with
    | .ok s _ =>
      let lo := if va = hi then lo else va
      let s := if (va + n) % 128 = 0 && lo + 128 ≤ va + n then
          (match (s.elemLook v va).1 with | .hit pa _ => s.clearMark v.src pa | _ => s) else s
      State.runWritesFrom s v comb fills lo (va + n) r
    | .wait s | .claim s _ _ | .hold s _ _ _ => stop s
    | .bad s c d a => { stop s with bad := some (c, d, a) }
    | .full ln key held => { stop s with full := some (ln, key, held) }
    | .diverge ln => stop (s.diverged ln)
    | .pod p us =>
      if 32 ≤ p then { stop s with bad := some (fcLinkDown, s.linkDetail p, va) }
      else
        let t := State.runWritesFrom s v comb fills va (va + n) r
        { t with us := us ++ t.us }

/-- Perform payload writes of a copy in order. -/
def State.runWrites (s : State) (v : Via) (ws : List (Nat × Nat × Nat)) : WriteRun := s.runWritesFrom v none true 0 0 ws

/-- Perform writes in order that are no fills: they leave presence bits as they are (R76, R126). -/
def State.runStores (s : State) (v : Via) (ws : List (Nat × Nat × Nat)) : WriteRun := s.runWritesFrom v none false 0 0 ws

/-- What a copy's writes do with the bytes that stand there: REDUCE with ACC combines, EXPECT is added to (R127, R358). -/
def Copy.comb (c : Copy) : Option (Nat → Nat → Nat → Nat) :=
  if c.st ≠ 1 then none
  else if c.stage = 3 then some fun n x old => (old + x) % 2 ^ (8 * n)
  else if dMode c.words = 2 && dAcc c.words then some (accWord c.words) else none

/-- The operation of a copy's access to another package: an RMW for what combines, RPUT for a paced slot. -/
def Copy.podOp (c : Copy) : Nat :=
  if c.st ≠ 1 then 0
  else if c.stage = 3 then 0x87
  else if dMode c.words = 3 then 0x95
  else if dMode c.words = 2 && dAcc c.words then opAcc else 0

/-- Write what a copy has due; `fin` follows when every write has performed. -/
def State.copyWrites (s : State) (q : Nat) (c : Copy) (fin : State → State) : State :=
  match c.acc with
  | some id =>
    (match s.partsDone id with
     | none => s
     | some _ =>
       let bad := s.farBad id
       let again := match s.acc? id with
         | some x => x.units.filterMap fun u => match u.st with | .faulted 0x10 _ => some (u.va, u.size, u.val) | _ => none
         | none => []
       let s := (s.dropAcc id).modCopy q c.num fun c => { c with acc := none }
       match bad with
       | some e => (s.modCopy q c.num fun c => { c with todo := again ++ c.todo }).copyBad q c.num e.1 (withAcc accCopyWr e.1 e.2.1) e.2.2
       | none => if c.todo.isEmpty then fin s else s)
  | none =>
    let r := s.runWritesFrom (copyVia q c accCopyWr) c.comb (c.stage ≠ 3 || c.st ≠ 1) 0 0 c.todo
    match r.bad with
    | some d => (r.s.modCopy q c.num fun c => { c with todo := r.rest }).copyBad q c.num d.1 d.2.1 d.2.2
    | none =>
      let s := r.s.modCopy q c.num fun c => { c with todo := r.rest }
      let s := if r.us.isEmpty then s
        else
          let s := if (s.log c.ln).isSome then s.horizon c.ln 3 else s
          let id := s.nextAcc
          ((s.modCopy q c.num fun c => { c with acc := some id }).openParts noAgent r.us).modAcc id fun x => { x with op := c.podOp }
      match r.full with
      | some (ln, key, held) => (s.modCopy q c.num fun c => { c with held := ln }).foreignFull ln key (64 + q / 16) held
      | none =>
        let s := if c.held ≠ 0 && r.rest.isEmpty then (s.modCopy q c.num fun c => { c with held := 0 }).openLogGate c.held else s
        if r.rest.isEmpty && r.us.isEmpty then fin s else s

/-- A paced slot whose ring lies in this package (R61, R127, R320): its data and the header change in one step, or not yet;
the state, and whether they have. None: no paced slot, or one whose RPUT is performed elsewhere. -/
def State.paceNow (s0 s : State) (q : Nat) (c : Copy) (todo : List (Nat × Nat × Nat)) : Option (State × Bool) :=
  if dMode c.words ≠ 3 || s.copyRemote (copyVia q c accCopyWr) (pw c.words 1).toNat then none
  else
    let r := s.runStores (copyVia q c accCopyWr) todo
    match r.bad, r.full with
    | some d, _ => some ((if d.1 = fcLinkDown then s0 else r.s).copyBad q c.num d.1 d.2.1 d.2.2, false)
    | none, some (ln, key, held) => some ((s0.modCopy q c.num fun c => { c with held := ln }).foreignFull ln key (64 + q / 16) held, false)
    | none, none => some (if r.rest.isEmpty && r.us.isEmpty then (r.s, true) else (s0, false))

/-- One stage of a copy's chunk: read and compute, write, add to EXPECT as one RMW (R358). -/
def State.copyStage (s : State) (q n : Nat) : State :=
  match s.copy? q n with
  | none => s
  | some c =>
    if c.st ≠ 1 || s.copyDown c then s
    else
      let w := c.words
      let got : Option (List AUnit) := match c.acc with | some id => s.partsDone id | none => some []
      let need (s : State) (old us : List AUnit) : State :=
        let s := match c.acc with | some id => s.dropAcc id | none => s
        let s := if (s.log c.ln).isSome then s.horizon c.ln 3 else s
        (s.modCopy q n fun c => { c with acc := some s.nextAcc }).openParts noAgent (old ++ us)
      let close (s : State) : State := match c.acc with | some id => (s.dropAcc id).modCopy q n (fun c => { c with acc := none }) | none => s
      match c.stage, got with
      | 0, some us =>
        (match s.computeChunk q c us with
         | .ok t todo size gen =>
           (match s.paceNow t q c todo with
            | none => (close t).modCopy q n fun c => { c with stage := 1, todo := todo, size := size, gen := gen }
            | some (t, true) => (close t).modCopy q n fun c => { c with stage := 1, todo := [], size := size, gen := gen }
            | some (t, false) => t)
         | .wait s => s
         | .bad s c d a => (close s).copyBad q n c d a
         | .need s new => need s us new)
      | 1, _ =>
        s.copyWrites q c fun s => s.modCopy q n fun c =>
          let pos := c.pos + c.size
          let due := c.due + c.size
          let last := dTotal w ≤ pos
          if pw w 7 ≠ 0 && (last || dMode w ≠ 3 || pos % 4096 = 0) then
            { c with pos := pos, due := due, stage := 3, todo := [((pw w 7).toNat, 8, due % 2 ^ 64)] }
          else { c with pos := pos, due := due, stage := 0, st := if last then 2 else 1 }
      | 3, _ =>
        s.copyWrites q c fun s => s.modCopy q n fun c => { c with due := 0, stage := 0, st := if dTotal w ≤ c.pos then 2 else 1 }
      | _, _ => s

/-- COPY_CHUNK (R358): the stages of a chunk, one after the other as far as they go. -/
def execCopyChunk (q n : Nat) (s : State) : Host.Outcome State Fault Refusal :=
  .next ((List.range 4).foldl (fun (s : State) (j : Nat) =>
    match s.copy? q n with
    | some c => if j = 0 || c.stage = j then s.copyStage q n else s
    | none => s) s)

/-- COPY_STAMP (R127, R358, R360): the stamp is written last, and the copy has ended. A descriptor that is refused because STAMP itself is not
8-aligned has none written: R357 does not say whether or where (DESIGN CHOICE, log entry 134). -/
def execCopyStamp (q n : Nat) (s : State) : Host.Outcome State Fault Refusal :=
  match s.copy? q n with
  | none => .next s
  | some c =>
    let va := (pw c.words 3).toNat
    if c.st ≠ 2 || s.copyDown c then .next s
    else if c.ghost || va % 8 ≠ 0 || (va = 0 && c.stage = 0) then .next (s.endCopy q n)
    else if c.stage = 0 && c.todo.isEmpty then
      let c := { c with stage := 1, todo := [(va, 8, c.value.toNat)], acc := none }
      let s := (s.modCopy q n fun _ => c).copyWrites q c fun s => s.endCopy q n
      .next (match s.copy? q n with
        | some d => if d.st = 2 && d.stage = 0 then s.endCopy q n else s
        | none => s)
    else
      let s := s.copyWrites q c fun s => s.endCopy q n
      .next (match s.copy? q n with
        | some d => if d.st = 2 && d.stage = 0 then s.endCopy q n else s
        | none => s)

end Sys2Proof.Machine
end

