-- ==== Sys2Proof/Machine/Charts.lean ====
section
/-! DEFINITION. Chart images (R56, R64, R149-R154, R165, R170, R331, R336, R392, R416, R441): their parts, and the checks
that an image alone decides. -/

namespace Sys2Proof.Machine

/-! ## Launch status codes (R367) -/

def lsRecfmt : Nat := 0x01
def lsPriv : Nat := 0x02
def lsNofit : Nat := 0x03
def lsRectsize : Nat := 0x04
def lsChartfmt : Nat := 0x05
def lsBlockrej : Nat := 0x06
def lsColourclash : Nat := 0x07
def lsTaskclash : Nat := 0x08
def lsTileclash : Nat := 0x09
def lsShapeclash : Nat := 0x0A
def lsMatclash : Nat := 0x0B
def lsBankattr : Nat := 0x0C
def lsBankclash : Nat := 0x0D
def lsBankmap : Nat := 0x0E
def lsLogarea : Nat := 0x0F
def lsLogslot : Nat := 0x10
def lsSpillarea : Nat := 0x11
def lsFetch : Nat := 0x12
def lsLoadue : Nat := 0x13
def lsSign : Nat := 0x14
def lsCancelled : Nat := 0x15
def lsEnergy : Nat := 0x16
def lsNoctx : Nat := 0x17
def lsEdge : Nat := 0x18
def lsCondfault : Nat := 0x19
def lsNoplace : Nat := 0x1A

/-! ## The parts of an image -/

/-- A section: type, rectangle, length, offset (R150). -/
structure Sect where
  ty : Nat
  rect : Nat
  len : Nat
  off : Nat
deriving DecidableEq, Repr

/-- A chart image: its bytes and its section table. -/
structure Chart where
  bs : List Byte
  sects : List Sect
deriving DecidableEq, Repr

/-- `n` bytes of an image at an offset, as a number. -/
def Chart.num (c : Chart) (o n : Nat) : Nat := leNat ((c.bs.drop o).take n)
/-- The word of an image at an offset. -/
def Chart.w (c : Chart) (o : Nat) : Word := word (c.num o 8)

/-- Header fields (R149). -/
def Chart.rank (c : Chart) : Nat := field (c.w 0) 43 41
def Chart.sg (c : Chart) : Nat := field (c.w 0) 40 38
def Chart.logged (c : Chart) : Bool := flag (c.w 0) 37
def Chart.logpol (c : Chart) : Nat := field (c.w 0) 36 35
def Chart.nrect (c : Chart) : Nat := field (c.w 0) 34 29 + 1
def Chart.nsect (c : Chart) : Nat := field (c.w 0) 15 0
def Chart.stall (c : Chart) : Nat := field (c.w 8) 63 32
def Chart.qbound (c : Chart) : Nat := field (c.w 8) 31 0
def Chart.cksize (c : Chart) : Nat := field (c.w 16) 63 32
def Chart.fedge (c : Chart) : Nat := field (c.w 16) 31 0
def Chart.pool (c : Chart) : Nat := (c.w 24).toNat

/-- The fields of a fault edge (R392). -/
def feServe (f : Nat) : Bool := f.testBit 31
def feHrank (f : Nat) : Nat := fieldN f 30 28
def feNcol (f : Nat) : Nat := fieldN f 27 22

/-- Is a header refused (R149)? -/
def Chart.badHeader (c : Chart) : Bool :=
  field (c.w 0) 63 48 != 0xC4A7 || field (c.w 0) 47 44 != 1 || c.sg = 0 || c.logpol = 3 || field (c.w 0) 28 16 != 0
  || c.nsect = 0 || c.stall = 0 || c.w 32 != 0 || c.w 40 != 0 || c.w 48 != 0 || c.w 56 != 0

/-- Entry `i` of the section table. -/
def Chart.entry (c : Chart) (i : Nat) : Sect :=
  { ty := field (c.w (64 + 16 * i)) 63 56, rect := field (c.w (64 + 16 * i)) 55 48, len := field (c.w (64 + 16 * i)) 31 0
    off := (c.w (72 + 16 * i)).toNat }

/-- Is a section table refused (R150)? -/
def Chart.badTable (c : Chart) : Bool :=
  (List.range c.nsect).any fun i =>
    let s := c.entry i
    field (c.w (64 + 16 * i)) 47 32 != 0 || s.off % 16 != 0 || s.ty = 0 || 9 < s.ty || s.off < 64 + 16 * c.nsect
    || 2 ^ 32 < s.off + s.len || c.nrect ≤ s.rect || ((s.ty = 8 || s.ty = 9) && s.rect != 0)

/-- The length of an image (R150). -/
def Chart.length (c : Chart) : Nat :=
  (List.range c.nsect).foldl (fun n i => max n ((c.entry i).off + (c.entry i).len)) (64 + 16 * c.nsect)

/-- An image with its section table read. -/
def chartOf (bs : List Byte) : Chart :=
  let c : Chart := { bs := bs, sects := [] }
  { c with sects := (List.range c.nsect).map c.entry }

/-- Sections of a type of a rectangle. -/
def Chart.of (c : Chart) (ty rect : Nat) : List Sect := c.sects.filter fun s => s.ty == ty && s.rect == rect

/-- The cell mask of a section (R150). -/
def Chart.mask (c : Chart) (s : Sect) : Nat := c.num s.off 32
/-- Where the contents of a section stand, behind a cell mask if it has one. -/
def Sect.body (s : Sect) : Nat := if s.ty ≤ 4 then s.off + 32 else s.off
/-- The length of those contents. -/
def Sect.bodyLen (s : Sect) : Nat := if s.ty ≤ 4 then s.len - 32 else s.len

/-- The section of a type that marks a cell of a rectangle. -/
def Chart.cellSect (c : Chart) (ty rect x y : Nat) : Option Sect :=
  (c.of ty rect).find? fun s => (c.mask s).testBit (16 * y + x)

/-- The words of a section's contents; bytes of the last word past its end are 0 (log entry 60). -/
def Chart.words (c : Chart) (s : Sect) : List Word :=
  (List.range (cdiv s.bodyLen 8)).map fun i => Machine.word (c.num (s.body + 8 * i) (min 8 (s.bodyLen - 8 * i)))

/-- The width and height of a rectangle (R150 RECT). -/
def Chart.rect (c : Chart) (i : Nat) : Nat × Nat :=
  match (c.of 8 0).head? with
  | some s => let w := c.w (s.off + 8 * i); (field w 7 4 + 1, field w 3 0 + 1)
  | none => (1, 1)

/-- The block store, router entries and tile descriptors of a cell. -/
def Chart.blocks (c : Chart) (rect x y : Nat) : List Word := match c.cellSect 1 rect x y with | some s => c.words s | none => []
/-- The length in bytes of a cell's block-store image (R209). -/
def Chart.blockBytes (c : Chart) (rect x y : Nat) : Nat := match c.cellSect 1 rect x y with | some s => s.bodyLen | none => 0
def Chart.routes (c : Chart) (rect x y : Nat) : List Word := match c.cellSect 2 rect x y with | some s => c.words s | none => []
def Chart.tiles (c : Chart) (rect x y : Nat) : List Word := match c.cellSect 3 rect x y with | some s => c.words s | none => []

/-- The colour-map bytes of a cell. -/
def Chart.colours (c : Chart) (rect x y : Nat) : List Nat :=
  match c.cellSect 4 rect x y with | some s => (List.range 64).map fun i => c.num (s.body + i) 1 | none => []

/-- The task descriptors of a cell, six words each (R154). -/
def Chart.tdescs (c : Chart) (rect x y : Nat) : List (List Word) :=
  match c.cellSect 4 rect x y with
  | some s => (List.range ((s.bodyLen - 64) / 48)).map fun k => (List.range 6).map fun i => c.w (s.body + 64 + 48 * k + 8 * i)
  | none => []

/-- The shape records of a rectangle with their indices (R331). -/
def Chart.shapes (c : Chart) (rect : Nat) : List (Nat × List Word) :=
  (c.of 5 rect).flatMap fun s =>
    (List.range (field (c.w s.off) 15 8 + 1)).map fun i =>
      (field (c.w s.off) 7 0 + i, (List.range 4).map fun j => c.w (s.off + 8 + 32 * i + 8 * j))

/-- The bank table of a rectangle (R64). -/
def Chart.banks (c : Chart) (rect : Nat) : List Word := match (c.of 7 rect).head? with | some s => c.words s | none => []

/-- The node table of a rectangle, keyed by position (R416). -/
def Chart.nodes (c : Chart) (rect : Nat) : Table (List Word) :=
  match (c.of 6 rect).head? with
  | some s => (List.range (field (c.w s.off) 15 0)).map fun e => (e, [c.w (s.off + 8 + 16 * e), c.w (s.off + 16 + 16 * e)])
  | none => []

/-! ## Checks of an image (R150) -/

/-- Is a length one that its section type allows? -/
def Chart.badLength (c : Chart) (s : Sect) : Bool :=
  match s.ty with
  | 1 => s.len < 32 || 65536 < s.len - 32
  | 2 => s.len < 32 || 512 < s.len - 32 || s.len % 8 != 0
  | 3 => s.len != 80
  | 4 => s.len < 96 || 8 * 48 < s.len - 96 || (s.len - 96) % 48 != 0
  | 5 => s.len < 8 || s.len != 8 + 32 * (field (c.w s.off) 15 8 + 1)
  | 6 => s.len < 8 || s.len != 8 + 16 * field (c.w s.off) 15 0
  | 7 => 512 < s.len || s.len % 8 != 0
  | 8 => s.len != 8 * c.nrect
  | _ => s.len != 2828

/-- Is a router entry malformed (R165)? INBP, INCP and OUTB are 0 where the operator has no such input or output;
INBC and INCC take any value. -/
def badRoute (e : Word) : Bool :=
  let n := rInputs e
  let port (i : Nat) : Nat := fieldN e.toNat (54 - 10 * i) (51 - 10 * i)
  let used (i : Nat) : Bool := i = 0 || (i = 1 && rOpk e ≠ 0) || (i = 2 && n = 3)
  4 < rOpk e || field e 6 0 != 0 || (rOpk e != 1 && rOutB e != 0)
  || (List.range 3).any fun i => if used i then 8 < port i else port i != 0

/-- Does a tile descriptor break R56? -/
def badTileDesc (w : Word) : Bool :=
  let role := field w 63 62
  let ring := role = 2 && flag w 60
  field w 34 0 != 0
  || (role != 1 && flag w 61)
  || (role != 2 && flag w 60)
  || (if ring then 8 < field w 59 56 || field w 55 41 = 0 || 65536 < 2 ^ field w 59 56 * (field w 55 41 + 1)
      else field w 59 56 != 0 || field w 55 41 != 0)
  || ((ring || role ≤ 1) && field w 40 35 != 0)

/-- Does a task descriptor break R154? `starts` are the block addresses of its cell. -/
def badTaskDesc (starts : List Nat) (t : List Word) : Bool :=
  let bad (n : Nat) : Bool := (List.range 8).any fun j => (pw t n).toNat.testBit (8 * j + 6)
  field (pw t 0) 63 15 != 0 || !starts.contains (field (pw t 0) 11 0) || bad 2 || bad 3 || bad 4 || bad 5

/-- Do the entries of a list repeat a key? -/
def repeats (l : List Nat) : Bool := l.eraseDups.length != l.length

/-- Does a cell break the format rules (R56, R150, R153, R154, R165)? -/
def Chart.badCell (c : Chart) (rect nbanks x y : Nat) : Bool :=
  let rs := c.routes rect x y
  let ts := c.tdescs rect x y
  let starts := blockStarts (c.blocks rect x y)
  rs.any badRoute || repeats (rs.map rCid)
  || repeats ((rs.map fun e => rIn e 0).filter fun k => k / 64 = 4)
  || (c.tiles rect x y).any (fun w => badTileDesc w || (field w 63 62 = 3 && nbanks ≤ field w 40 35))
  || (c.colours rect x y).any (fun b => b / 32 % 4 != 0 || b % 4 != 0)
  || ts.any (badTaskDesc starts) || repeats (ts.map fun t => field (pw t 0) 14 12)

/-- The cells of a rectangle of the chart, by position. -/
def Chart.cellsOf (c : Chart) (rect : Nat) : List (Nat × Nat) :=
  let d := c.rect rect
  (List.range d.2).flatMap fun y => (List.range d.1).map fun x => (x, y)

/-- Does a bank table break R64: an entry malformed, overlapping another, or not named by exactly one tile? -/
def Chart.badBanks (c : Chart) (rect : Nat) : Bool :=
  let bs := c.banks rect
  let links := (c.cellsOf rect).flatMap fun p => (c.tiles rect p.1 p.2).filterMap fun w =>
    if field w 63 62 = 3 then some (field w 40 35) else none
  let lo (b : Word) : Nat := field b 63 16
  let hi (b : Word) : Nat := field b 63 16 + field b 9 0
  bs.any (fun b => field b 15 10 != 0 || !canonical (b.toNat / 65536 * 65536) || !canonical (hi b * 65536))
  || (List.range bs.length).any (fun i => (links.filter (· == i)).length != 1)
  || (List.range bs.length).any fun i => (List.range i).any fun j =>
      match bs[i]?, bs[j]? with | some a, some b => lo a ≤ hi b && lo b ≤ hi a | _, _ => false

/-- Does a node table break R416? -/
def Chart.badNodes (c : Chart) (rect : Nat) : Bool :=
  let ns := c.nodes rect
  let key (e : Nat × List Word) : Nat := fieldN (pw e.2 0).toNat 54 32 * 128 + e.1 % 128
  let idx (w : Word) (j : Nat) : Nat := fieldN w.toNat (8 * j + 7) (8 * j)
  (c.of 6 rect).any (fun s => field (c.w s.off) 63 16 != 0)
  || ns.any (fun e => field (pw e.2 0) 63 58 != 0 || 4 < field (pw e.2 0) 57 55 || field (pw e.2 0) 31 0 = 0xFFFFFFFF
      || (List.range 8).any fun j => idx (pw e.2 1) j / 32 % 4 != 0)
  || repeats (ns.map key)

/-- Does a rectangle break the format rules (R150, R331)? -/
def Chart.badRect (c : Chart) (rect : Nat) : Bool :=
  let d := c.rect rect
  let inside := (c.cellsOf rect).foldl (fun m p => m ||| 2 ^ (16 * p.2 + p.1)) 0
  let overlap (ty : Nat) : Bool :=
    let ms := (c.of ty rect).map c.mask
    (List.range ms.length).any fun i => (List.range i).any fun j => ms.getD i 0 &&& ms.getD j 0 != 0
  16 < d.1 || 16 < d.2
  || [1, 2, 3, 4].any (fun ty => overlap ty || (c.of ty rect).any fun s => (c.mask s ||| inside) != inside)
  || 1 < (c.of 6 rect).length || 1 < (c.of 7 rect).length
  || (c.of 5 rect).any (fun s => field (c.w s.off) 63 16 != 0 || 255 < field (c.w s.off) 7 0 + field (c.w s.off) 15 8)
  || repeats ((c.shapes rect).map (·.1))
  || (c.cellsOf rect).any (fun p => c.badCell rect (c.banks rect).length p.1 p.2)
  || c.badBanks rect || c.badNodes rect

/-- CHARTFMT beyond header and table (R150, R331). -/
def Chart.badFormat (c : Chart) : Bool :=
  c.sects.any c.badLength || (c.of 8 0).length != 1 || 1 < (c.of 9 0).length
  || (match (c.of 8 0).head? with
      | some s => (List.range c.nrect).any fun i => field (c.w (s.off + 8 * i)) 63 8 != 0
      | none => true)
  || (List.range c.nrect).any c.badRect

/-! ## The other checks an image decides -/

/-- Does a task descriptor's CTX.SPILL break R170? `tiles` are the descriptors of its cell. -/
def badSpill (tiles : List Word) (t : List Word) : Bool :=
  let s := pw t 1
  let len := field s 9 0
  if field s 63 24 != 0 || field s 11 10 != 0 || 512 < len then true
  else if len = 0 then false
  else 5 < field s 23 21 || 512 < field s 20 12 + len || field (pw tiles (field s 23 21)) 63 62 != 1

/-- Slot sizes of the ring tiles of a cell (R61). -/
def ringSizes (tiles : List Word) : List Nat :=
  tiles.filterMap fun w => if field w 63 62 = 2 && flag w 60 then some (2 ^ field w 59 56) else none

/-- Ports of a die at which no row ends (R452, R454). -/
def Die.lostPorts (d : Die) : List Nat := d.rows.flatMap fun cy => [16 + cy, 48 + cy]

/-- The check of a cell's blocks on its die (R228). -/
def Chart.blockRej (c : Chart) (d : Die) (rect x y : Nat) : Option Rej :=
  checkImage { priv := c.rank == 7, helm := false, core := false, rings := ringSizes (c.tiles rect x y), badPorts := d.lostPorts } (c.blocks rect x y)
    (c.blockBytes rect x y)

/-- Does a block store claim the matrix unit (R336)? -/
def claimsMatrix (st : List Word) : Bool :=
  (blockStarts st).any fun b => (List.range (hdrSize (blockHeader st b))).any fun i =>
    let op := (slotWord st b i).toNat / 2 ^ 56
    0x60 ≤ op && op ≤ 0x64

/-- Does a cell's image claim the matrix unit (R336)? -/
def Chart.claimsMat (c : Chart) (rect x y : Nat) : Bool := claimsMatrix (c.blocks rect x y)

/-- Is the fault edge refused, as far as the header tells (R392)? -/
def Chart.badEdge (c : Chart) : Bool :=
  let h := feHrank c.fedge
  h = 0 || (h ≤ c.rank && c.rank != 7) || (h != 7 && c.rank = 7) || (feServe c.fedge && c.rank = 7)
  || fieldN c.fedge 21 0 != 0 || (!feServe c.fedge && feNcol c.fedge != 0)

/-- The signed message: the image with the SIGN section's bytes read as zero (R441). -/
def Chart.message (c : Chart) : List Byte :=
  match (c.of 9 0).head? with
  | some s => c.bs.take s.off ++ List.replicate s.len 0 ++ c.bs.drop (s.off + s.len)
  | none => c.bs

/-- Is the signature refused (R440, R441)? -/
def Chart.badSign (c : Chart) (im : Image) : Bool :=
  match (c.of 9 0).head? with
  | none => c.rank = 7 || im.reqsign
  | some s =>
    let k := field (c.w s.off) 3 0
    match im.keys[k]? with
    | some key => field (c.w s.off) 63 4 != 0 || !Config.xmssVerify key (Config.shake256 c.message) ((c.bs.drop (s.off + 8)).take 2820)
    | none => true

end Sys2Proof.Machine
end

