-- ==== Sys2Proof/Machine/Launch.lean ====
section
/-! DEFINITION. Launch records (R50, R364-R371, R377, R380, R381): their fields, capture, placement, the committed sum;
LAUNCH, SPLICE, CANCEL of a record and QSTAT. -/

namespace Sys2Proof.Machine

/-! ## Fields of a record (R365) -/

def LRec.w (r : LRec) (i : Nat) : Word := pw r.words i
def rChart (w : List Word) : Nat := (pw w 0).toNat
def rDset (w : List Word) : Nat := (pw w 1).toNat
def rPrio (w : List Word) : Nat := field (pw w 2) 63 58
def rPe (w : List Word) : Bool := flag (pw w 2) 57
def rOwn (w : List Word) : Bool := flag (pw w 2) 56
def rNcond (w : List Word) : Nat := field (pw w 2) 55 53
def rW (w : List Word) : Nat := field (pw w 2) 52 49 + 1
def rH (w : List Word) : Nat := field (pw w 2) 48 45 + 1
def rQueue (w : List Word) : Nat := field (pw w 2) 44 41
def rFixed (w : List Word) : Bool := flag (pw w 2) 40
def rCol0 (w : List Word) : Nat := field (pw w 2) 39 36
def rRow0 (w : List Word) : Nat := field (pw w 2) 35 32
def rShare (w : List Word) : Bool := flag (pw w 2) 24
def rDoneadd (w : List Word) : Nat := field (pw w 2) 23 16
def rErate (w : List Word) : Nat := field (pw w 2) 15 0
def rDone (w : List Word) : Nat := (pw w 3).toNat
def rSave (w : List Word) : Nat := (pw w 4).toNat
def rCva (w : List Word) (j : Nat) : Nat := (pw w (5 + 2 * j)).toNat
def rCval (w : List Word) (j : Nat) : Int := (pw w (6 + 2 * j)).toInt
def rLroot (w : List Word) : Nat := field (pw w 13) 63 24 * 4096

/-- The dies of a record's gang, ascending. -/
def rDies (w : List Word) : List Nat := bitsOf (rDset w) 64

/-- The scheduler that owns a record's queue: its die, or 64 for the package scheduler (R364). -/
def rQdie (w : List Word) : Nat := match rDies w with | [d] => d | _ => 64

/-- CFG values of the new chart (R365): its own, or copies of the launcher's; a helm core has none to copy. -/
def LRec.chartCfg (r : LRec) : Cfg :=
  if rOwn r.words then
    { phys := false, asid := field (pw r.words 13) 15 0, troot := pw r.words 14, dset := pw r.words 15
      keyid := field (pw r.words 13) 23 16, priv := false }
  else { r.cfg with phys := false, priv := false }

/-- RECFMT (R366): a reserved bit or value (word 14 has the layout of R34), a missing one, or a misaligned address. `va` is
the record's own. -/
def badLaunch (va : Nat) (w : List Word) : Bool :=
  let n := rNcond w
  va % 64 != 0 || field (pw w 2) 31 25 != 0 || 4 < n || rErate w = 0 || rDset w = 0 || (rPe w && rSave w = 0)
  || (rFixed w && 1 < (rDies w).length) || (!rFixed w && field (pw w 2) 39 32 != 0)
  || rChart w % 64 != 0 || rDone w % 8 != 0 || rSave w % 65536 != 0
  || (List.range 4).any (fun j => if j < n then rCva w j % 8 != 0 else pw w (5 + 2 * j) != 0 || pw w (6 + 2 * j) != 0)
  || field (pw w 14) 58 52 != 0 || field (pw w 14) 11 0 != 0
  || (!rOwn w && (field (pw w 13) 23 0 != 0 || pw w 14 != 0 || pw w 15 != 0))

/-! ## Rectangles (R371, R454, R455) -/

/-- The cells of a rectangle of a die's logical grid; none where it leaves the grid or holds a hole. -/
def Die.rectCells (d : Die) (col row w h : Nat) : Option (List Nat) :=
  allSome (fun (p : Nat × Nat) => d.cellAt p.1 p.2) ((List.range h).flatMap fun y => (List.range w).map fun x => (col + x, row + y))

/-- Origins in row-major order (R371). -/
def origins : List (Nat × Nat) := (List.range 16).flatMap fun y => (List.range 16).map fun x => (x, y)

/-- Can a die ever hold a record's rectangle (R366, R455)? -/
def Die.couldHold (d : Die) (w : List Word) : Bool :=
  if rFixed w then (d.rectCells (rCol0 w) (rRow0 w) (rW w) (rH w)).isSome
  else origins.any fun o => (d.rectCells o.1 o.2 (rW w) (rH w)).isSome

/-- The configuration contexts of a cell that a chart holds: index and context. -/
def Cell.residents (c : Cell) : List (Nat × CfgCtx) := c.cctxs.filter fun e => e.2.st != .free

/-- The lowest free configuration context of a cell (R151). -/
def Cell.freeCctx (c : Cell) : Option Nat := (List.range 4).find? fun i => (c.cctx i).st == .free

/-- Does an admission in progress hold a cell of a die (R371)? -/
def State.cellReserved (s : State) (d p self : Nat) : Bool :=
  s.recs.any fun r => r.id != self && (r.st == .reserved || r.st == .loading) && r.pred.isNone && r.granted.any fun g =>
    g / 256 == d && (((s.die d).rectCells (g % 16) (g / 16 % 16) (rW r.words) (rH r.words)).getD []).contains p

/-- Is a cell free for a record (R371)? `clash` says that a load there would meet a clash. -/
def State.cellFree (s : State) (d p self : Nat) (share : Bool) (clash : Bool) : Bool :=
  let rs := (s.cell (cellKey d p)).residents
  !s.cellReserved d p self &&
  (if share then
    rs.length < 4 && !clash && rs.all fun e => match s.regions.find e.2.region with | some r => r.share | none => false
   else rs.isEmpty)

/-! ## The clashes of a cell (R152, R331, R336) -/

/-- The task contexts that a cell's colours and task descriptors name. -/
def taskNames (colours : List Nat) (tdescs : List (List Word)) : List Nat :=
  (tdescs.map (fun t => field (pw t 0) 14 12) ++ colours.filterMap (fun b => if b.testBit 7 then some (b / 4 % 8) else none)).eraseDups

/-- The task contexts that a resident chart names in a cell. -/
def Cell.tasksOf (c : Cell) (x : CfgCtx) : List Nat := taskNames (x.colours.map fun k => c.cmap.get k 0) x.tdescs

/-- The launch status of the first clash of a chart's cell with what is resident, but for a predecessor's tiles (R57). -/
def State.clashAt (s : State) (ch : Chart) (rect x y key : Nat) (pred : Option Nat) : Option Nat :=
  let c := s.cell key
  let rs := c.residents.map (·.2)
  let cols := bitsOf ((ch.colours rect x y).foldl (fun (m : Nat × Nat) b => (if b.testBit 7 then m.1 ||| 2 ^ m.2 else m.1, m.2 + 1)) (0, 0)).1 64
  let tasks := taskNames (ch.colours rect x y) (ch.tdescs rect x y)
  let tiles (l : List Word) : List Nat := (List.range 6).filter fun i => field (pw l i) 63 62 ≠ 0
  let mine := tiles (ch.tiles rect x y)
  let shs := (ch.shapes rect).map (·.1)
  if rs.any fun r => r.colours.any cols.contains then some lsColourclash
  else if rs.any fun r => (c.tasksOf r).any tasks.contains then some lsTaskclash
  else if rs.any fun r => some r.region ≠ pred && (tiles r.tiles).any mine.contains then some lsTileclash
  else if rs.any fun r => r.shapes.any shs.contains then some lsShapeclash
  else if ch.claimsMat rect x y && rs.any (·.usesMat) then some lsMatclash
  else none

/-- The first origin of a die at which a record's rectangle is free (R371). -/
def State.placeOn (s : State) (d : Nat) (r : LRec) (rect : Nat) (ch : Option Chart) : Option Nat :=
  let w := r.words
  let ok (o : Nat × Nat) : Bool :=
    match (s.die d).rectCells o.1 o.2 (rW w) (rH w) with
    | none => false
    | some ps => (List.range ps.length).all fun i =>
        match ps[i]? with
        | some p =>
          let clash := match ch with
            | some c => i % rW w < (c.rect rect).1 && i / rW w < (c.rect rect).2
                && (s.clashAt c rect (i % rW w) (i / rW w) (cellKey d p) none).isSome
            | none => false
          s.cellFree d p r.id (rShare w) clash
        | none => false
  if !s.readyBits.contains d then none
  else
    let os := if rFixed w then [(rCol0 w, rRow0 w)] else origins
    (os.find? ok).map fun o => 256 * d + 16 * o.2 + o.1

/-! ## The committed sum (R381, R377) -/

/-- Is a region one whose rate counts? -/
def RegSt.counts (r : RegSt) : Bool := r == .active || r == .gating || r == .loading || r == .loaded || r == .reserved

/-- COMMITTED: every region's ERATE, and of a splice under way the larger one (R377, R381). -/
def State.committed (s : State) : Nat :=
  let succKeys := s.regions.filterMap fun e => e.2.succ
  let a := s.regions.foldl (fun n e =>
    if succKeys.contains e.1 || !e.2.st.counts then n
    else match e.2.succ with
      | some k => n + max e.2.erate (match s.regions.find k with | some r => r.erate | none => 0)
      | none => n + e.2.erate) 0
  s.recs.foldl (fun n r =>
    if r.st == .reserved || r.st == .loading then
      match r.pred with
      | none => n + rErate r.words * r.granted.length
      | some k => n + (rErate r.words - (match s.regions.find k with | some x => x.erate | none => 0))
    else n) a

/-! ## Queues and capture -/

/-- A launch queue of a scheduler (R364). -/
def State.lqueue (s : State) (qd q : Nat) : LQueue := (s.die qd).lqs.get q .fresh
/-- The state with a launch queue changed. -/
def State.modLqueue (s : State) (qd q : Nat) (g : LQueue → LQueue) : State :=
  s.modDie qd fun d => { d with lqs := d.lqs.put q (g (d.lqs.get q .fresh)) }

/-- The records of a queue that count towards its 64 (R364, R368). -/
def State.queued (s : State) (qd q : Nat) : List LRec :=
  s.recs.filter fun r => r.qdie = qd && r.queue = q && (r.st == .waiting || r.st == .ready) && !r.fromSave

/-- A launch id (R366). -/
def launchId (lstat qd q seq : Nat) : Nat := lstat * 2 ^ 56 + qd * 2 ^ 41 + q * 2 ^ 37 + seq % 2 ^ 32
/-- The launch id of a record; CHLOAD gives its record none (R376), so that one is free (log entry 5). -/
def LRec.lid (r : LRec) (lstat : Nat) : Word :=
  if 64 < r.qdie then Config.freeWord 31 r.id else word (launchId lstat r.qdie r.queue r.seq)

/-- The state with a record changed. -/
def State.modRec (s : State) (id : Nat) (g : LRec → LRec) : State :=
  { s with recs := s.recs.map fun r => if r.id = id then g r else r }
/-- A record. -/
def State.rec? (s : State) (id : Nat) : Option LRec := s.recs.find? fun r => r.id == id

/-- The check at capture, in the order of R366: a launch status, 0 for none. -/
def State.captureCheck (s : State) (va : Nat) (w : List Word) (priv : Bool) : Nat :=
  if badLaunch va w then lsRecfmt
  else if (rOwn w || rFixed w) && !priv then lsPriv
  else if (rDies w).any fun d => !(s.die d).couldHold w then lsNofit
  else 0

/-- A captured record. -/
def State.newRec (s : State) (cfg : Cfg) (w : List Word) (qd q seq : Nat) (st : RegSt) : LRec :=
  { id := s.nextRec, qdie := qd, queue := q, seq := seq, words := w, st := st, cfg := cfg, held := []
    regions := [], granted := [], stat := 0, pred := none, fromSave := false, admitted := 0, report := [], detail := 0, acc := none }

/-- Capture a record that has been read (R366): its launch id, or none while its queue is full, and for the package
scheduler none while io0 is not ready, which accepts no multi-die launch (R25). -/
def State.capture (s : State) (cfg : Cfg) (va : Nat) (w : List Word) : Option (State × Nat) :=
  let qd := rQdie w
  let q := rQueue w
  let n := (s.lqueue qd q).next
  let c := s.captureCheck va w cfg.priv
  if c = 0 && (64 ≤ (s.queued qd q).length || (qd = 64 && !s.hostReady)) then none
  else
    let s := s.modLqueue qd q fun x => { x with next := x.next + 1 }
    if c ≠ 0 then some (s, launchId c qd q n)
    else
      let r := s.newRec cfg w qd q n (if rNcond w = 0 then .ready else .waiting)
      some ({ s with recs := s.recs ++ [r], nextRec := s.nextRec + 1 }, launchId 0 qd q n)

/-- LAUNCH at commit (R366). -/
def State.commitLaunch (s : State) (a : Agent) (i : Nat) (l : Token) : CommitRes :=
  match s.readJudged a i l.w64 128 with
  | .wait s => .wait s
  | .bad s c d b => .fault s c d b
  | .ok s w =>
    match s.capture (s.cfgFor a) l.w64 w with
    | some (s, id) => .done s (some (wordTok id))
    | none => .wait s

/-- The record of a region, wherever it stands. -/
def State.recOf (s : State) (k : Nat) : Option LRec :=
  match s.regions.find k with | some r => s.rec? r.lrec | none => none

/-- SPLICE at commit (R377): captured outside the queues, loaded at once into the predecessor's cells. The record of a region that CHLOAD
loaded has the queue fields of its words, on the region's die. -/
def State.commitSplice (s : State) (a : Agent) (i : Nat) (l h : Token) : CommitRes :=
  match s.readJudged a i l.w64 128 with
  | .wait s => .wait s
  | .bad s c d b => .fault s c d b
  | .ok s w =>
    let cfg := s.cfgFor a
    let pk := keyOfHandle (word h.w64)
    let pr := match pk with | some k => s.regions.find k | none => none
    let old := match pk with | some k => s.recOf k | none => none
    let qd := match old, pk with | some r, some k => if r.qdie ≤ 64 then r.qdie else keyDie k | _, _ => rQdie w
    let q := match old with | some r => r.queue | none => rQueue w
    let n := (s.lqueue qd q).next
    let s := s.modLqueue qd q fun x => { x with next := x.next + 1 }
    let c0 := s.captureCheck l.w64 w cfg.priv
    let refuse (s : State) (c : Nat) : CommitRes := .done s (some (wordTok (launchId c qd q n)))
    if c0 = lsRecfmt || c0 = lsPriv then refuse s c0
    else
      match pk, pr with
      | some k, some p =>
        if p.st != .active || p.succ.isSome || rDies w != [keyDie k] || optB old (fun o => rW w != rW o.words || rH w != rH o.words) then refuse s lsRectsize
        else if s.budget < s.committed - p.erate + rErate w then refuse s lsEnergy
        else if p.cells.any fun c => (s.cell (cellKey c.1 c.2)).freeCctx.isNone then refuse s lsNoctx
        else
          let r := { s.newRec cfg w qd q n .loading with pred := some k, admitted := s.cycle, granted := [256 * keyDie k + 16 * p.row0 + p.col0] }
          .done { s with recs := s.recs ++ [r], nextRec := s.nextRec + 1 } (some (wordTok (launchId 0 qd q n)))
      | _, _ => refuse s lsRectsize

/-- The die of a record that names one alone; 0 for a gang's (R379). -/
def LRec.homeDie (r : LRec) : Nat := match rDies r.words with | [x] => x | _ => 0

/-- A record is refused after capture (R375, R379, R380): `key` is the region it names, with RID 0 before its placement. -/
def State.refuseRec (s : State) (id code key : Nat) (payload : Option Nat) : State :=
  match s.rec? id with
  | none => s
  | some r =>
    let s := s.modRec id fun r => { r with st := .refused, stat := code, granted := [], acc := none }
    let s := s.modLqueue r.qdie r.queue fun x => { x with lstat := code, lseq := r.seq }
    let d := if r.qdie < 64 then r.qdie else 64
    s.post d (eventWord 2 code key) (match payload with | some p => word p | none => r.lid 0)

/-- CANCEL with KIND 0 at commit (R360): a record that has not been admitted. -/
def State.commitCancel (s : State) (l : Token) : CommitRes :=
  match s.recs.find? fun r => (r.lid 0).toNat == l.w64 && (r.st == .waiting || r.st == .ready) && !r.fromSave && r.pred.isNone with
  | some r =>
    let s := (s.modRec r.id fun r => { r with st := .cancelled, stat := lsCancelled }).modDie r.qdie fun d => { d with cancelAt := s.cycle + 1 }
    .done (s.modLqueue r.qdie r.queue fun x => { x with lstat := lsCancelled, lseq := r.seq }) (some (wordTok 1))
  | none => .done s (some (wordTok 0))

/-- The QSTAT word (R380). -/
def State.qstat (s : State) (l : Word) : Nat :=
  let qd := field l 10 4
  let q := field l 3 0
  if field l 63 11 ≠ 0 || 64 < qd then 2 ^ 64 - 1
  else
    let x := s.lqueue qd q
    let rs := s.queued qd q
    let old := rs.find? fun r => r.st == .ready
    let blk := match old with | some r => (s.die qd).blocked.contains r.id | none => false
    x.lstat * 2 ^ 56 + rs.length * 2 ^ 48 + bit blk * 2 ^ 32 + x.lseq % 2 ^ 32

/-- LAUNCH (R366). -/
def execLaunch (f : FmtT) (s : State) : Host.Outcome State Fault Refusal := fireLate s 0xC3 (.t f)
/-- SPLICE (R377). -/
def execSplice (f : FmtT) (s : State) : Host.Outcome State Fault Refusal := fireLate s 0xC4 (.t f)
/-- CANCEL with KIND 0 (R360). -/
def execCancelLaunch (f : FmtT) (s : State) : Host.Outcome State Fault Refusal := fireLate s 0xC5 (.t f)
/-- QSTAT (R380). -/
def execQstat (f : FmtT) (s : State) : Host.Outcome State Fault Refusal :=
  fireWith s 0xC6 (.t f) fun s a i sl => s.sendBoth a i 0xC6 (.t f) (wordTok (s.qstat (sl.tok .l).asWord)) 1

end Sys2Proof.Machine
end

