-- ==== Sys2Proof/Machine/Ndmerge.lean ====
section
/-! DEFINITION. ROUTER_NDMERGE with the choices that it records for replay (R134, R138, R145, R166). -/

namespace Sys2Proof.Machine

/-- Append the NDM entry of an ndmerge's choices so far and begin anew; nothing when there is none (R145). -/
def State.ndmAppend (s : State) (key cctx cid : Nat) : LogRes :=
  let bs := (s.cell key).ndm.get (64 * cctx + cid) []
  let ln := s.cctxLog key cctx
  if bs.isEmpty || ln = 0 then .done s
  else
    match s.append ln (choiceKey key) (ndmWord key cid bs.length) (ndmBits bs) with
    | .done s => .done (s.modCell key fun c => { c with ndm := c.ndm.put (64 * cctx + cid) [] })
    | r => r

/-- Append an NDM entry whose choices are due; a full sub-log makes the policy act, and the entry stays due (R138). -/
def State.ndmFlush (s : State) (key cctx cid : Nat) : State :=
  match s.ndmAppend key cctx cid with
  | .done s => s.openLogGate (s.cctxLog key cctx)
  | .full ln sub _ => s.logFull ln sub none noWord 0
  | .wait => s
  | .diverge ln => s.diverged ln

/-- Record an ndmerge's choice; every 64 tokens they go to the log (R145). -/
def State.ndmRecord (s : State) (key cctx cid : Nat) (right : Bool) : State :=
  if s.cctxLog key cctx = 0 then s
  else
    let s := s.modCell key fun c => { c with ndm := c.ndm.put (64 * cctx + cid) (c.ndm.get (64 * cctx + cid) [] ++ [right]) }
    if 64 ≤ ((s.cell key).ndm.get (64 * cctx + cid) []).length then s.ndmFlush key cctx cid else s

/-- May data pass on the arm `right` of an ndmerge with data at both heads (R145, R166): the recorded arm during replay, else the one
whose head arrived first, the left on a tie? -/
def State.ndmArm (s : State) (key cctx cid : Nat) (e : Word) (right : Bool) : Bool :=
  match s.ndmRecorded key cctx cid with
  | some r => r == right
  | none => right == ((s.cell key).headTime (rIn e 1)).blt ((s.cell key).headTime (rIn e 0))

/-- ROUTER_NDMERGE (R166): an arm's data passes; a stop waits until both arms have delivered it. With data at both heads `right`
names the arm whose turn is tried. -/
def execRouterNdmerge (key cctx cid : Nat) (right : Bool) (s : State) : Host.Outcome State Fault Refusal :=
  s.routeWith key cctx cid 3 fun s e =>
    let d := key / 256
    let p := key % 256
    let k0 := s.cctxRegion key cctx
    if 64 ≤ ((s.cell key).ndm.get (64 * cctx + cid) []).length then s.ndmFlush key cctx cid
    else
      let a := s.headAt key cctx (rIn e 0)
      let b := s.headAt key cctx (rIn e 1)
      match a, b with
      | some x, some y =>
        if x.stop ≠ 0 && y.stop ≠ 0 then
          (if x.stop = y.stop && s.mayLeave d p (rOutA e) cid x then
            (((s.latchPop key (rIn e 0)).latchPop key (rIn e 1)).emit k0 d p (rOutA e) cid x).routed key cctx else s)
        else
          let arm := if x.stop ≠ 0 then true else if y.stop ≠ 0 then false else right
          let turn := if x.stop ≠ 0 || y.stop ≠ 0 then !optB (s.ndmRecorded key cctx cid) (· != arm) else s.ndmArm key cctx cid e right
          if !turn || !s.mayLeave d p (rOutA e) cid (if arm then y else x) then s
          else
            (((s.latchPop key (rIn e (bit arm))).emit k0 d p (rOutA e) cid (if arm then y else x)).ndmRecord key cctx cid arm).routed key cctx
      | some x, none =>
        if x.stop ≠ 0 || optB (s.ndmRecorded key cctx cid) id || !s.mayLeave d p (rOutA e) cid x then s
        else (((s.latchPop key (rIn e 0)).emit k0 d p (rOutA e) cid x).ndmRecord key cctx cid false).routed key cctx
      | none, some y =>
        if y.stop ≠ 0 || optB (s.ndmRecorded key cctx cid) not || !s.mayLeave d p (rOutA e) cid y then s
        else (((s.latchPop key (rIn e 1)).emit k0 d p (rOutA e) cid y).ndmRecord key cctx cid true).routed key cctx
      | none, none => s

end Sys2Proof.Machine
end

