-- ==== Sys2Proof/Machine/Saves.lean ====
section
/-! DEFINITION. Tokens present and quiescence (R174, R176), the saved form of cells and regions (R137, R400), and
waypoints (R136). A waypoint's checkpoint and the parts of a save area that have no layout in the spec are kept as
`Snap`s (log entry 13). -/

namespace Sys2Proof.Machine

/-! ## Tokens present (R174) -/

/-- Does a window hold a token, a result, or an instruction at work? An exit that has fired is no token, nor is one in the fields of
an instruction whose predicate did not match: it was discarded (R158). -/
def State.winBusy (s : State) (a : Agent) (w : Win) : Bool :=
  !w.regs.isEmpty || !w.outs.isEmpty ||
  (List.range w.slots.length).any fun i =>
    match w.slots[i]?, s.fieldsAt a w.baddr i with
    | some sl, some (op, f) => sl.st == .pending || sl.st == .running ||
        (sl.st == .waiting && [sl.l, sl.r, sl.p, sl.x].any (fun fs => !fs.q.isEmpty) && s.verdict a op f false sl != .dead)
    | _, _ => false

/-- Has an operation at commit been done? -/
def Win.opDone (w : Win) (i : Nat) : Bool := match w.ops.find i with | some (.done _) => true | _ => false

/-- Does a fired SBIND or SBAR send on an output channel that has no circuit (R154)? -/
def State.bindUnmapped (s : State) (a : Agent) (op : Nat) (f : Fmt) (sl : Slot) : Bool :=
  (op = 0x70 || op = 0x71) && sl.hasFired && (match f.ta with | .chan j _ => ((s.task a).outCircuit j.val).isNone | _ => false)

/-- Does a block whose exit has fired wait at its commit: for an operation at commit, which is a token present (R154, R356, R366,
R395), or on a channel without a circuit? -/
def State.waitsCommit (s : State) (a : Agent) (w : Win) : Bool :=
  w.exit.isSome && (List.range w.slots.length).any fun i =>
    match w.slots[i]?, s.fieldsAt a w.baddr i with
    | some sl, some (op, f) => (sl.st == .fired && atCommit op f && !w.opDone i) || s.bindUnmapped a op f sl
    | _, _ => false

/-- Does an instruction of a window wait for room at a barrier (R324)? -/
def State.waitsRoom (s : State) (a : Agent) (w : Win) : Bool :=
  (List.range w.slots.length).any fun i =>
    match w.slots[i]?, s.fieldsAt a w.baddr i with
    | some sl, some (op, .s f) =>
      sl.st == .waiting && (op = 0xB0 || op = 0xB1) && s.earlierDone a w.seq && !s.barRoom a f
        && s.verdict a op (.s f) false sl == .go
    | _, _ => false

/-- Does an IN of a window wait on a channel that has no circuit (R248)? -/
def State.waitsNone (s : State) (a : Agent) (w : Win) : Bool :=
  (List.range w.slots.length).any fun i =>
    match w.slots[i]?, s.fieldsAt a w.baddr i with
    | some sl, some (op, f) =>
      op = 0x06 && sl.st == .waiting && ((s.task a).inCircuit (f.aux % 16)).isNone && s.verdict a op f false sl != .dead
    | _, _ => false

/-- The keys of a region's cells. -/
def Region.keys (r : Region) : List Nat := r.cells.map fun c => cellKey c.1 c.2

/-- Does a token's colour count for a context of a cell: it is mapped there, or mapped to none (R153)? -/
def Cell.holdsColour (c : Cell) (n col : Nat) : Bool := c.colourIn n col || !(c.cmap.get col 0).testBit 7

/-- Is a token in a latch one of a context: of its colour, or of a colour the cell does not map on a circuit that the context
routes (R153)? -/
def Cell.latched (c : Cell) (n lk : Nat) (t : Token) : Bool :=
  c.colourIn n t.color ||
  (!(c.cmap.get t.color 0).testBit 7 && (c.cctx n).routes.any fun e => (List.range (rInputs e)).any fun i => rIn e i == lk)

/-- Does a token in a latch count for a context: it is one of the context, or it has a colour the cell does not map and waits on a
circuit that no context of the cell routes, where it counts for each of them (R153; DEDUCED, log entry 103)? -/
def Cell.counts (c : Cell) (n lk : Nat) (t : Token) : Bool :=
  c.latched n lk t || (!(c.cmap.get t.color 0).testBit 7 && (List.range 4).all fun m => !c.latched m lk t)

/-- Does a cell hold a token of a context in its latches, its inputs or a window, with what R248 counts as one? -/
def State.cellBusy (s : State) (key n : Nat) : Bool :=
  let c := s.cell key
  c.latch.any (fun e => e.2.any fun t => c.counts n e.1 t)
  || c.inbox.any (fun e => e.2.any fun y => c.holdsColour n y.tok.color)
  || c.tasks.any fun e =>
      e.2.cctx = n && (match e.2.win with
        | some w =>
          let a := Agent.task (key / 256) (key % 256) e.1
          s.winBusy a w || s.waitsCommit a w || s.waitsRoom a w || s.waitsNone a w
        | none => false)
  || c.mat.owner = some n && (c.mat.load.isSome || c.mat.row.isSome)

/-- Is a stream command of a region a token present (R347): every one, queued or waiting for a place; in a region whose inputs are
gated, whose commands a quiescent save keeps (R400), only one at work on its own (DEDUCED, log entry 103). -/
def State.cmdBusy (s : State) (k : Nat) : Bool :=
  s.ports.any fun e =>
    (e.2.cmds.any fun c => c.region = k &&
      (!s.gatedAt k || c.isBar || (if c.write then !c.buf.isEmpty || c.acc.isSome || !(e.2.inq.get c.circ []).isEmpty else c.st = 1)))
    || e.2.waiting.any fun c => c.region = k && !s.gatedAt k

/-- Is a token present in a region (R174)? -/
def State.tokensPresent (s : State) (k : Nat) : Bool :=
  match s.regions.find k with
  | none => false
  | some r =>
    !r.spawnQ.isEmpty || s.cmdBusy k
    || s.accs.any (fun x => !x.agent.isHelm && s.regionOf x.agent = k)
    || r.keys.any fun key => match s.cctxOn key k with | some n => s.cellBusy key n | none => false

/-- Is every task context of a region idle? -/
def State.allIdle (s : State) (k : Nat) : Bool :=
  match s.regions.find k with
  | none => true
  | some r => r.keys.all fun key =>
      match s.cctxOn key k with
      | some n => (s.cell key).tasks.all fun e => e.2.cctx ≠ n || e.2.st == .unbound || e.2.st == .idle
      | none => true

/-- The regions of a gang; a region alone is its own. -/
def State.gangOf (s : State) (k : Nat) : List Nat :=
  match s.regions.find k with | some r => if r.gang.isEmpty then [k] else r.gang | none => [k]

/-! ## Taking and restoring a snapshot (R137, R400) -/

/-- The part of a cell that belongs to a configuration context. -/
def Cell.part (c : Cell) (n : Nat) : Cell :=
  let x := c.cctx n
  { Cell.fresh with
    tasks := c.tasks.filter fun e => e.2.cctx = n && e.2.st != .unbound
    tiles := (c.tiles.filter fun e => e.2.owner = some x.region).map fun (e : Nat × Tile) => if e.2.role = 3 then (e.1, { e.2 with lines := [] }) else e
    latch := (c.keepLatch (c.latched n)).latch
    latchAt := (c.keepLatch (c.latched n)).latchAt
    inbox := c.inbox.map fun e => (e.1, e.2.filter fun y => c.colourIn n y.tok.color)
    chanOpen := c.chanOpen.filter fun q => c.colourIn n (q % 64)
    shapes := c.shapes.filter fun e => x.shapes.contains e.1
    mat := if c.mat.owner = some n then c.mat else .fresh
    ndm := c.ndm.filter fun e => e.1 / 64 = n }

/-- A cell without the tokens of a context. -/
def Cell.without (c : Cell) (n : Nat) : Cell :=
  let c := c.keepLatch fun lk t => !c.latched n lk t
  { c with
    inbox := c.inbox.map fun e => (e.1, e.2.filter fun y => !c.colourIn n y.tok.color)
    chanOpen := c.chanOpen.filter fun q => !c.colourIn n (q % 64)
    ndm := c.ndm.filter fun e => e.1 / 64 ≠ n }

/-- A cell with the saved part of a context put back. -/
def Cell.merge (c p : Cell) (n : Nat) : Cell :=
  let c := c.without n
  { c with
    tasks := p.tasks.foldl (fun t e => t.put e.1 e.2) c.tasks
    tiles := p.tiles.foldl (fun t e => t.put e.1 e.2) c.tiles
    latch := p.latch.foldl (fun t e => t.put e.1 (t.get e.1 [] ++ e.2)) c.latch
    latchAt := p.latchAt.foldl (fun t e => t.put e.1 (t.get e.1 [] ++ e.2)) c.latchAt
    inbox := p.inbox.foldl (fun t e => t.put e.1 (t.get e.1 [] ++ e.2)) c.inbox
    chanOpen := p.chanOpen.foldl setAdd c.chanOpen
    shapes := p.shapes.foldl (fun t e => t.put e.1 e.2) c.shapes
    mat := if (c.cctx n).usesMat then p.mat else c.mat
    ndm := p.ndm ++ c.ndm }

/-- A snapshot of the regions of a gang (R137, R400). -/
def State.snapOf (s : State) (ks : List Nat) (full : Bool) : Snap :=
  { full := full
    cells := (List.range ks.length).flatMap fun i =>
      match ks[i]? with
      | none => []
      | some k =>
        match s.regions.find k with
        | none => []
        | some r => r.cells.filterMap fun c =>
            (s.cctxOn (cellKey c.1 c.2) k).map fun n =>
              (i, c.2 % 16 - r.col0, ((s.die c.1).logRow (c.2 / 16)).getD 0 - r.row0, (s.cell (cellKey c.1 c.2)).part n,
                (s.cell (cellKey c.1 c.2)).cctx n)
    cmds := s.ports.flatMap fun e => ((e.2.cmds ++ e.2.waiting).filter fun c => ks.contains c.region).map fun c => (e.1, c)
    accs := if full then s.accs.filter fun x => !x.agent.isHelm && ks.contains (s.regionOf x.agent) && !x.committed else []
    kills := if full then s.kills.filter fun m => !m.agent.isHelm && ks.contains (s.regionOf m.agent) else []
    regions := ks.filterMap fun k => (s.regions.find k).map fun r => { r with gateStart := s.cycle } }

/-- Where a snapshot's cell stands in a region placed now: die and physical cell. -/
def State.cellIn (s : State) (k x y : Nat) : Option (Nat × Nat) :=
  match s.regions.find k with
  | some r => ((s.die (keyDie k)).cellAt (r.col0 + x) (r.row0 + y)).map fun p => (keyDie k, p)
  | none => none

/-- An agent of a saved region at its new place. -/
def moveAgent (mv : Nat → Nat) : Agent → Agent
  | .task d p t => let q := mv (cellKey d p); .task (q / 256) (q % 256) t
  | a => a

/-- A fault record at its new place. -/
def FaultRec.move (f : FaultRec) (mv : Nat → Nat) (n : Nat) : FaultRec :=
  let q := mv (cellKey f.die f.pcell)
  { f with die := q / 256, pcell := q % 256, cctx := n }

/-- A token whose reverse wire leads to the new place of its producer. -/
def Token.move (t : Token) (mv : Nat → Nat) : Token := { t with origin := t.origin.map fun o => (moveAgent mv o.1, o.2) }

/-- The same for what a field holds. -/
def Slot.move (sl : Slot) (mv : Nat → Nat) : Slot :=
  sl.setFld .l { sl.l with q := sl.l.q.map fun y => { y with tok := y.tok.move mv } }

/-- A task context with its context number, fault record and reverse wires at their new place. -/
def TaskCtx.move (t : TaskCtx) (mv : Nat → Nat) (n : Nat) : TaskCtx :=
  { t with cctx := n, fault := t.fault.map (fun f => f.move mv n)
           win := t.win.map fun w => { w with slots := w.slots.map fun sl => sl.move mv } }

/-- A saved cell part at its new place: context `n`, region `k`. -/
def Cell.movePart (p : Cell) (mv : Nat → Nat) (n k : Nat) : Cell :=
  { p with
    tasks := p.tasks.map fun e => (e.1, e.2.move mv n)
    tiles := p.tiles.map fun e => (e.1, { e.2 with owner := some k })
    latch := p.latch.map fun e => (e.1, e.2.map fun t => t.move mv)
    inbox := p.inbox.map fun e => (e.1, e.2.map fun y => { y with tok := y.tok.move mv })
    mat := { p.mat with owner := p.mat.owner.map fun _ => n }
    ndm := p.ndm.map fun e => (64 * n + e.1 % 64, e.2) }

/-- One cell of a snapshot put back into the region of its rectangle. -/
def State.putCell (s : State) (ks : List Nat) (mv : Nat → Nat) (e : Nat × Nat × Nat × Cell × CfgCtx) : State :=
  match ks[e.1]? with
  | none => s
  | some k =>
    match s.cellIn k e.2.1 e.2.2.1 with
    | none => s
    | some (d, p) =>
      let key := cellKey d p
      match s.cctxOn key k with
      | none => s
      | some n => s.modCell key fun c =>
          (c.merge (e.2.2.2.1.movePart mv n k) n).modCctx n fun x =>
            { x with opst := e.2.2.2.2.opst, splices := e.2.2.2.2.splices, firedOnce := e.2.2.2.2.firedOnce }

/-- The map from a snapshot's cells to where they stand now. -/
def State.moveMap (s : State) (sn : Snap) (ks : List Nat) : List (Nat × Nat) :=
  sn.cells.filterMap fun e =>
    match sn.regions[e.1]?, ks[e.1]? with
    | some r, some k =>
      let old := r.cells.find? fun c => c.2 % 16 - r.col0 = e.2.1 && ((s.die c.1).logRow (c.2 / 16)).getD 0 - r.row0 = e.2.2.1
      (match old, s.cellIn k e.2.1 e.2.2.1 with
       | some o, some n => some (cellKey o.1 o.2, cellKey n.1 n.2)
       | _, _ => none)
    | _, _ => none

/-- A stream command of a snapshot, queued again on the port of the same number (R405). -/
def State.putCmd (s : State) (ks : List Nat) (sn : Snap) (mv : Nat → Nat) (e : Nat × StreamCmd) : State :=
  let q := mv e.2.cell
  let k := match (List.range ks.length).find? (fun i => match sn.regions[i]?, ks[i]? with
      | some r, some _ => r.keys.contains e.2.cell
      | _, _ => false) with
    | some i => ks.getD i 0
    | none => e.2.region
  let c := { e.2 with agent := moveAgent mv e.2.agent, cell := q, region := k, acc := none, st := if e.2.st = 2 then 1 else e.2.st
                      cctx := (s.cctxOn q k).getD e.2.cctx }
  s.addCmd (64 * (q / 256) + e.1 % 64) c

/-- A snapshot put back over the regions of a gang (R141, R405). -/
def State.putSnap (s : State) (ks : List Nat) (sn : Snap) : State :=
  let mp := s.moveMap sn ks
  let mv (k : Nat) : Nat := match mp.find? (·.1 == k) with | some e => e.2 | none => k
  let s := sn.cells.foldl (fun s e => s.putCell ks mv e) s
  let s := { s with ports := s.ports.map fun (e : Nat × Port) =>
    (e.1, { e.2 with cmds := e.2.cmds.filter (fun c => !ks.contains c.region), waiting := e.2.waiting.filter fun c => !ks.contains c.region }) }
  let s := sn.cmds.foldl (fun s e => s.putCmd ks sn mv e) s
  let s := { s with accs := s.accs.filter (fun x => x.agent.isHelm || x.committed || !ks.contains (s.regionOf x.agent)) }
  let s := sn.accs.foldl (fun (s : State) (x : Access) =>
    { s with accs := s.accs ++ [{ x with agent := moveAgent mv x.agent, units := x.units.map fun u =>
      if u.st == .performed then u else { u with st := .waiting } }] }) s
  let moved (m : KillMsg) : KillMsg := { m with agent := moveAgent mv m.agent, rcv := m.rcv.map fun q => (mv q.1, q.2) }
  let kept := s.kills.filter fun m => m.agent.isHelm || !ks.contains (s.regionOf m.agent)
  let s := { s with kills := kept ++ sn.kills.map moved }
  (List.range ks.length).foldl (fun s i =>
    match ks[i]?, sn.regions[i]? with
    | some k, some r => s.modRegion k fun x =>
        { x with pool := r.pool, poolHeld := r.poolHeld, everFired := r.everFired
                 spawnQ := r.spawnQ.map fun q => (moveAgent mv q.1, q.2.1, q.2.2) }
    | _, _ => s) s

/-! ## Waypoints (R136) -/

/-- The tasks of a region that wait at a WAYPT, as agents. -/
def State.wayTasks (s : State) (k : Nat) : List Agent :=
  match s.regions.find k with
  | none => []
  | some r => r.keys.flatMap fun key =>
      match s.cctxOn key k with
      | none => []
      | some n => (s.cell key).tasks.filterMap fun e =>
          if e.2.cctx = n && e.2.st == .active && e.2.win.isNone && e.2.after.isSome then some (.task (key / 256) (key % 256) e.1) else none

/-- The tasks of a context that wait at a WAYPT go on with their successors, and its inputs open again. -/
def State.passWaypoint (s : State) (ln : Nat) : State :=
  match s.log ln with
  | none => s
  | some l =>
    let still := l.fulls.filter fun k => (l.sub k).isFull
    let s := s.modLog ln fun l => { l with wayWait := [], fulls := still }
    l.regions.foldl (fun s k =>
      match s.regions.find k with
      | none => s
      | some r =>
        let s := if r.st == .gating || !still.isEmpty then s else s.modRegion k fun r => { r with gate := false }
        let s := if r.st == .gating then s else s.modRegion k fun r => { r with full := false }
        (s.wayTasks k).foldl (fun s a => match (s.task a).after with | some b => s.startBlock a b | none => s) s) s

/-- `n` bytes that the spec gives no value: a place number and an index (log entry 5). -/
def freeBytes (place i n : Nat) : List Byte := (List.range n).map fun j => (Config.freeWord place (i + j)).setWidth 8

/-- Bytes of unstated contents written to a range under a key (R88, R148; log entry 13). -/
def State.scribble (s : State) (place k pa n : Nat) : State :=
  { s.plainWrite k pa (freeBytes place s.free n) with free := s.free + n }

/-- The dies in which an active log has sub-logs. -/
def State.logDies (s : State) (ln : Nat) : List Nat := (List.range 64).filter fun d => field (s.logDie ln d 1) 15 0 ≥ 0 && field (s.logDie ln d 0) 15 0 ≠ 0

/-- The ndmerges of a log's cells: cell, context and circuit of each that holds choices. -/
def State.ndmsOf (s : State) (l : ULog) : List (Nat × Nat × Nat) :=
  l.regions.flatMap fun k =>
    match s.regions.find k with
    | none => []
    | some r => r.keys.flatMap fun key =>
        match s.cctxOn key k with
        | some n => ((List.range 64).filter fun cid => !((s.cell key).ndm.get (64 * n + cid) []).isEmpty).map fun cid => (key, n, cid)
        | none => []

/-- Flush the choices of some ndmerges (R145), all of them before a marker. -/
def State.flushNdm (s : State) : List (Nat × Nat × Nat) → LogRes
  | [] => .done s
  | e :: r =>
    match s.ndmAppend e.1 e.2.1 e.2.2 with
    | .done s => State.flushNdm s r
    | x => x

/-- Append MARK n to every sub-log (R136 step 4). -/
def State.appendMarks (s : State) (ln n : Nat) : List Nat → LogRes
  | [] => .done s
  | key :: r =>
    match s.append ln key (3 * 2 ^ 60) n with
    | .done s => State.appendMarks s ln n r
    | e => e

/-- Reset every line's last-agent tag, and the last-task tags of a log's tiles (R136, R145). -/
def State.resetTags (s : State) (l : ULog) : State :=
  let s := { s with lineAgent := [], lineRun := [] }
  l.regions.foldl (fun s k =>
    match s.regions.find k with
    | none => s
    | some r => r.keys.foldl (fun s key => s.modCell key fun c =>
        { c with tiles := c.tiles.map fun e => if e.2.owner = some k then (e.1, { e.2 with lastTask := none }) else e }) s) s

/-- The image key of a waypoint's checkpoint. -/
def wayKey (ln n : Nat) : Nat := ln * 2 ^ 32 + n % 2 ^ 32

/-- The bytes of the checkpoint slots of waypoint n (R135, R137). -/
def State.writeSlots (s : State) (ln n : Nat) (l : ULog) : State :=
  ((l.regions.map keyDie).eraseDups).foldl (fun s d =>
    let w2 := s.logDie ln d 2
    let size := field (s.logDie ln d 3) 31 0 * 65536
    s.scribble 30 l.key (field w2 51 16 * 65536 + n % max 1 (field w2 7 0) * size) size) s

/-- The fewest checkpoint slots of the dies of a log. -/
def State.logSlots (s : State) (ln : Nat) (l : ULog) : Nat := match l.regions with | k :: _ => field (s.logDie ln (keyDie k) 2) 7 0 | [] => 1

/-- A sub-log of which only the marker just appended is left (R136). -/
def SubLog.onlyMark (u : SubLog) : SubLog := { u with head := (u.tail + u.cap - 1) % max 1 u.cap, count := min u.count 1 }

/-- Take a waypoint (R136): its number, the checkpoint, the marks, the header. -/
def State.takeWaypoint (s : State) (ln : Nat) (first full : Bool) : LogRes :=
  match s.log ln with
  | none => .done s
  | some l =>
    let nx := if l.replay then l.replayWp + 1 else l.newest + 1
    let wrap := nx = 2 ^ 32
    let n := if first then 0 else if wrap then 1 else nx
    match s.flushNdm (s.ndmsOf l) with
    | .done s =>
    (match (s.modLog ln fun l => { l with subs := l.subs.map fun e => (e.1, { e.2 with stopped := false }) }).appendMarks ln n (l.subs.map (·.1)) with
    | .done s =>
      let s := { s with images := s.images.put (wayKey ln n) (s.snapOf l.regions full) }
      let s := (s.writeSlots ln n l).resetTags l
      let slots := s.logSlots ln l
      let s := s.modLog ln fun l =>
        if wrap then { l with newest := 1, oldest := 1, none0 := false, replayWp := 1, hzv := true, hzcause := 8, hzwp := 0
                              subs := l.subs.map fun e => (e.1, e.2.onlyMark) }
        else { l with newest := max l.newest n, replayWp := n, none0 := false, oldest := if l.none0 then n else max l.oldest (n + 1 - slots) }
      .done ((s.logHeader ln).logPointers ln)
    | r => r)
    | r => r

end Sys2Proof.Machine
end

