-- ==== Sys2Proof/Machine/Load.lean ====
section
/-! DEFINITION. Loading a chart (R50, R57, R58, R65, R128, R130, R135, R136, R149-R154, R170, R228, R231, R336, R367, R375,
R376, R392): fetching the image, phase 1 with its checks, activation, and how a region ends in its cells. -/

namespace Sys2Proof.Machine

/-! ## Fetching the image (R50, R150, R375) -/

/-- How a die's fetch agent reads: no TLB entry stays behind (R50). -/
def fetchVia (d : Nat) (cfg : Cfg) (acc : Nat) : Via :=
  { port := 9000 + d, cfg := cfg, acc := acc
    src := { agent := none, die := d, region := 0, lognum := 0, blockLog := false, foreign := false, hz := 0 }
    region := 0, agent := noAgent, seq := 0, rel := false, sc := 3 }

/-- Parts of an image: words, and the bytes behind the last whole word. -/
def imageParts (va n : Nat) : List (Nat × Nat) := cutBy va (n / 8 * 8) 8 ++ cutBy (va + n / 8 * 8) (n % 8) 1

/-- What fetching comes to: the bytes; a wait; a launch status and the failing address. -/
inductive Fetched where
  | ok (s : State) (bs : List Byte)
  | wait (s : State)
  | bad (code addr detail : Nat)

/-- The launch status of a failed read: an uncorrectable error is LOADUE, all else FETCH (R375, R396). -/
def fetchCode (c d : Nat) : Nat := if c = fcPoison && d % 16 < 13 then lsLoadue else lsFetch

/-- Read bytes for a record; parts of another package are asked for, and kept until the whole image is here. -/
def State.fetchBytes (s : State) (id : Nat) (v : Via) (va n : Nat) : Fetched :=
  let acc := match s.rec? id with | some r => r.acc | none => none
  let got : Option (List AUnit) := match acc with | some x => s.partsDone x | none => some []
  match got with
  | none => .wait s
  | some us =>
    match s.readBytes v us (imageParts va n) with
    | .ok s bs => .ok { s with ports := s.ports.drop v.port } bs
    | .wait s => .wait { s with ports := s.ports.drop v.port }
    | .bad _ c d b => .bad (fetchCode c d) b d
    | .need s new =>
      let s := match acc with | some x => s.dropAcc x | none => s
      let s := s.modRec id fun r => { r with acc := some s.nextAcc }
      .wait ({ s with ports := s.ports.drop v.port }.openParts noAgent (us ++ new))

/-- What fetching a chart comes to. -/
inductive GotChart where
  | ok (s : State) (c : Chart)
  | wait (s : State)
  | bad (code addr detail : Nat)

/-- The detail of a fetch that failed stays with its record (R42, R50, R65). -/
def State.noteFetch (s : State) (id detail : Nat) : State := s.modRec id fun r => { r with detail := detail }

/-- Fetch a record's chart: header, section table, then the whole image (R149, R150). -/
def State.fetchChart (s : State) (r : LRec) : GotChart :=
  let v := fetchVia (match r.granted with | g :: _ => g / 256 | [] => 0) r.cfg accFetch
  let va := rChart r.words
  match s.fetchBytes r.id v va 64 with
  | .wait s => .wait s
  | .bad c a d => .bad c a d
  | .ok s bs =>
    let h : Chart := { bs := bs, sects := [] }
    if h.badHeader then .bad lsChartfmt 0 0
    else
      match s.fetchBytes r.id v va (64 + 16 * h.nsect) with
      | .wait s => .wait s
      | .bad c a d => .bad c a d
      | .ok s bs =>
        let h : Chart := { bs := bs, sects := [] }
        if h.badTable then .bad lsChartfmt 0 0
        else
          match s.fetchBytes r.id v va h.length with
          | .wait s => .wait s
          | .bad c a d => .bad c a d
          | .ok s bs =>
            let s := match (s.rec? r.id).bind (·.acc) with
              | some x => (s.dropAcc x).modRec r.id fun r => { r with acc := none }
              | none => s
            .ok s (chartOf bs)

/-! ## Where the cells of a chart stand -/

/-- A cell of a chart: rectangle, column and row in it, die and physical cell. -/
structure Spot where
  rect : Nat
  x : Nat
  y : Nat
  die : Nat
  pcell : Nat
deriving DecidableEq, Repr

/-- The key of a spot's cell. -/
def Spot.key (p : Spot) : Nat := cellKey p.die p.pcell

/-- The cells of a chart at the places granted to its record. -/
def State.spots (s : State) (r : LRec) (ch : Chart) : List Spot :=
  (List.range r.granted.length).flatMap fun i =>
    match r.granted[i]? with
    | none => []
    | some g => (ch.cellsOf i).filterMap fun p =>
        ((s.die (g / 256)).cellAt (g % 16 + p.1) (g / 16 % 16 + p.2)).map fun q =>
          { rect := i, x := p.1, y := p.2, die := g / 256, pcell := q }

/-! ## Bank ranges (R64, R65) -/

/-- What pinning comes to: the pins; or a launch status with address and, for FETCH, the detail. -/
inductive PinRes where
  | ok (ps : List Pin)
  | bad (code addr detail : Nat)

/-- Translate the granules from `va` on, in 64 KiB units, for a bank at a cell's tile. -/
def State.pinRange (s : State) (cfg : Cfg) (self : List Nat) (key tile : Nat) : Nat → Nat → PinRes
  | _, 0 => .ok []
  | va, n + 1 =>
    match s.lookBare cfg accRmw (va * 65536) with
    | .miss => .bad lsFetch (va * 65536) 0
    | .bad _ d => .bad lsFetch (va * 65536) d
    | .hit pa attr =>
      if !attr.bank || attr.kind ≠ 0 then .bad lsBankattr (va * 65536) 0
      else if s.regions.any fun e => !self.contains e.1 && keyDie e.1 = key / 256 && e.2.pins.any fun p => p.pa == pa / 65536 then
        .bad lsBankclash (va * 65536) 0
      else
        match State.pinRange s cfg self key tile (va + 1) n with
        | .ok ps => .ok ({ cell := key, tile := tile, va := va, pa := pa / 65536, attr := attr } :: ps)
        | e => e

/-- The pins of a cell's bank tiles: their ranges in the bank table, under the chart's CFG values. -/
def State.pinCell (s : State) (cfg : Cfg) (self : List Nat) (banks tiles : List Word) (key : Nat) : PinRes :=
  (List.range 6).foldl (fun (r : PinRes) i =>
    match r with
    | .bad c a d => .bad c a d
    | .ok ps =>
      let w := pw tiles i
      if field w 63 62 ≠ 3 then .ok ps
      else
        let b := pw banks (field w 40 35)
        match s.pinRange cfg self key i (field b 63 16) (field b 9 0 + 1) with
        | .ok qs => if qs.any fun q => ps.any fun p => p.pa == q.pa then .bad lsBankclash (field b 63 16 * 65536) 0 else .ok (ps ++ qs)
        | e => e) (.ok [])

/-- Granules pinned on a die. -/
def State.pinnedOn (s : State) (d : Nat) : Nat :=
  s.regions.foldl (fun n e => if keyDie e.1 = d then n + e.2.pins.length else n) 0

/-- The pins of some cells of one die, with the limit of 16,384 (R65). -/
def State.pinAll (s : State) (cfg : Cfg) (self : List Nat) (d : Nat) (banks : List Word) : List (Nat × List Word) → PinRes
  | [] => .ok []
  | (key, tiles) :: r =>
    match s.pinCell cfg self banks tiles key with
    | .bad c a e => .bad c a e
    | .ok ps =>
      match State.pinAll s cfg self d banks r with
      | .ok qs =>
        if qs.any fun q => ps.any fun p => p.pa == q.pa then .bad lsBankclash 0 0
        else if 16384 < s.pinnedOn d + ps.length + qs.length then .bad lsBankmap 0 0
        else .ok (ps ++ qs)
      | e => e

/-! ## The log area (R130, R135) -/

/-- The lowest log number that no active log has (R130); none when all are taken. -/
def State.freeLognum (s : State) : Option Nat := (List.range 256).find? fun n => n ≠ 0 && (s.logs.find n).isNone

/-- Words of a root table's die entry, wherever the table stands. -/
def State.rootWord (s : State) (root d i : Nat) : Word := word (memNat s.mem (root + 64 + 32 * d + 8 * i) 8)

/-- The areas of a log on a die: base and size in bytes. A die whose NSEG or CKSLOTS is 0 has no such area, whatever NMAX says
(DESIGN CHOICE, log entry 104). -/
def State.logAreas (s : State) (root d : Nat) : List (Nat × Nat) :=
  let w0 := s.rootWord root d 0
  let w2 := s.rootWord root d 2
  (if field w0 15 0 = 0 then [] else [(field w0 51 16 * 65536, 65536 * (1 + 64 * field (s.rootWord root d 1) 15 0))])
  ++ (if field w2 7 0 = 0 then [] else [(field w2 51 16 * 65536, field w2 7 0 * field (s.rootWord root d 3) 31 0 * 65536)])

/-- The first line of a log's root table that cannot be read: it is poisoned, or its channel has failed (R81, R82). -/
def State.rootUe (s : State) (root : Nat) : Option Nat :=
  if paPkg root ≠ s.pkgNum || (s.physCheck root).isSome then none
  else ((linesOf root 2112).find? fun l => s.poisoned (128 * l)).map fun l => max root (128 * l)

/-- Does a log's root table break R135 for a chart on some dies, whose checkpoints need `need` units, or hold a reserved bit (R3)? A SAVED region's log with
the same root table is no other log: its chart is loaded again so that CKREST gives it back (R405). -/
def State.badLogArea (s : State) (root need : Nat) (dies : List Nat) : Bool :=
  let areas := (List.range 64).flatMap fun d => (s.logAreas root d).map fun a => (d, a)
  let saved (l : ULog) : Bool := l.root = root && l.regions.all fun k => optB (s.regions.find k) (·.st == .saved)
  let others := (s.logs.filter fun e => !saved e.2).flatMap fun e => (List.range 64).flatMap fun d => (s.logAreas e.2.root d).map fun a => (d, a)
  let meets (a b : Nat × Nat × Nat) : Bool := a.2.1 < b.2.1 + b.2.2 && b.2.1 < a.2.1 + a.2.2
  let reserved (d : Nat) : Bool :=
    field (s.rootWord root d 0) 63 52 != 0 || field (s.rootWord root d 1) 63 16 != 0 || field (s.rootWord root d 2) 63 52 != 0
    || field (s.rootWord root d 2) 15 8 != 0 || field (s.rootWord root d 3) 63 32 != 0
  let slots := dies.map fun d => field (s.rootWord root d 2) 7 0
  paPkg root != s.pkgNum || (s.physCheck root).isSome || (List.range 64).any reserved
  || areas.any (fun a => paPkg a.2.1 != s.pkgNum || paDie a.2.1 != a.1 || (s.die a.1).window < paOff a.2.1 + a.2.2)
  || (List.range areas.length).any (fun i => (List.range i).any fun j =>
       match areas[i]?, areas[j]? with | some a, some b => meets a b | _, _ => false)
  || areas.any (fun a => others.any (meets a))
  || (List.range 64).any (fun d => field (s.rootWord root d 1) 15 0 < field (s.rootWord root d 0) 15 0)
  || slots.any (· = 0) || slots.any (· != slots.headD 0)
  || dies.any fun d => field (s.rootWord root d 3) 31 0 < need

/-- The dies on which a log has a place: those of its cells, and those whose root-table entry has NSEG ≠ 0 (R135). -/
def State.logDieSet (s : State) (root : Nat) (dies : List Nat) : List Nat :=
  (dies ++ (List.range 64).filter fun d => field (s.rootWord root d 0) 15 0 ≠ 0).eraseDups

/-- Does an active log hold a sub-log or a region on a die (R135)? -/
def ULog.onDie (l : ULog) (d : Nat) : Bool := l.regions.any (fun k => keyDie k = d) || l.subs.any fun e => e.1 / 64 = d

/-- A new log: its sub-logs on every die with NSEG ≠ 0, empty; no waypoint yet; its lines are kept under the context's key (R148). -/
def State.newLog (s : State) (root policy keyid : Nat) (keys : List Nat) : ULog :=
  { root := root, policy := policy, regions := keys
    subs := (List.range 64).flatMap fun d =>
      let n := field (s.rootWord root d 0) 15 0
      if n = 0 then [] else (List.range 64).map fun k => (64 * d + k, { SubLog.fresh with cap := n * 4096, due := n * 4096 })
    newest := 0, oldest := 0, none0 := true, hzv := false, hzcause := 0, hzwp := 0, replay := false, replayWp := 0, target := none
    wayWait := [], fulls := [], diverged := false, key := keyid, notes := [] }

/-! ## Phase 1 (R375) -/

/-- The colours a byte map marks as in use. -/
def colourNumbers (bs : List Nat) : List Nat := (List.range bs.length).filter fun i => (bs.getD i 0).testBit 7

/-- The first RID of a die that may be assigned (R376). -/
def State.nextRidOf (s : State) (d : Nat) : Nat :=
  let used (n : Nat) : Bool := match s.regions.find (regionKey d n) with
    | some r => !(r.st == .done || r.st == .aborted || r.st == .refused)
    | none => false
  let start := (s.die d).nextRid
  (((List.range 0xEFFF).map fun i => (start - 1 + i) % 0xEFFF + 1).find? fun n => !used n).getD start

/-- The check of the blocks of a chart: the report of the first cell whose image is rejected (R228, R231). -/
def State.blockReport (s : State) (ch : Chart) (ps : List Spot) : Option (List Word) :=
  (ps.filterMap fun p =>
    match ch.blockRej (s.die p.die) p.rect p.x p.y with
    | some j => let w := j.report p.die p.pcell ((s.cell p.key).freeCctx.getD 0); some [w.1, w.2]
    | none => none).head?

/-- The checks of phase 1 that come before banks and logs, in the order the model takes: a launch status. -/
def State.phaseCheck (s : State) (r : LRec) (ch : Chart) (ps : List Spot) : Option Nat :=
  let w := r.words
  let rs := List.range ch.nrect
  if ch.badFormat then some lsChartfmt
  else if ch.nrect ≠ r.granted.length || rs.any fun i => rW w < (ch.rect i).1 || rH w < (ch.rect i).2 then some lsRectsize
  else if (match r.pred with
      | some k => (match s.regions.find k with | some p => ch.rect 0 != (p.w, p.h) | none => true)
      | none => false) then some lsRectsize
  else if ps.any fun p => (ch.tdescs p.rect p.x p.y).any (badSpill (ch.tiles p.rect p.x p.y)) then some lsSpillarea
  else if (s.blockReport ch ps).isSome then some lsBlockrej
  else match (ps.filterMap fun p => s.clashAt ch p.rect p.x p.y p.key r.pred).head? with
    | some c => some c
    | none => if ps.any fun p => (s.cell p.key).freeCctx.isNone then some lsNoctx else none

/-- The pins that the cells of one die need. -/
def State.pinsOf (s : State) (r : LRec) (ch : Chart) (ps : List Spot) (d rect : Nat) : PinRes :=
  s.pinAll { r.chartCfg with priv := ch.rank == 7 } [] d (ch.banks rect)
    ((ps.filter fun p => p.rect == rect).map fun p => (p.key, ch.tiles p.rect p.x p.y))

/-- Is a handler's region one that a record brings back: its own, or a SAVED one of the same chart, which has not ended (R393, R404)? -/
def State.returns0 (s : State) (r : LRec) (k : Nat) : Bool :=
  optB (s.regions.find k) fun h => h.st == .saved && ((r.fromSave && r.regions.contains k) || h.chart == pw r.words 0)

/-- The checks of phase 1 that remain: banks, unless a splice pins at its switch-overs (R407); log; signature; fault edge. A logged chart
that finds all 255 log numbers taken is refused with LOGSLOT: R130 does not say what happens (DESIGN CHOICE, log entry 129). -/
def State.phaseCheck2 (s : State) (r : LRec) (ch : Chart) (ps : List Spot) : Option (Nat × Nat × Nat) :=
  let dies := r.granted.map (· / 256)
  let bank : Option (Nat × Nat × Nat) := if r.pred.isSome then none else
    ((List.range r.granted.length).filterMap fun i =>
      match s.pinsOf r ch ps (dies.getD i 0) i with | .bad c a d => some (c, a, d) | .ok _ => none).head?
  match bank with
  | some e => some e
  | none =>
    let ue := if ch.logged && !r.fromSave then s.rootUe (rLroot r.words) else none
    if ue.isSome then some (lsLoadue, ue.getD 0, 0)
    else if ch.logged && !r.fromSave && s.badLogArea (rLroot r.words) ch.cksize dies then some (lsLogarea, 0, 0)
    else if ch.logged && !r.fromSave && (s.freeLognum.isNone || (s.logDieSet (rLroot r.words) dies).any fun d => 16 ≤ (s.logs.filter fun e => e.2.onDie d).length) then
      some (lsLogslot, 0, 0)
    else if ch.badSign s.image then some (lsSign, 0, 0)
    else if ch.badEdge || (feServe ch.fedge && dies.any fun d => optB ((s.die d).handlers.find ch.rank) fun h => !s.returns0 r h.region) then
      some (lsEdge, 0, 0)
    else none

/-- The configuration context of a chart's cell. -/
def cctxFor (ch : Chart) (cfg : Cfg) (ulog : Word) (p : Spot) (k : Nat) : CfgCtx :=
  { CfgCtx.fresh with
    st := .loaded, region := k, asid := cfg.asid, troot := cfg.troot, dset := cfg.dset, keyid := cfg.keyid, ulog := ulog
    blocks := ch.blocks p.rect p.x p.y, routes := ch.routes p.rect p.x p.y, tiles := ch.tiles p.rect p.x p.y
    colours := colourNumbers (ch.colours p.rect p.x p.y), tdescs := ch.tdescs p.rect p.x p.y
    shapes := (ch.shapes p.rect).map (·.1), usesMat := ch.claimsMat p.rect p.x p.y }

/-- A chart's cell loaded into the lowest free context: colour map with CCTX filled in, shape records (R153, R331). -/
def Cell.loadChart (c : Cell) (ch : Chart) (cfg : Cfg) (ulog : Word) (p : Spot) (k : Nat) : Cell :=
  let n := c.freeCctx.getD 0
  let bs := ch.colours p.rect p.x p.y
  { c with
    cctxs := c.cctxs.put n (cctxFor ch cfg ulog p k)
    cmap := (colourNumbers bs).foldl (fun t i => t.put i (bs.getD i 0 + 32 * n)) c.cmap
    shapes := (ch.shapes p.rect).foldl (fun t e => t.put e.1 e.2) c.shapes
    powered := true }

/-- The region of one rectangle of a chart, loaded. -/
def State.regionFor (s : State) (r : LRec) (ch : Chart) (ps : List Spot) (i : Nat) (gang : List Nat) (ulog : Word) : Region :=
  let g := r.granted.getD i 0
  let mine := ps.filter fun p => p.rect == i
  { Region.fresh s.cycle with
    lrec := r.id, rank := ch.rank, rect := i, col0 := g % 16, row0 := g / 16 % 16, w := (ch.rect i).1, h := (ch.rect i).2
    cells := mine.map fun p => (p.die, p.pcell)
    gang := if gang.length = 1 then [] else gang, chart := pw r.words 0, phys := r.cfg.phys, cfg := r.chartCfg, ulog := ulog, sg := ch.sg
    stall := ch.stall, qbound := ch.qbound, cksize := ch.cksize, fedge := ch.fedge, pool := ch.pool, prio := rPrio r.words
    pe := rPe r.words, share := rShare r.words, erate := rErate r.words, admitted := r.admitted
    fillCells := (mine.filter fun p => (ch.cellSect 1 p.rect p.x p.y).isSome).map Spot.key
    banks := (List.range (ch.banks i).length).map fun j => (j, pw (ch.banks i) j), nodes := ch.nodes i
    digest := Config.shake256 ch.bs }

/-- CFG.ULOG of a chart: LOGPOL is its POLICY whether it is logged or not; LOGNUM and ROOT are 0 where it is not (R130, R149,
R365). -/
def ulogWord (ln policy root : Nat) : Word := word (ln * 2 ^ 56 + policy * 2 ^ 54 + root)

/-- Load a chart that has passed its checks: contexts, regions under the keys given, and the log (R130, R151, R375). -/
def State.install (s : State) (r : LRec) (ch : Chart) (ps : List Spot) (keys : List Nat) (keepLog : Option Word) : State :=
  let root := rLroot r.words
  let old := r.pred.bind s.regions.find
  let ln := s.freeLognum.getD 0
  let ulog := match keepLog with
    | some w => w
    | none => if ch.logged then ulogWord ln ch.logpol root else ulogWord 0 ch.logpol 0
  let s := if ch.logged && keepLog.isNone then { s with logs := s.logs.put ln (s.newLog root ch.logpol r.chartCfg.keyid keys) } else s
  let s := (List.range keys.length).foldl (fun s i =>
    { s with regions := s.regions.put (keys.getD i 0) (s.regionFor r ch ps i keys ulog) }) s
  let s := ps.foldl (fun s p => s.modCell p.key fun c => c.loadChart ch r.chartCfg ulog p (keys.getD p.rect 0)) s
  let s := s.modRec r.id fun x => { x with regions := keys, granted := [] }
  match r.pred, old with
  | some k, some p =>
    let s := s.modRegion (keys.getD 0 0) fun x => { x with cur := listModify x.cur 0 fun _ => p.cur.getD 0 0 + 1 }
    s.modRegion k fun x => { x with succ := keys.head? }
  | _, _ => s

/-- What phase 1 comes to. -/
inductive Phase1 where
  | ok (s : State) (keys : List Nat)
  | wait (s : State)
  | refuse (s : State) (code addr detail : Nat)

/-- Phase 1 of a load (R375): fetch, check, load. `keys` are the regions' keys where they are already given (a splice, CHLOAD,
a region that returns from SAVED); else RIDs are assigned. -/
def State.phase1 (s : State) (r : LRec) (keys : List Nat) (keepLog : Option Word) : Phase1 :=
  match s.fetchChart r with
  | .wait s => .wait s
  | .bad c a d =>
    let s := match (s.rec? r.id).bind (·.acc) with | some x => s.dropAcc x | none => s
    .refuse s c a d
  | .ok s ch =>
    let ps := s.spots r ch
    match s.phaseCheck r ch ps with
    | some c =>
      let s := if c = lsBlockrej then s.modRec r.id fun x => { x with report := (s.blockReport ch ps).getD [] } else s
      .refuse s c 0 0
    | none =>
      match s.phaseCheck2 r ch ps with
      | some e => .refuse s e.1 e.2.1 e.2.2
      | none =>
        let fresh := keys.isEmpty
        let ks := if fresh then r.granted.map fun g => regionKey (g / 256) (s.nextRidOf (g / 256)) else keys
        let s := if fresh then ks.foldl (fun s k => s.modDie (keyDie k) fun d => { d with nextRid := keyRid k % 0xEFFF + 1 }) s else s
        .ok (s.install r ch ps ks keepLog) ks

/-! ## Phase 2: activation (R58, R136, R226, R240, R336, R375, R392) -/

/-- A tile takes its role (R58). -/
def Tile.enter (t : Tile) (desc : Word) (k asid keyid : Nat) : Tile :=
  let keep := field desc 63 62 = 1 && flag desc 61 && t.tagged && t.wasBuf && t.tagAsid = asid && t.tagKey = keyid
  { t with desc := desc, owner := some k, mem := if keep then t.mem else [], poison := if keep then t.poison else [], filled := 0, held := 0, head := 0, lines := [], lastTask := none }

/-- A tile leaves its role: it keeps its bytes and the tags of its last owner (R58). -/
def Tile.leave (t : Tile) (asid keyid : Nat) : Tile :=
  { t with desc := 0, owner := none, wasBuf := t.role = 1, tagged := true, tagAsid := asid, tagKey := keyid, filled := 0, held := 0
           head := 0, lines := [], lastTask := none }

/-- A task context of a chart at its activation (R154, R156, R226, R240). -/
def startTask (n : Nat) (tdescs : List (List Word)) (t : Nat) : TaskCtx :=
  match tdescs.find? fun d => field (pw d 0) 14 12 == t with
  | some d =>
    let b (i : Nat) : List Nat := (List.range 16).map fun j => fieldN (pw d (i + j / 8)).toNat (8 * (j % 8) + 7) (8 * (j % 8))
    { TaskCtx.fresh with st := .idle, cctx := n, entry := field (pw d 0) 11 0, spill := pw d 1, ich := b 2, och := b 4 }
  | none => { TaskCtx.fresh with st := .idle, cctx := n, ich := List.replicate 16 0, och := List.replicate 16 0 }

/-- A cell takes up its context of a region: tile roles, task contexts, matrix unit; the turn goes to the lowest colour in use in the
cell, and its issues are counted anew (R162). -/
def Cell.activate (c : Cell) (n k : Nat) : Cell :=
  let x := c.cctx n
  let tiles := (List.range 6).foldl (fun (t : Table Tile) i =>
    let d := pw x.tiles i
    if field d 63 62 = 0 then t else t.put i ((t.get i .fresh).enter d k x.asid x.keyid)) c.tiles
  let tasks := (c.tasksOf x).foldl (fun (t : Table TaskCtx) i => t.put i (startTask n x.tdescs i)) c.tasks
  { c with tiles := tiles, tasks := tasks, mat := if x.usesMat then { Matrix.fresh with owner := some n } else c.mat
           turn := ((List.range 64).find? fun j => (c.cmap.get j 0).testBit 7).getD 0, run := 0, issues := 0
           cctxs := c.cctxs.put n { x with st := .active } }

/-- Pin the bank ranges of a region whose context is loaded (R65). -/
def State.pinRegion (s : State) (k : Nat) : PinRes :=
  match s.regions.find k with
  | none => .ok []
  | some r => s.pinAll { r.cfg with priv := r.rank == 7 } [k] (keyDie k) (r.banks.map (·.2)) (r.keys.map fun key =>
      (key, match s.cctxOn key k with | some n => ((s.cell key).cctx n).tiles | none => []))

/-- Pins of every region of a gang: none where one is refused. -/
def State.pinGang (s : State) : List Nat → Except (Nat × Nat × Nat) (List (Nat × List Pin))
  | [] => .ok []
  | k :: r =>
    match s.pinRegion k with
    | .bad c a d => .error (c, a, d)
    | .ok ps =>
      match State.pinGang s r with
      | .ok qs => .ok ((k, ps) :: qs)
      | .error e => .error e

/-- The die's handler table takes a serving chart; one that returns from SAVED finds its queue (R392, R393). -/
def State.serve (s : State) (k : Nat) : State :=
  match s.regions.find k with
  | some r =>
    if feServe r.fedge then
      let keep (d : Die) : List Word := match d.handlers.find r.rank with | some h => h.queue | none => []
      s.modDie (keyDie k) fun d => { d with handlers := d.handlers.put r.rank { region := k, ncol := feNcol r.fedge, queue := keep d } }
    else s
  | none => s

/-- Phase 2 of a load on every cell of a gang in one step (R375): every task begins with an acquire at pkg (R128). A logged
chart takes waypoint 0 unless it is restored (R136). -/
def State.activate (s : State) (keys : List Nat) (pins : List (Nat × List Pin)) (restored : Bool) : State :=
  let s := keys.foldl (fun s k =>
    match s.regions.find k with
    | none => s
    | some r =>
      let s := r.keys.foldl (fun s key => match s.cctxOn key k with
        | some n => s.modCell key fun c => c.activate n k
        | none => s) s
      let s := s.modRegion k fun r => { r with
        st := .active, activated := s.cycle, moved := s.cycle, lastIn := s.cycle
        pins := match pins.find? (·.1 == k) with | some e => e.2 | none => []
        cur := listModify r.cur 1 fun _ => s.cycle - r.admitted }
      (s.advanceGen (keyDie k)).serve k) s
  let s := match keys.head?.bind s.regions.find with
    | some r => s.modRec r.lrec fun x => { x with st := .active }
    | none => s
  match keys.head?.bind s.regions.find with
  | some r =>
    let ln := field r.ulog 63 56
    if restored || ln = 0 then s
    else match s.takeWaypoint ln true false with | .done s => s | _ => s
  | none => s

/-! ## The end of a region in its cells (R58, R67, R393, R397) -/

/-- A cell lets go of a context: tiles to role NONE, tasks UNBOUND, tokens, colours, shape records and the context itself. -/
def Cell.leave (c : Cell) (n : Nat) : Cell :=
  let x := c.cctx n
  let c := c.without n
  { c with
    tiles := c.tiles.map fun (e : Nat × Tile) => if e.2.owner = some x.region then (e.1, e.2.leave x.asid x.keyid) else e
    tasks := c.tasks.map fun (e : Nat × TaskCtx) => if e.2.cctx = n && e.2.st != .unbound then (e.1, TaskCtx.fresh) else e
    cmap := c.cmap.filter fun e => !x.colours.contains e.1
    shapes := c.shapes.filter fun e => !x.shapes.contains e.1
    mat := if c.mat.owner = some n then .fresh else c.mat
    cctxs := c.cctxs.put n .fresh }

/-- A cell's banks of a region write back, its pins go, and it lets go of the context. -/
def State.leaveCell (s : State) (k key n : Nat) : State :=
  let s := (s.clearBanks key k).1
  let s := s.modRegion k fun r => { r with pins := r.pins.filter fun p => p.cell != key }
  s.modCell key fun c => c.leave n

/-- A handler's region ends: its entry is cleared and its queued notifications go to rank 7 (R393). -/
def State.unserve (s : State) (k : Nat) : State :=
  let es := (s.die (keyDie k)).handlers.filter fun e => e.2.region = k
  let arrived (h : HEntry) : List Word := match (s.regions.find k).bind fun r => r.keys.head? with
    | some key => (((s.cell key).inbox.get 63 []).filter fun y => y.tok.color = h.ncol).map fun y => word y.tok.w64
    | none => []
  let s := s.modDie (keyDie k) fun d => { d with handlers := d.handlers.filter fun e => e.2.region ≠ k }
  es.foldl (fun s e => (arrived e.2 ++ e.2.queue).foldl (fun s w => s.post (keyDie k) (eventWord 7 (field w 63 56) (regionKey (field w 37 32) (field w 15 0))) w) s) s

/-- What a region has under way is withdrawn: accesses that have not committed, claims, kills, stream commands, SPAWNs. -/
def State.withdrawRegion (s : State) (k : Nat) : State :=
  let mine (a : Agent) : Bool := !a.isHelm && s.regionOf a = k
  let s := s.letClaims fun x => mine x.agent
  { s with
    accs := s.accs.filter (fun x => x.committed || !mine x.agent)
    claims := s.claims.filter (fun c => !mine c.agent)
    kills := s.kills.filter (fun m => !mine m.agent)
    ports := s.ports.map fun (e : Nat × Port) =>
      (e.1, { e.2 with cmds := e.2.cmds.filter (fun c => c.region ≠ k), waiting := e.2.waiting.filter fun c => c.region ≠ k }) }

/-- A region leaves its cells (R378, R397, R404). -/
def State.leaveRegion (s : State) (k : Nat) (st : RegSt) : State :=
  match s.regions.find k with
  | none => s
  | some r =>
    let s := (if st == .saved then s else s.unserve k).withdrawRegion k
    let s := r.keys.foldl (fun s key => match s.cctxOn key k with | some n => s.leaveCell k key n | none => s) s
    s.modRegion k fun r => { r with st := st, pins := [], spawnQ := [], poolHeld := 0, gate := false, settled := false }

/-- A log is released: every slice clears its number from its tiles (R130, R132). -/
def State.closeLog (s : State) (ln : Nat) : State :=
  if ln = 0 then s
  else { s with logs := s.logs.drop ln, logown := s.logown.filter fun e => e.2 ≠ ln
                images := s.images.filter fun e => e.1 < 2 ^ 32 * ln || 2 ^ 32 * (ln + 1) ≤ e.1
                lineAgent := s.lineAgent.filter fun e => s.ownerLog (e.1 * 128) ≠ ln }

/-- The regions of a gang end. -/
def State.endGang (s : State) (ks : List Nat) (st : RegSt) : State :=
  let ln := match ks with | k :: _ => s.logOf k | [] => 0
  let s := ks.foldl (fun s k => s.leaveRegion k st) s
  let s := match ks.head?.bind s.regions.find with
    | some r => s.modRec r.lrec fun x => { x with st := st }
    | none => s
  s.closeLog ln

end Sys2Proof.Machine
end

