-- ==== Sys2Proof/Machine/Spots.lean ====
section
/-! DEFINITION. Tokens, window entries, window slots and router latches as the words of binnacle registers, spaces 0x02, 0x03 and 0x06 of
R419, and the pairs of register number and value that a full save stores (R403, R405). The order of window entries is the model's (log
entry 14). -/

namespace Sys2Proof.Machine

/-! ## Places (R409) -/

/-- A cell of a region with one of its task contexts: cell key, configuration context, task, and whether the task is the
region's. -/
structure DbgSpot where
  key : Nat
  cctx : Nat
  task : Nat
  own : Bool
deriving DecidableEq, Repr

/-- The agent of a spot. -/
def DbgSpot.agent (p : DbgSpot) : Agent := .task (p.key / 256) (p.key % 256) p.task
/-- The task context of a spot. -/
def State.spotTask (s : State) (p : DbgSpot) : TaskCtx := (s.cell p.key).task p.task

/-! ## Tokens as words -/

/-- The tag word of a token: PRESENT and the tag of R155. -/
def tokenWord (t : Token) : Word :=
  word (2 ^ 63 + t.color % 64 * 1024 + t.stop % 8 * 128 + (if t.stop = 0 then t.kind.code * 16 else 0))

/-- The kind of a TKIND code; 111 is reserved. -/
def kindOfCode : Nat → Option TKind
  | 0 => some .word | 1 => some .vector | 2 => some .digit | 3 => some .head | 4 => some .scale | 5 => some .null
  | 6 => some .splice | _ => none

/-- A token with the tag of a tag word. -/
def Token.retag (t : Token) (w : Word) : Option Token :=
  (kindOfCode (field w 6 4)).map fun k => { t with kind := k, stop := field w 9 7, color := field w 15 10 }

/-- Word `k` of a payload. -/
def payWord (p : Payload) (k : Nat) : Word := (p >>> (64 * k)).setWidth 64
/-- A payload with word `k` replaced. -/
def putPayWord (p : Payload) (k : Nat) (v : Word) : Payload :=
  (p &&& ~~~((0xFFFFFFFFFFFFFFFF : Payload) <<< (64 * k))) ||| (v.setWidth 2048 <<< (64 * k))

/-- Word `j` of a place that holds a token or none: 0 its tag word, 1 to 32 its payload. -/
def tokRead (t : Option Token) (j : Nat) : Word :=
  match t with
  | none => 0
  | some t => if j = 0 then tokenWord t else payWord t.payload (j - 1)

/-- The token of a place after a write of one of its words; `none` where an empty place has no payload to write, or the tag is
reserved. The inner `none` leaves the place empty. -/
def tokWrite (t : Option Token) (j : Nat) (v : Word) : Option (Option Token) :=
  if j = 0 then (if flag v 63 then ((t.getD (wordTok 0)).retag v).map some else some none)
  else t.map fun t => some { t with payload := putPayWord t.payload (j - 1) v }

/-! ## Windows and latches -/

/-- The block of window entry `e`: of task `e` the firing one, of task `e` - 8 the successor, if the task is the region's
(log entry 14). -/
def State.entryOf (s : State) (p : DbgSpot) (e : Nat) : Option (Nat × TaskCtx) :=
  let t := (s.cell p.key).task (e % 8)
  if t.cctx = p.cctx && t.st != .unbound then some (e % 8, t) else none

/-- A word of a window entry (R419); a successor has received no number yet: a free value (log entry 5). -/
def State.windowWord (s : State) (p : DbgSpot) (e j : Nat) : Word :=
  match s.entryOf p e with
  | none => 0
  | some (t, x) =>
    if e < 8 then
      match x.win with
      | none => 0
      | some w =>
        let mask := bitSet ((List.range w.slots.length).filter fun i => match w.slots[i]? with
          | some sl => sl.st == .fired || sl.st == .nulled || sl.st == .passed
          | none => false)
        if j = 0 then word (2 ^ 63 + 2 ^ 62 + t * 2 ^ 59 + w.baddr % 4096)
        else if j = 1 then word w.seq
        else if j = 2 then word mask else word (mask / 2 ^ 64)
    else
      match x.succ with
      | none => 0
      | some b => if j = 0 then word (2 ^ 63 + t * 2 ^ 59 + b % 4096) else if j = 1 then Config.freeWord 43 s.free else 0

/-- Fields of a window slot register: entry, slot, operand field, word. -/
def slotReg (i : Nat) : Nat × Nat × Fld × Nat :=
  (fieldN i 18 15, fieldN i 14 8, (match fieldN i 7 6 with | 0 => .l | 1 => .r | 2 => .p | _ => .x), fieldN i 5 0)

/-- A word of an operand field in a window (R419). -/
def State.slotRegRead (s : State) (p : DbgSpot) (i : Nat) : Option Word :=
  let q := slotReg i
  if 32 < q.2.2.2 then none
  else
    match s.entryOf p q.1 with
    | some (_, x) => some (match x.win, Nat.ble q.1 7 with
      | some w, true => tokRead ((w.slots[q.2.1]?).bind fun sl => sl.tok? q.2.2.1) q.2.2.2
      | _, _ => 0)
    | none => some 0

/-- The state with a word of an operand field written; none where there is no such slot, or its field is empty. -/
def State.slotRegWrite (s : State) (p : DbgSpot) (i : Nat) (v : Word) : Option State :=
  let q := slotReg i
  match s.entryOf p q.1, (Nat.ble q.1 7 && Nat.ble q.2.2.2 32) with
  | some (t, x), true =>
    (match x.win.bind fun w => w.slots[q.2.1]? with
     | none => none
     | some sl =>
       (tokWrite (sl.tok? q.2.2.1) q.2.2.2 v).map fun o =>
         let fs := sl.fld q.2.2.1
         let fs' : FieldSt := match o with
           | some tk => { fs with got := true, q := { tok := tk, at0 := s.cycle } :: fs.q.drop 1 }
           | none => { fs with got := false, q := [] }
         s.modWin (.task (p.key / 256) (p.key % 256) t) fun w => { w with slots := listModify w.slots q.2.1 fun sl => sl.setFld q.2.2.1 fs' })
  | _, _ => none

/-- The key of a latch register's latch: ports 4 to 7 are one attachment (R165). -/
def latchKey (i : Nat) : Nat :=
  let port := fieldN i 18 15
  64 * (if 4 ≤ port && port ≤ 7 then 4 else port) + fieldN i 14 9

/-- A word of a router latch, or a router entry (R419); the tokens of other contexts are not seen. -/
def State.routerRead (s : State) (p : DbgSpot) (i : Nat) : Option Word :=
  let c := s.cell p.key
  if fieldN i 18 15 = 15 then
    if fieldN i 14 6 ≠ 0 then none
    else some (((c.cctx p.cctx).routes.find? fun e => rCid e == fieldN i 5 0).getD 0)
  else if 8 < fieldN i 18 15 || 32 < fieldN i 6 0 then none
  else
    let own := (c.latch.get (latchKey i) []).filter fun t => c.holdsColour p.cctx t.color
    some (tokRead own[fieldN i 8 7]? (fieldN i 6 0))

/-- The position in a latch of the `n`-th token of a context. -/
def Cell.latchPos (c : Cell) (n : Nat) : List Token → Nat → Nat
  | [], _ => 0
  | t :: r, j => if c.holdsColour n t.color then (match j with | 0 => 0 | j + 1 => c.latchPos n r j + 1) else c.latchPos n r j + 1

/-- The state with a word of a router latch or a router entry written. A token may be put behind the last one, and none further. -/
def State.routerWrite (s : State) (p : DbgSpot) (i : Nat) (v : Word) : Option State :=
  let c := s.cell p.key
  if fieldN i 18 15 = 15 then
    if fieldN i 14 6 ≠ 0 then none
    else
      let e := (v &&& 0xF87FFFFFFFFFFF80) ||| word (fieldN i 5 0 * 2 ^ 55)
      some (s.modCell p.key fun c => c.modCctx p.cctx fun x =>
        { x with routes := (x.routes.filter fun e => rCid e != fieldN i 5 0) ++ (if v = 0 then [] else [e]) })
  else if 8 < fieldN i 18 15 || 32 < fieldN i 6 0 then none
  else
    let l := c.latch.get (latchKey i) []
    let own := l.filter fun t => c.holdsColour p.cctx t.color
    let j := fieldN i 8 7
    if own.length < j then none
    else
      let at0 := c.latchPos p.cctx l j
      (tokWrite own[j]? (fieldN i 6 0) v).map fun o =>
        let l' := if j < own.length then (match o with | some t => l.set at0 t | none => l.eraseIdx at0)
          else (match o with | some t => l ++ [t] | none => l)
        let ts := c.latchAt.get (latchKey i) []
        let ts' := if l'.length < l.length then ts.eraseIdx at0 else if l.length < l'.length then ts ++ [s.cycle] else ts
        s.modCell p.key fun c => { c with latch := c.latch.put (latchKey i) l', latchAt := c.latchAt.put (latchKey i) ts' }

/-! ## The pairs of a full save (R403, R419) -/

/-- A register number. -/
def regNo (space i : Nat) : Nat := space * 2 ^ 19 + i

/-- The registers of a token whose tag word has number `r`: tag and payload, those that are not zero. -/
def tokPairs (r : Nat) (t : Token) : List (Nat × Word) :=
  ((List.range 33).map fun j => (r + j, tokRead (some t) j)).filter fun e => e.2 != 0

/-- The pairs of a cell's part: window slots, window entries, latches and router entries that are not zero, by register number
(log entry 14). The state words of space 0x07 have no layout and are kept apart (log entry 13). -/
def State.savePairs (s : State) (p : DbgSpot) : List (Nat × Word) :=
  let c := s.cell p.key
  let slots := (List.range 8).flatMap fun e =>
    match (s.entryOf p e).bind fun q => q.2.win with
    | some w => (List.range w.slots.length).flatMap fun i => [Fld.l, .r, .p, .x].zipIdx.flatMap fun f =>
        (match (w.slots[i]?).bind fun sl => sl.tok? f.1 with
         | some t => tokPairs (regNo 2 (e * 2 ^ 15 + i * 2 ^ 8 + f.2 * 2 ^ 6)) t
         | none => [])
    | none => []
  let entries := ((List.range 64).map fun i => (regNo 3 (i / 4 * 2 ^ 15 + i % 4), s.windowWord p (i / 4) (i % 4))).filter fun e => e.2 != 0
  let latches := (List.range 9).flatMap fun port => if 5 ≤ port && port ≤ 7 then [] else (List.range 64).flatMap fun cid =>
    ((((c.latch.get (64 * port + cid) []).filter fun t => c.holdsColour p.cctx t.color).take 4).zipIdx).flatMap fun t =>
      tokPairs (regNo 6 (port * 2 ^ 15 + cid * 2 ^ 9 + t.2 * 2 ^ 7)) t.1
  slots ++ entries ++ latches ++ (c.cctx p.cctx).routes.map fun e => (regNo 6 (15 * 2 ^ 15 + rCid e), e)

/-- Where the pairs lie in a cell's part. -/
def pairBase : Nat := 0x80000

/-- How many pairs a cell's part has room for. -/
def pairRoom : Nat := 4096

/-- The 64 KiB of pairs; a pair of zeros stands for none. -/
def State.pairBytes (s : State) (p : DbgSpot) : List Byte :=
  ((((s.savePairs p).take pairRoom).flatMap fun e => leBytes e.1 8 ++ leBytes e.2.toNat 8) ++ List.replicate 65536 (0 : Byte)).take 65536

/-- The pairs that bytes hold. -/
def pairsOfBytes : Nat → List Byte → List (Nat × Word)
  | 0, _ => []
  | n + 1, bs =>
    let r := leNat (bs.take 8)
    let v := word (leNat ((bs.drop 8).take 8))
    if r = 0 && v = 0 then pairsOfBytes n (bs.drop 16) else (r, v) :: pairsOfBytes n (bs.drop 16)

/-- Does a number of the table of R419 stand in a pair, as far as the spaces that a full save stores go? -/
def knownPair (r : Nat) : Bool :=
  let i := r % 2 ^ 19
  match r / 2 ^ 19 with
  | 2 => Nat.ble (fieldN i 5 0) 32
  | 3 => fieldN i 14 2 = 0
  | 6 => if fieldN i 18 15 = 15 then fieldN i 14 6 = 0 else Nat.ble (fieldN i 18 15) 8 && Nat.ble (fieldN i 6 0) 32
  | 7 => Nat.blt (fieldN i 18 12) 21
  | n => Nat.ble n 9

/-- A register of a pair written back by the rules of R419: where the write is refused, nothing changes. -/
def State.putPair (s : State) (p : DbgSpot) (r : Nat) (v : Word) : State :=
  let i := r % 2 ^ 19
  match r / 2 ^ 19 with
  | 2 => if s.slotRegRead p i = some v then s else (s.slotRegWrite p i v).getD s
  | 6 => if s.routerRead p i = some v then s else (s.routerWrite p i v).getD s
  | _ => s

/-- The pairs of an area written back: registers that no pair names any more become zero, the last first; then tags and payloads as the
pairs have them. -/
def State.putPairs (s : State) (p : DbgSpot) (l : List (Nat × Word)) : State :=
  let gone := ((s.savePairs p).take pairRoom).filter fun e => !(l.any fun x => x.1 == e.1)
  let s := gone.reverse.foldl (fun s e => s.putPair p e.1 0) s
  l.foldl (fun s e => s.putPair p e.1 e.2) s

end Sys2Proof.Machine
end

