-- ==== Sys2Proof/Machine/Regions.lean ====
section
/-! DEFINITION. Region operations: the mailbox, notifications, stalls, the time account, RESUME, ABORT, PREEMPT with gating and
the two save forms, CKSAVE and CKREST (R174, R175, R361, R384-R407). -/

namespace Sys2Proof.Machine

/-! ## Status words (R361) -/

/-- A status word: STATUS and REASON. -/
def statusWord (status reason : Nat) : Word := word (reason % 256 * 256 + status)
def stDone : Nat := 0
def stNoRegion : Nat := 1
def stState : Nat := 2
def stBusy : Nat := 3
def stRefused : Nat := 4
def stFailed : Nat := 5
/-- A finished operation that sends a status. -/
def CommitRes.status (s : State) (status reason : Nat) : CommitRes := .done s (some (wordTok (statusWord status reason).toNat))

/-! ## The time account (R384) -/

/-- Counter `i` of the current phase of a region as it stands now; `ended` settles DRAIN and STEADY. Time SAVED counts
nowhere. -/
def State.counter (s : State) (r : Region) (ended : Bool) (i : Nat) : Nat :=
  let live := r.st == .active || r.st == .gating
  let all := r.closedAt.getD s.cycle - r.activated - r.savedCyc
  let fill := r.fillDone.getD all
  let drain := if ended then all - (r.lastIn - r.activated - r.savedCyc) else 0
  match live, i with
  | true, 2 => fill
  | true, 3 => all - fill - drain
  | true, 4 => drain
  | true, 5 => r.energy / 10 ^ 9
  | _, _ => r.cur.getD i 0

/-- The current set of counters. -/
def State.counters (s : State) (r : Region) (ended : Bool) : Counters := (List.range 16).map (s.counter r ended)

/-! ## The mailbox (R390, R391) -/

/-- Presence and TKIND of a recorded token. -/
def tokNibble (t : Option Token) : Nat := match t with | some t => 8 + t.kind.code | none => 0
/-- Payload bits [63:0] of a recorded token. -/
def tokLow (t : Option Token) : Nat := match t with | some t => t.w64 | none => 0

/-- The boundary mask of a splice: a bit for each logical cell that has switched over. -/
def State.boundary (s : State) (r : Region) : Nat :=
  r.switched.foldl (fun m key => m ||| 2 ^ (s.die (key / 256)).logical (key % 256)) 0

/-- The sixteen words of a region's mailbox. -/
def State.mailWords (s : State) (r : Region) : List Word :=
  match r.mail with
  | none => List.replicate 16 0
  | some f =>
    let tok (i : Nat) : Option Token := (f.fx[i]?).getD none
    let idx (i : Nat) : Nat := f.idx.getD i 0
    let bd := s.boundary r
    let t4 (i : Nat) : Word := if f.spl then word (bd / 2 ^ (64 * i)) else word (tokLow (tok i))
    [ word (f.fclass * 2 ^ 56 + f.detail % 512 * 2 ^ 47 + 2 ^ 46 + bit (!r.latched.isEmpty) * 2 ^ 45 + bit f.strm * 2 ^ 44
        + bit f.spl * 2 ^ 43 + bit r.mailRst * 2 ^ 42 + f.cctx % 4 * 2 ^ 40 + f.task % 8 * 2 ^ 37 + f.slot % 128 * 2 ^ 30
        + f.baddr % 4096 * 2 ^ 18),
      word (r.fseq % 2 ^ 32 * 2 ^ 32 + f.die % 64 * 2 ^ 24 + (s.die f.die).logical f.pcell % 256 * 2 ^ 16 + f.pcell % 256 * 256
        + f.color % 64),
      f.config, f.addr, f.chart, word (f.nidx * 2 ^ 32 + f.node), word (idx 1 * 2 ^ 32 + idx 0), word (idx 3 * 2 ^ 32 + idx 2),
      word (tokNibble (tok 3) * 4096 + tokNibble (tok 2) * 256 + tokNibble (tok 1) * 16 + tokNibble (tok 0)),
      t4 0, t4 1, t4 2, t4 3, word f.bseq, word f.cyc, word (f.xinfo % 256) ]

/-- The token of a nibble and a low payload word. -/
def tokOf (n : Nat) (w : Word) : Option Token :=
  if n < 8 then none
  else
    let k : TKind := match n % 8 with | 0 => .word | 1 => .vector | 2 => .digit | 3 => .head | 4 => .scale | 5 => .null | _ => .splice
    some { kind := k, stop := 0, color := 0, payload := w.setWidth 2048 }

/-- The record that sixteen words hold; none when V = 0. -/
def recordOfWords (w : List Word) : Option FaultRec :=
  let w0 := pw w 0
  if !flag w0 46 then none
  else
    let k (i : Nat) : Nat := field (pw w 8) (4 * i + 3) (4 * i)
    some
      { fclass := field w0 63 56, detail := field w0 55 47, strm := flag w0 44, spl := flag w0 43, cctx := field w0 41 40
        task := field w0 39 37, slot := field w0 36 30, baddr := field w0 29 18, die := field (pw w 1) 29 24
        pcell := field (pw w 1) 15 8, color := field (pw w 1) 5 0, config := pw w 2, addr := pw w 3, node := field (pw w 5) 31 0
        nidx := field (pw w 5) 34 32
        idx := [field (pw w 6) 31 0, field (pw w 6) 63 32, field (pw w 7) 31 0, field (pw w 7) 63 32].take (field (pw w 5) 34 32)
        fx := [tokOf (k 0) (pw w 9), tokOf (k 1) (pw w 10), tokOf (k 2) (pw w 11), tokOf (k 3) (pw w 12)], bseq := (pw w 13).toNat
        cyc := (pw w 14).toNat, xinfo := field (pw w 15) 7 0, acc := none, chart := pw w 4 }

/-- The region that a handle names, if any. -/
def State.regionAt (s : State) (w : Word) : Option (Nat × Region) :=
  match keyOfHandle w with
  | some k => (s.regions.find k).map fun r => (k, r)
  | none => none

/-- What MAILR reads for an agent (R391). -/
def State.mailRead (s : State) (a : Agent) (h : Word) (i : Nat) : Word :=
  match s.regionAt h with
  | none => word (2 ^ 64 - 1)
  | some (_, r) =>
    let w := pw (s.mailWords r) i
    if r.cfg.keyid = 0 || (s.cfgFor a).keyid = r.cfg.keyid then w
    else if i = 0 then w &&& 0xFF00600000000000 else 0

/-! ## Notifications (R393, R394) -/

/-- Must a notification wait: for the end of the cycle that took its record, in which a lower cell's fault may become the record (R388), or
for that of a record taken earlier, or in the same cycle by a lower cell (R393)? -/
def State.notifyLater (s : State) (k : Nat) (r : Region) (f : FaultRec) : Bool :=
  let d := s.die (keyDie k)
  Nat.ble s.cycle r.mailAt ||
  s.regions.any fun e => e.1 ≠ k && keyDie e.1 = keyDie k && e.2.notifyWait && feHrank e.2.fedge = feHrank r.fedge &&
    (match e.2.mail with
     | some g => e.2.mailAt < r.mailAt || (e.2.mailAt = r.mailAt && d.logical g.pcell < d.logical f.pcell)
     | none => false)

/-- A region's notification goes to its handler's entry or to rank 7; it waits while the entry's queue is full. -/
def State.notifyHandler (s : State) (k : Nat) (r : Region) (f : FaultRec) : State :=
  let w := notifyWord k r f.fclass
  let sent (s : State) : State := s.modRegion k fun r => { r with notifyWait := false }
  let rank7 (s : State) : State := sent (s.post (keyDie k) (eventWord 7 f.fclass k) w)
  let h := feHrank r.fedge
  match (if h = 7 then none else (s.die (keyDie k)).handlers.find h) with
  | none => rank7 s
  | some e =>
    let key := match s.regions.find e.region with | some x => x.cfg.keyid | none => 0
    if r.cfg.keyid ≠ 0 && key ≠ r.cfg.keyid then rank7 s
    else if 64 ≤ e.queue.length then s
    else sent (s.modDie (keyDie k) fun d => { d with handlers := d.handlers.put h { e with queue := e.queue ++ [w] } })

/-- The oldest notification of a handler arrives on circuit 63 at the block-engine port of its origin cell; that of a handler that is SAVED
waits for its return. -/
def State.deliverNotice (s : State) (k : Nat) : State :=
  match (s.die (keyDie k)).handlers.filter (fun e => e.2.region = k),
      (s.regions.find k).bind fun r => if r.st == .saved || r.st == .loaded then none else r.keys.head? with
  | (rank, h) :: _, some key =>
    (match h.queue with
     | w :: ws =>
       let c := s.cell key
       if c.gated || !(c.inbox.get 63 []).isEmpty then s
       else
         let s := s.modDie (keyDie k) fun d => { d with handlers := d.handlers.put rank { h with queue := ws } }
         (s.modCell key fun c => { c with inbox := c.inbox.put 63 [{ tok := { wordTok w.toNat with color := h.ncol }, at0 := s.cycle + 1 }] }).entered k
     | [] => s)
  | _, _ => s

/-- HANDLER_NOTIFY (R393): the notification of a region that has taken a record reaches its handler's entry or rank-7
firmware; for a handler, its oldest notification reaches its origin cell. -/
def execHandlerNotify (region : Nat) (s : State) : Host.Outcome State Fault Refusal :=
  match s.regions.find region with
  | none => .next s
  | some r =>
    match r.mail with
    | some f =>
      if r.notifyWait then (if s.notifyLater region r f then .next s else .next (s.notifyHandler region r f))
      else .next (s.deliverNotice region)
    | none => .next (s.deliverNotice region)

/-! ## Stalls (R175, R386) -/

/-- Colours mapped to no context that tokens in a cell have (R153). -/
def Cell.heldColours (c : Cell) : List Nat :=
  let cs := c.latch.flatMap (fun e => e.2.map (·.color)) ++ c.inbox.flatMap fun e => e.2.map fun y => y.tok.color
  cs.filter fun k => !(c.cmap.get k 0).testBit 7

/-- The resident blocks of a region: block number, cell and task. -/
def State.blocksOf (s : State) (r : Region) (k : Nat) : List (Nat × Nat × Nat) :=
  r.keys.flatMap fun key =>
    match s.cctxOn key k with
    | none => []
    | some n => (s.cell key).tasks.filterMap fun e =>
        if e.2.cctx = n then e.2.win.map fun w => (w.seq, key, e.1) else none

/-- The cell at fault in a stalled region and its task: that of the oldest block, else the lowest logical cell with a token. Block
numbers are a cell's own: of cells whose blocks are equally old the first in the region's order counts (DESIGN CHOICE, log entry
105). -/
def State.stallCell (s : State) (r : Region) (k : Nat) : Nat × Option Nat :=
  match (s.blocksOf r k).foldl (fun (b : Option (Nat × Nat × Nat)) e =>
      match b with | some x => if e.1 < x.1 then some e else b | none => some e) none with
  | some b => (b.2.1, some b.2.2)
  | none =>
    ((r.keys.find? fun key => match s.cctxOn key k with | some n => s.cellBusy key n | none => false).getD (r.keys.headD 0), none)

/-- The record of a stall. -/
def State.stallRecord (s : State) (r : Region) (k : Nat) : FaultRec :=
  let c := s.stallCell r k
  let a := Agent.task (c.1 / 256) (c.1 % 256) (c.2.getD 0)
  let held := (s.cell c.1).heldColours
  let f := s.faultOf a none fcStalled (if held.isEmpty then 1 else 2) 0
  let f := match held with | col :: _ => { f with color := col } | [] => f
  let f := { f with cyc := s.cycle - r.activated - r.savedCyc }
  match c.2 with
  | some _ => f
  | none => { f with task := 0, baddr := 0, bseq := 0, cctx := (s.cctxOn c.1 k).getD 0, color := held.headD 0 }

/-- The log of a region in whose replay a cell choice stands next that no instruction can claim any more: nothing moves, or the region
has come to its end (R145). -/
def State.unclaimed (s : State) (k : Nat) : Option Nat :=
  let ln := s.logOf k
  match s.log ln with
  | some l => if l.subs.any fun e => l.replaying e.1 && fieldN (s.entryWord ln e.1 e.2.tail 0) 63 60 = 6 then some ln else none
  | none => none

/-- REGION_STALLED (R175): tokens present and nothing moved for STALL · 1,024 cycles, neither frozen nor halted. -/
def execRegionStalled (region : Nat) (s : State) : Host.Outcome State Fault Refusal :=
  match s.regions.find region with
  | none => .next s
  | some r =>
    if (r.st == .active || r.st == .gating) && !r.frozen && !r.dh && s.tokensPresent region && r.moved + r.stall * 1024 ≤ s.cycle then
      match s.unclaimed region with
      | some ln => .next (s.diverged ln)
      | none => .next (s.takeHeld region (s.stallRecord r region))
    else .next s

/-! ## Gating and the save forms (R399-R401, R406) -/

/-- Has every input stream of a region carried the splice token: no read command of it is left (R171, R406)? -/
def State.inputsSpliced (s : State) (k : Nat) : Bool := !(s.ports.any fun e => (e.2.cmds ++ e.2.waiting).any fun c => c.region = k && !c.isBar && !c.write)

/-- Gate every region of a gang (R399). -/
def State.startGate (s : State) (ks : List Nat) (victim : Bool) : State :=
  ks.foldl (fun s k => (s.modRegion k fun r =>
    { r with st := .gating, gate := true, gateStart := s.cycle, settled := false, full := false, victim := victim }).traceEvent k 5 0) s

/-- Has the quiescence bound of a gated region passed (R400)? -/
def State.boundPassed (s : State) (r : Region) : Bool := r.qbound = 0 || r.gateStart + r.qbound * 1024 ≤ s.cycle

/-- The save form of a gang is settled once its banks have written back (R67, R400). -/
def State.settle (s : State) (ks : List Nat) (full : Bool) : State :=
  let s := ks.foldl State.writeBackRegion s
  if ks.any s.regionBackDue then s
  else ks.foldl (fun s k => s.modRegion k fun r => { r with settled := true, full := full }) s

/-- May a gang be settled at all: every rectangle gates and no splice is under way (R406)? -/
def State.gating (s : State) (ks : List Nat) : Bool :=
  ks.all fun k => match s.regions.find k with | some r => r.st == .gating && !r.settled && r.succ.isNone | none => false

/-- GATED_QUIESCENCE (R400): no token is present in any rectangle before the bound passes. -/
def execGatedQuiescence (region : Nat) (s : State) : Host.Outcome State Fault Refusal :=
  let ks := s.gangOf region
  if s.gating ks && ks.all (fun k => !s.tokensPresent k && (match s.regions.find k with
      | some r => !r.full && !s.boundPassed r && !r.frozen && !r.dh
      | none => false)) then .next (s.settle ks false)
  else .next s

/-- Is an access stopped until a RESUME or log room: at a full sub-log, or at a link that is down (R387)? -/
def Access.stuck (x : Access) : Bool := x.units.any fun u => u.st == .logHeld || u.linkHeld

/-- Does an access of a region have to perform before a full save is settled: a committed one, an engine's, or a read in flight, that is,
one that can perform or has left for another package (R400)? Not one that only a RESUME frees, nor one behind it: these are saved with
the mailbox (R401). -/
def State.saveWaits (s : State) (k : Nat) : Bool :=
  let mine := s.accs.filter fun x => !x.agent.isHelm && s.regionOf x.agent = k
  let stuck := mine.filter Access.stuck
  mine.any fun x =>
    !x.stuck && !(stuck.any fun y => y.before x) &&
    (x.committed || x.kind == .elem ||
      (x.kind != .write && x.kind != .presence && x.kind != .fence && x.units.any fun u => u.away || (u.st == .issued && s.turnCome x u && (x.loc || s.homeReady u.pa))))

/-- Release every ONCE claim of a region (R73, R400). -/
def State.dropClaims (s : State) (k : Nat) : State :=
  { s.letClaims (fun x => !x.agent.isHelm && s.regionOf x.agent = k) with claims := s.claims.filter fun c => c.agent.isHelm || s.regionOf c.agent ≠ k }

/-- The full-save form: block engines stop at once; it is settled when committed accesses and reads in flight have performed (R400). -/
def State.fullSave (s : State) (ks : List Nat) : State :=
  let s := ks.foldl (fun s k => s.modRegion k fun r => { r with full := true }) s
  if ks.any s.saveWaits then s else (ks.foldl State.dropClaims s).settle ks true

/-! ## ABORT (R397) -/

/-- The scheduler whose events tell of a record: its die, 64 for the package scheduler, the region's own for CHLOAD. -/
def schedOf (r : LRec) (k : Nat) : Nat := if r.qdie ≤ 64 then r.qdie else keyDie k

/-- The event of a region's scheduler. -/
def State.postFor (s : State) (k kind stat : Nat) (payload : Word) : State :=
  match s.recOf k with
  | some r => s.post (schedOf r k) (eventWord kind stat k) payload
  | none => s.post (keyDie k) (eventWord kind stat k) payload

/-- The launch id of a region's record. -/
def State.lidOf (s : State) (k : Nat) : Word := match s.recOf k with | some r => r.lid 0 | none => 0

/-- Both charts of a gang's regions end; a successor's record with it (R397, R407). -/
def State.endAborted (s : State) (ks : List Nat) : State :=
  let succs := ks.filterMap fun k => (s.regions.find k).bind (·.succ)
  let s := if succs.isEmpty then s else s.endGang succs .aborted
  let s := succs.foldl (fun (s : State) k => { s with regions := s.regions.drop k }) s
  s.endGang ks .aborted

/-- ABORT of a gang: it ends and ABORTED is posted. -/
def State.abortGang (s : State) (ks : List Nat) : State :=
  match ks.head? with
  | none => s
  | some k =>
    let lid := s.lidOf k
    (s.endAborted ks).postFor k 3 0 lid

/-- Is another operation on a region under way: a pre-emption whose form is not settled (R361)? -/
def Region.busy (r : Region) : Bool := r.st == .gating && !r.settled

/-- Does another agent's ABORT, CKSAVE or CKREST of a region's gang wait for its banks or its area, or the scheduler's own save or restore of it? An operation
on the region then finds it busy (R361, R363). -/
def State.opUnderWay (s : State) (a : Agent) (k : Nat) : Bool :=
  let ks := s.gangOf k
  let at0 (b : Agent) : Bool := b != a && optB (s.win b) fun w => w.ops.any fun e =>
    match e.2, w.slots[e.1]?, s.fieldsAt b w.baddr e.1 with
    | .begun _ _, some sl, some (op, _) => (op = 0xD4 || op = 0xD8 || op = 0xD9) && optB (keyOfHandle (word (sl.tok .l).w64)) fun h => ks.contains h
    | _, _, _ => false
  optB (s.regions.find k) (fun r => optB r.opBy at0) || optB (s.recOf k) fun r => r.acc.isSome

/-- An operation that waits has begun on its region's gang (R361). -/
def State.holdOp (s : State) (a : Agent) (i k : Nat) : State :=
  let s := (s.gangOf k).foldl (fun s k => s.modRegion k fun r => { r with opBy := some a }) s
  s.modWin a fun w => if (w.ops.find i).isSome then w else { w with ops := w.ops.put i (.begun 0 5) }

/-- An operation on the region that a handle names: BUSY while another one is under way there (R361, R363). -/
def State.onRegion (s : State) (a : Agent) (i : Nat) (h : Word) (go : State → CommitRes) : CommitRes :=
  match keyOfHandle h with
  | none => go s
  | some k =>
    if s.opUnderWay a k then .status s stBusy 0
    else match go s with
      | .wait s => .wait (s.holdOp a i k)
      | r => r

/-- The regions of a gang with the banks of both charts written back, where a home in another package has still to answer: they end
only then (R67). -/
def State.abortWaits (s : State) (ks : List Nat) : Option State :=
  let all := ks ++ ks.filterMap fun k => (s.regions.find k).bind (·.succ)
  let t := all.foldl State.writeBackRegion s
  if all.any t.regionBackDue then some t else none

/-- ABORT at commit. -/
def State.commitAbort (s : State) (h : Word) : CommitRes :=
  match s.regionAt h with
  | none => .status s stNoRegion 0
  | some (k, r) =>
    if r.busy then .status s stBusy 0
    else if r.st == .active || r.st == .gating || r.st == .loaded || r.st == .saved then
      (match s.abortWaits (s.gangOf k) with
       | some s => .wait s
       | none => .status (s.abortGang (s.gangOf k)) stDone 0)
    else .status s stState 0

/-! ## RESUME (R395, R396) -/

/-- RESUME at commit. -/
def State.commitResume (s : State) (h : Word) : CommitRes :=
  match s.regionAt h with
  | none => .status s stNoRegion 0
  | some (k, r) =>
    if r.frozen && (r.st == .active || r.st == .gating) then .status ((s.resumeRegion k).traceEvent k 4 0) stDone 0
    else .status s stState 0

/-! ## PREEMPT (R395, R399, R406) -/

/-- PREEMPT at commit: gating begins; the status comes once the save form is settled. -/
def State.commitPreempt (s : State) (a : Agent) (i : Nat) (h : Word) : CommitRes :=
  match s.regionAt h with
  | none => .status s stNoRegion 0
  | some (k, r) =>
    let begun := match s.win a with
      | some w => (match w.ops.find i with | some (.begun _ 2) => true | _ => false)
      | none => false
    let ks := s.gangOf k
    if begun then (if r.busy then .wait s else if r.st == .gating then .status s stDone 0 else .status s stState 0)
    else if r.busy then .status s stBusy 0
    else if !(ks.all fun k => match s.regions.find k with | some r => r.st == .active && !r.frozen && !r.dh | none => false) then
      .status s stState 0
    else if ks.any fun k => (match s.regions.find k with | some r => r.succ.isSome | none => false) && !s.inputsSpliced k then
      .status s stBusy 0
    else .wait ((s.startGate ks false).modWin a fun w => { w with ops := w.ops.put i (.begun 0 2) })

/-! ## The save area (R403) -/

/-- Bytes of one rectangle of a save area. -/
def rectBytes (r : Region) : Nat := 65536 * (1 + 9 * r.w * r.h)

/-- CTX CSR `i` of a task context (R170, R184-R186, R226, R227). -/
def TaskCtx.csr (t : TaskCtx) (i : Nat) : Word :=
  match i with
  | 0 => word t.rmode
  | 1 => word t.fflags
  | 2 => word t.color
  | 3 => word (t.gen * 2 ^ 32 + t.seed)
  | 4 => word t.shapeb
  | 5 => t.spill
  | 6 => word (t.depth * 2 ^ 16 + t.spilled)
  | _ => word t.fired

/-- The words of a rectangle's header (R403). -/
def State.saveWord0 (r : Region) (nrect : Nat) : Word :=
  word (0xC5AF * 2 ^ 48 + bit r.full * 2 ^ 47 + (nrect - 1) * 2 ^ 40 + (r.w - 1) * 2 ^ 36 + (r.h - 1) * 2 ^ 32 + r.cfg.asid)

/-- The bytes of a rectangle's header part; what the spec gives no layout for is free (log entry 13). -/
def State.headBytes (s : State) (r : Region) (nrect : Nat) : List Byte :=
  let ws (l : List Word) : List Byte := l.flatMap fun w => leBytes w.toNat 8
  ws [State.saveWord0 r nrect, r.chart, word (r.cfg.keyid + r.level * 256)] ++ freeBytes 30 s.free 104
  ++ ws (s.mailWords r) ++ ws ((s.counters r false).map word) ++ ws ((List.range 16).map fun i => word (r.prev.getD i 0))
  ++ freeBytes 30 (s.free + 104) 65024

/-- The 8 KiB of a task context. -/
def taskBytes (t : TaskCtx) (place : Nat) : List Byte :=
  (List.range 128).flatMap (fun i => leBytes (t.getP i).toNat 8) ++ (List.range 8).flatMap (fun j => leBytes (t.getV j).toNat 256)
  ++ (List.range 8).flatMap (fun i => leBytes (t.csr i).toNat 8) ++ freeBytes 30 place 5056

/-- The bytes of a cell's part: eight task contexts, the matrix unit's 64 KiB, six tiles, whosever they are, and for a full save the 64 KiB of pairs. -/
def State.cellBytes (s : State) (key n : Nat) (full : Bool) : List Byte :=
  let c := s.cell key
  (List.range 8).flatMap (fun i => taskBytes (c.task i) s.free)
  ++ freeBytes 30 s.free 65536
  ++ (List.range 6).flatMap (fun i => memRead (c.tile i).mem 0 65536)
  ++ (if full then s.pairBytes { key := key, cctx := n, task := 0, own := true } else [])

/-- The parts of a region's save area as ranges: offset in the area and bytes. -/
def State.areaOf (s : State) (k base nrect : Nat) : List (Nat × List Byte) :=
  match s.regions.find k with
  | none => []
  | some r =>
    (base, s.headBytes r nrect) :: r.keys.filterMap fun key =>
      (s.cctxOn key k).map fun n =>
        let x := key % 16 - r.col0
        let y := ((s.die (key / 256)).logRow (key % 256 / 16)).getD 0 - r.row0
        (base + 65536 * (1 + 9 * (y * r.w + x)), s.cellBytes key n r.full)

/-- A gang's whole save area: the rectangles one after the other, per die ascending. -/
def State.gangArea (s : State) (ks : List Nat) : List (Nat × List Byte) :=
  (ks.foldl (fun (st : List (Nat × List Byte) × Nat) k =>
    (st.1 ++ s.areaOf k st.2 ks.length, st.2 + (match s.regions.find k with | some r => rectBytes r | none => 0))) ([], 0)).1

/-- How a region's own save area is reached: through its CFG values, by an agent of no task. -/
def State.areaVia (s : State) (k acc : Nat) : Via :=
  match s.regions.find k with
  | some r => { fetchVia (keyDie k) { r.cfg with phys := false, priv := r.rank == 7 } acc with src := srcForeign (keyDie k) }
  | none => fetchVia (keyDie k) { phys := true, asid := 0, troot := 0, dset := 0, keyid := 0, priv := false } acc

/-- The image key of the save area whose first byte lies at a physical address. -/
def areaKey (pa : Nat) : Nat := 2 ^ 60 + pa

/-- What writing a save area comes to. -/
inductive SaveRes where
  | done (s : State)
  | wait (s : State)
  | pod (s : State) (us : List AUnit)
  | full (s : State) (ln key held : Nat)
  | fail (s : State) (fclass : Nat)

/-- Write the save area of a gang (R404). -/
def State.writeArea (s : State) (ks : List Nat) (va : Nat) : SaveRes :=
  match ks.head? with
  | none => .done s
  | some k =>
    let v := s.areaVia k accWrite
    let r := s.runStores v ((s.gangArea ks).flatMap fun e => writesOf (va + e.1) e.2)
    let s := { r.s with ports := r.s.ports.drop v.port }
    match r.bad, r.full with
    | some e, _ => .fail s e.1
    | none, some (ln, key, held) => .full s ln key held
    | none, none => if !r.rest.isEmpty then .wait s else if r.us.isEmpty then .done s else .pod s r.us

/-- A saved gang leaves its cells and keeps RID and LOGNUM; its state is kept with its area (R404). A record whose own SAVE
area this is returns to its queue level (R368). -/
def State.leaveSaved (s : State) (ks : List Nat) (va : Nat) : State :=
  match ks.head? with
  | none => s
  | some k =>
    let full := match s.regions.find k with | some r => r.full | none => false
    let s := match s.lookBare (s.areaVia k accWrite).cfg accWrite va with
      | .hit pa _ => { s with images := s.images.put (areaKey pa) (s.snapOf ks full) }
      | _ => s
    let s := (s.logPointers (s.logOf k))
    let s := ks.foldl (fun s k => s.modRegion k fun r => { r with cur := s.counters r false }) s
    let s := ks.foldl (fun s k => s.leaveRegion k .saved) s
    let s := ks.foldl (fun s k => s.modRegion k fun r => { r with mail := none, latched := [], notifyWait := false, victim := false }) s
    match s.recOf k with
    | some r =>
      if rSave r.words = va && va ≠ 0 then s.modRec r.id fun r => { r with st := .ready, fromSave := true }
      else s.modRec r.id fun r => { r with st := .saved }
    | none => s

/-- A failed save: ABORTED with its state lost, and RFAULT with the fault's class (R372, R404). -/
def State.failSave (s : State) (ks : List Nat) (fclass : Nat) : State :=
  match ks.head? with
  | none => s
  | some k =>
    let w := match s.regions.find k with | some r => notifyWord k r fclass | none => 0
    (s.endAborted ks).postFor k 7 fclass w

/-- CKSAVE at commit (R395, R404). -/
def State.commitCksave (s : State) (a : Agent) (i : Nat) (h : Word) (va : Nat) : CommitRes :=
  match s.regionAt h with
  | none => .status s stNoRegion 0
  | some (k, r) =>
    let ks := s.gangOf k
    if !(r.st == .gating && r.settled) then .status s stState 0
    else
      let op := match s.win a with | some w => w.ops.find i | none => none
      match op with
      | some (.begun id 1) =>
        (match s.partsBad id with
         | some e => .status ((s.opClose a i).failSave ks e.1) stFailed e.1
         | none => if (s.partsDone id).isSome then .status ((s.opClose a i).leaveSaved ks va) stDone 0 else .wait s)
      | _ =>
        match s.writeArea ks va with
        | .done s => .status (s.leaveSaved ks va) stDone 0
        | .wait s => .wait s
        | .pod s us => .wait (s.opNeed a i [] us)
        | .full s ln key held => .wait (s.foreignFull ln key (keyDie k) held)
        | .fail s c => .status (s.failSave ks c) stFailed c

/-! ## CKREST (R405) -/

/-- A task context with what its 8 KiB hold. -/
def TaskCtx.ofBytes (t : TaskCtx) (bs : List Byte) : TaskCtx :=
  let num (o n : Nat) : Nat := leNat ((bs.drop o).take n)
  let csr (i : Nat) : Word := word (num (3072 + 8 * i) 8)
  let t := (List.range 128).foldl (fun t i => t.setP i (word (num (8 * i) 8))) t
  let t := (List.range 8).foldl (fun t j => t.setV j (BitVec.ofNat 2048 (num (1024 + 256 * j) 256))) t
  { t with rmode := field (csr 0) 2 0, fflags := field (csr 1) 5 0, color := field (csr 2) 5 0, gen := field (csr 3) 63 32
           seed := field (csr 3) 31 0, shapeb := field (csr 4) 7 0, spill := csr 5 &&& 0xFFF3FF, depth := field (csr 6) 25 16
           spilled := field (csr 6) 9 0, fired := (csr 7).toNat }

/-- A cell with what its part of an area holds: its task contexts and its tiles. -/
def Cell.ofBytes (c : Cell) (n k : Nat) (bs : List Byte) : Cell :=
  { c with
    tasks := c.tasks.map fun (e : Nat × TaskCtx) =>
      if e.2.cctx = n && e.2.st != .unbound then (e.1, e.2.ofBytes ((bs.drop (8192 * e.1)).take 8192)) else e
    tiles := c.tiles.map fun (e : Nat × Tile) =>
      if e.2.owner = some k && e.2.role ≠ 3 then (e.1, { e.2 with mem := memWrite [] 0 ((bs.drop (131072 + 65536 * e.1)).take 65536) }) else e }

/-- A region with what its header holds: throttle level, time account, mailbox (R401, R403). -/
def Region.ofBytes (r : Region) (now : Nat) (old : Option Region) (bs : List Byte) : Region :=
  let ws := wordsOfBytes (bs.take 512)
  let cur := (List.range 16).map fun i => (pw ws (32 + i)).toNat
  let prev := (List.range 16).map fun i => (pw ws (48 + i)).toNat
  let mail := (recordOfWords (ws.drop 16)).map fun f => { f with acc := old.bind fun o => o.mail.bind (·.acc) }
  let cyc := match old with | some o => o.gateStart - o.activated - o.savedCyc | none => cur.getD 2 0 + cur.getD 3 0
  { r with level := min 4 (field (pw ws 2) 11 8), cur := cur, prev := prev, energy := cur.getD 5 0 * 10 ^ 9, mail := mail
           mailRst := mail.isSome, notifyWait := mail.isSome, mailAt := now, fseq := if mail.isSome then field (pw ws 17) 63 32 else (old.map (·.fseq)).getD 0
           latched := (old.map (·.latched)).getD [], activated := now - cyc, savedCyc := 0
           lastIn := match old with | some o => now - cyc + (o.lastIn - o.activated - o.savedCyc) | none => now
           fillDone := match old with | some o => o.fillDone | none => none
           fillCells := match old with | some o => if o.fillDone.isSome then [] else r.fillCells | none => r.fillCells
           everFired := match old with | some o => o.everFired | none => r.everFired }

/-- What restoring comes to. -/
inductive RestRes where
  | done (s : State)
  | wait (s : State)
  | need (s : State) (us : List AUnit)
  | refuse (s : State) (code addr detail : Nat)

/-- The ranges of a save area that a form fills: offset and length. -/
def State.restRanges (s : State) (ks : List Nat) (full : Bool) : List (Nat × Nat) :=
  (ks.foldl (fun (st : List (Nat × Nat) × Nat) k =>
    match s.regions.find k with
    | none => st
    | some r =>
      (st.1 ++ (st.2, 65536) :: (List.range (r.w * r.h)).map (fun c => (st.2 + 65536 * (1 + 9 * c), if full then 589824 else 524288)),
       st.2 + rectBytes r)) ([], 0)).1

/-- Does a rectangle's header name the loaded region (R405)? -/
def headerFits (r : Region) (nrect : Nat) (bs : List Byte) : Bool :=
  let ws := wordsOfBytes (bs.take 16)
  field (pw ws 0) 45 40 + 1 == nrect && field (pw ws 0) 39 36 + 1 == r.w && field (pw ws 0) 35 32 + 1 == r.h && pw ws 1 == r.chart

/-- Why the headers of the rectangles of an area are not those of the regions to restore: the first that differs speaks (R405). -/
def State.headersBad (s : State) (ks : List Nat) (parts : List (Nat × List Byte)) : Option Nat :=
  (ks.foldl (fun (st : Nat × Option Nat) k =>
    match s.regions.find k with
    | none => st
    | some r =>
      let hd := match parts.find? fun e => e.1 == st.1 with | some e => e.2 | none => []
      (st.1 + rectBytes r, st.2.or (if field (pw (wordsOfBytes (hd.take 16)) 0) 63 48 ≠ 0xC5AF then some lsChartfmt
        else if headerFits r ks.length hd then none else some lsRectsize))) (0, none)).2

/-- Give back its log to a region that returns: the number it was saved with, if that log is active (R136, R404, R405). -/
def State.adoptLog (s : State) (ks : List Nat) (old : Nat) : State :=
  match s.logs.find old with
  | none => s
  | some _ =>
    let mine := match ks.head? with | some k => s.logOf k | none => 0
    if mine = old || old = 0 || mine = 0 then s
    else
      let w := match s.regions.find? fun e => field e.2.ulog 63 56 = old && !ks.contains e.1 with | some e => e.2.ulog | none => 0
      let s := s.closeLog mine
      let give (e : Nat × Region) : Nat × Region :=
        if ks.contains e.1 then (e.1, { e.2 with ulog := w }) else if field e.2.ulog 63 56 = old then (e.1, { e.2 with ulog := e.2.ulog &&& 0xC0000000000000 }) else e
      let s := { s with regions := s.regions.map give }
      let s := s.modLog old fun l => { l with regions := ks }
      ks.foldl (fun s k => match s.regions.find k with
        | none => s
        | some r => r.keys.foldl (fun s key => match s.cctxOn key k with
            | some n => s.modCell key fun c => c.modCctx n fun x => { x with ulog := w }
            | none => s) s) s

/-- The slices of a log read their pointers back from its pointer blocks (R135); equal ones are an empty or a full ring, as the
count kept beside them says. -/
def State.readPointers (s : State) (ln : Nat) : State :=
  s.modLog ln fun l => { l with subs := l.subs.map fun e =>
    let a := field (s.logDie ln (e.1 / 64) 0) 51 16 * 65536 + 16 * (e.1 % 64)
    let cap := max 1 e.2.cap
    let head := s.natAs l.key a 4 % cap
    let tail := s.natAs l.key (a + 4) 4 % cap
    let count := if head = tail then (if e.2.count = 0 then 0 else e.2.cap) else (tail + cap - head) % cap
    (e.1, { e.2 with head := head, tail := tail, replayEnd := s.natAs l.key (a + 8) 4 % cap, count := count }) }

/-- A fault record of a saved region names the cell and context where its task stands now. -/
def State.movedRecord (s : State) (mp : List (Nat × Nat)) (k : Nat) (f : FaultRec) : FaultRec :=
  match mp.find? (·.1 == cellKey f.die f.pcell) with
  | some e => f.move (fun _ => e.2) ((s.cctxOn e.2 k).getD f.cctx)
  | none => f

/-- The restored state in place of fresh state: the kept rest first, then the bytes of the area. -/
def State.putArea (s : State) (ks : List Nat) (sn : Option Snap) (parts : List (Nat × List Byte)) : State :=
  let mp := match sn with | some sn => s.moveMap sn ks | none => []
  let s := match sn with | some sn => s.putSnap ks sn | none => s
  (ks.foldl (fun (st : State × Nat × Nat) k =>
    match st.1.regions.find k with
    | none => st
    | some r =>
      let s := st.1
      let base := st.2.1
      let get (o : Nat) : List Byte := match parts.find? fun e => e.1 == o with | some e => e.2 | none => []
      let old := match sn with | some sn => sn.regions[st.2.2]? | none => none
      let s := s.modRegion k fun r =>
        let r := r.ofBytes s.cycle old (get base)
        { r with mail := r.mail.map (s.movedRecord mp k), latched := r.latched.map (s.movedRecord mp k) }
      let s := r.keys.foldl (fun s key => match s.cctxOn key k with
        | some n =>
          let x := key % 16 - r.col0
          let y := ((s.die (key / 256)).logRow (key % 256 / 16)).getD 0 - r.row0
          let bs := get (base + 65536 * (1 + 9 * (y * r.w + x)))
          let s := s.modCell key fun c => c.ofBytes n k bs
          if bs.length ≤ pairBase then s
          else s.putPairs { key := key, cctx := n, task := 0, own := true } (pairsOfBytes pairRoom (bs.drop pairBase))
        | none => s) s
      (s.traceEvent k 6 0, base + rectBytes r, st.2.2 + 1)) (s, 0, 0)).1

/-- Read the ranges of an area one after the other. -/
def State.readRanges (s : State) (v : Via) (got : List AUnit) (va : Nat) : List (Nat × Nat) → Bytes
  | [] => .ok s []
  | (o, n) :: r =>
    match s.readBytes v got (wordParts (va + o) n) with
    | .ok s bs =>
      (match State.readRanges s v got va r with
       | .ok s cs => .ok s (bs ++ cs)
       | e => e)
    | .need s us =>
      (match State.readRanges s v got va r with
       | .ok s _ => .need s us
       | .need s vs => .need s (us ++ vs)
       | e => e)
    | e => e

/-- Cut bytes back into the ranges they came from. -/
def cutRanges : List (Nat × Nat) → List Byte → List (Nat × List Byte)
  | [], _ => []
  | (o, n) :: r, bs => (o, bs.take n) :: cutRanges r (bs.drop n)

/-- Restored tasks that wait at a WAYPT wait for it in their log again, under its gate (R136, R405). -/
def State.rejoin (s : State) (ln : Nat) (ks : List Nat) : State :=
  let w := ks.flatMap s.wayTasks
  if w.isEmpty then s
  else ks.foldl (fun s k => s.modRegion k fun r => { r with gate := true, gateStart := s.cycle }) (s.modLog ln fun l => { l with wayWait := w })

/-- Restore LOADED regions from a save area (R405): the area read and judged, then phase 2 with the restored state. -/
def State.restore (s : State) (ks : List Nat) (va : Nat) (got : List AUnit) : RestRes :=
  match ks.head? with
  | none => .done s
  | some k =>
    let v := s.areaVia k accRead
    let read (s : State) (rs : List (Nat × Nat)) : Bytes :=
      match s.readRanges v got va rs with
      | .ok s bs => .ok { s with ports := s.ports.drop v.port } bs
      | .need s us => .need { s with ports := s.ports.drop v.port } us
      | .wait s => .wait { s with ports := s.ports.drop v.port }
      | .bad s c d b => .bad s c d b
    match read s [(0, 16)] with
    | .wait s => .wait s
    | .need s us => .need s us
    | .bad _ c d b => .refuse s (fetchCode c d) b d
    | .ok s hd =>
      let w0 := pw (wordsOfBytes hd) 0
      if field w0 63 48 ≠ 0xC5AF then .refuse s lsChartfmt 0 0
      else if !(match s.regions.find k with | some r => headerFits r ks.length hd | none => false) then .refuse s lsRectsize 0 0
      else
        let rs := s.restRanges ks (flag w0 47)
        match read s rs with
        | .wait s => .wait s
        | .need s us => .need s us
        | .bad _ c d b => .refuse s (fetchCode c d) b d
        | .ok s bs =>
          match s.headersBad ks (cutRanges rs bs) with
          | some c => .refuse s c 0 0
          | none =>
          if !((cutRanges rs bs).all fun e => (pairsOfBytes pairRoom (e.2.drop pairBase)).all fun x => knownPair x.1) then .refuse s lsChartfmt 0 0
          else
          match s.pinGang ks with
          | .error e => .refuse s e.1 e.2.1 e.2.2
          | .ok pins =>
            let sn := match s.lookBare v.cfg accRead va with | .hit pa _ => s.images.find (areaKey pa) | _ => none
            let s := match sn with
              | some sn => (match sn.regions.head? with
                | some r => (s.adoptLog ks (field r.ulog 63 56)).readPointers (field r.ulog 63 56)
                | none => s)
              | none => s
            .done (((s.activate ks pins true).putArea ks sn (cutRanges rs bs)).rejoin (s.logOf k) ks)

/-- CKREST at commit (R395, R405). -/
def State.commitCkrest (s : State) (a : Agent) (i : Nat) (h : Word) (va : Nat) : CommitRes :=
  match s.regionAt h with
  | none => .status s stNoRegion 0
  | some (k, r) =>
    if r.busy then .status s stBusy 0
    else if r.st != .loaded then .status s stState 0
    else
      match s.opGot a i with
      | none => .wait s
      | some us =>
        match s.restore (s.gangOf k) va us with
        | .done s => .status (s.opClose a i) stDone 0
        | .wait s => .wait s
        | .need s new => .wait (s.opNeed a i us new)
        | .refuse s c _ d => .status ((s.opClose a i).noteFetch r.lrec d) stRefused c

end Sys2Proof.Machine
end

