-- ==== Sys2Proof/Machine/Sched.lean ====
section
/-! DEFINITION. The schedulers (R368-R384): conditions, admission, gangs, loads, CHLOAD and CHACT, completion, energy windows,
splice switch-overs (R171, R172, R407), and the waypoints of gated contexts (R136). -/

namespace Sys2Proof.Machine

/-! ## Conditions (R369) -/

/-- A record needs no answer of another package any more. -/
def State.recClose (s : State) (id : Nat) : State :=
  match (s.rec? id).bind (·.acc) with
  | some x => (s.dropAcc x).modRec id fun r => { r with acc := none }
  | none => s

/-- CONDITION_SATISFIED (R369): the word at a condition's address is read with the launcher's CFG values; the last condition
to hold makes the record READY. An acquire at pkg (R128). A word on an ONCE page takes no SEMW (R328): CONDFAULT. -/
def execConditionSatisfied (id cond : Nat) (s : State) : Host.Outcome State Fault Refusal :=
  match s.rec? id with
  | none => .next s
  | some r =>
    let v := fetchVia (min 64 r.qdie) r.cfg accRead
    let once : Bool := match (s.elemLook v (rCva r.words cond)).1 with | .hit _ attr => attr.kind = 1 | _ => false
    if r.st != .waiting || rNcond r.words ≤ cond || r.held.contains cond then .next s
    else if once then .next (((s.recClose id).noteFetch id (memDetail accRead 2)).refuseRec id lsCondfault (regionKey r.homeDie 0) none)
    else
      match s.fetchBytes id v (rCva r.words cond) 8 with
      | .wait s => .next s
      | .bad _ _ d => .next (((s.recClose id).noteFetch id d).refuseRec id lsCondfault (regionKey r.homeDie 0) none)
      | .ok s bs =>
        let s := s.recClose id
        if (word (leNat bs)).toInt < rCval r.words cond then .next s
        else
          let held := cond :: r.held
          let s := s.modRec id fun r => { r with held := held, st := if rNcond r.words ≤ held.length then .ready else .waiting }
          .next (if r.qdie < 64 then s.advanceGen r.qdie else s)

/-! ## Admission (R370-R374) -/

/-- Has a gang's record been granted a place on a die? -/
def LRec.grantedOn (r : LRec) (d : Nat) : Bool := r.granted.any fun g => g / 256 = d

/-- Does a record stand in a scheduler's level: READY in its queues, or a gang's request of this die (R370, R373)? -/
def State.inLevel (s : State) (d p : Nat) (r : LRec) : Bool :=
  rPrio r.words = p &&
  ((r.qdie = d && r.st == .ready) || (d < 64 && r.st == .reserved && (s.die d).request = some r.id && !r.grantedOn d))

/-- The chart of a record as a test of placement sees it (R371): none while it has not arrived; where it cannot be read there is no clash
to judge, and the load says why. -/
def State.chartFor (s : State) (d : Nat) (r : LRec) : Option (Option Chart) :=
  if !rShare r.words then some none
  else match s.fetchChart { r with granted := [256 * d] } with | .ok _ c => some (some c) | .wait _ => none | .bad _ _ _ => some none

/-- Does a record fit (R370, R373)? For a die: its place; for the package scheduler the budget alone. -/
def State.fits (s : State) (d : Nat) (r : LRec) : Option Nat :=
  if d = 64 then (if s.committed + rErate r.words * (rDies r.words).length ≤ s.budget then some 0 else none)
  else if s.budget < s.committed + rErate r.words then none
  else (s.chartFor d r).bind fun c => s.placeOn d r ((rDies r.words).filter (· < d)).length c

/-- Admit a record at a place. -/
def State.takeRecord (s : State) (d : Nat) (r : LRec) (o : Nat) : State :=
  s.modRec r.id fun x =>
    if d = 64 then { x with st := .reserved, granted := [], admitted := s.cycle }
    else if x.st == .reserved then { x with granted := x.granted ++ [o] }
    else { x with st := .loading, granted := [o], admitted := s.cycle }

/-- GANG_RESERVATION (R373): the package scheduler asks a die for its gang once every lower die has granted, or receives the
die's grant; with the last one the gang loads. -/
def execGangReservation (die : Nat) (s : State) : Host.Outcome State Fault Refusal :=
  if !s.hostReady then .next s else
  match (s.die die).request with
  | some id =>
    (match s.rec? id with
     | some r =>
       if r.st != .reserved then .next (s.modDie die fun d => { d with request := none })
       else if r.grantedOn die then
         let s := s.modDie die fun d => { d with request := none }
         .next (if r.granted.length = (rDies r.words).length then s.modRec id fun r => { r with st := .loading } else s)
       else .next s
     | none => .next (s.modDie die fun d => { d with request := none }))
  | none =>
    match s.recs.find? fun r => r.qdie = 64 && r.st == .reserved && (rDies r.words)[r.granted.length]? = some die with
    | some r =>
      if s.dies.any fun e => e.2.request = some r.id then .next s
      else .next (s.modDie die fun d => { d with request := some r.id })
    | none => .next s

/-! ## Loads (R375-R377) -/

/-- A load is refused: the record with it, the failing address posted for FETCH and LOADUE (R375, R379); the detail of R42
stays with the record. -/
def State.refuseLoad (s : State) (r : LRec) (code addr detail : Nat) : State :=
  let s := s.noteFetch r.id detail
  let pay := if code = lsFetch || code = lsLoadue then some addr else none
  match r.pred, r.granted with
  | some k, _ => s.refuseRec r.id code k pay
  | none, g :: _ =>
    let d := g / 256
    let rid := s.nextRidOf d
    (s.modDie d fun x => { x with nextRid := rid % 0xEFFF + 1 }).refuseRec r.id code (regionKey d rid) pay
  | none, [] => s.refuseRec r.id code (regionKey r.homeDie 0) pay

/-- A record that returns from SAVED is refused: its regions end with it, and the event names the RID that they keep (R379). -/
def State.refuseSaved (s : State) (r : LRec) (ks : List Nat) (code addr detail : Nat) : State :=
  ((s.endGang ks .refused).noteFetch r.id detail).refuseRec r.id code (ks.headD 0)
    (if code = lsFetch || code = lsLoadue then some addr else none)

/-- A record that returns from SAVED: phase 1 into the same regions, then its restore from SAVE (R368, R402). -/
def State.loadSaved (s : State) (r : LRec) : State :=
  let ks := r.regions
  match ks.head?.bind s.regions.find with
  | none => s
  | some g =>
    if g.st == .saved then
      match s.phase1 r ks (some g.ulog) with
      | .ok s _ => s
      | .wait s => s
      | .refuse s c a d => s.refuseSaved r ks c a d
    else if g.st != .loaded then s
    else
      let got : Option (List AUnit) := match r.acc with | some x => s.partsDone x | none => some []
      match got with
      | none => s
      | some us =>
        match s.restore ks (rSave r.words) us with
        | .done s => (s.recClose r.id).modRec r.id fun r => { r with fromSave := false }
        | .wait s => s
        | .need s new =>
          let s := s.recClose r.id
          (s.modRec r.id fun r => { r with acc := some s.nextAcc }).openParts noAgent (us ++ new)
        | .refuse s c a d => (s.recClose r.id).refuseSaved r ks c a d

/-- LOAD_COMMIT (R375): phase 1 of an admitted record, and the commit of its activation in the same step; for a splice phase 1
alone (R377); for a record that returns from SAVED phase 1, then its restore. -/
def execLoadCommit (id : Nat) (s : State) : Host.Outcome State Fault Refusal :=
  match s.rec? id with
  | none => .next s
  | some r =>
    if r.st != .loading || 64 < r.qdie then .next s
    else if r.fromSave then .next (s.loadSaved r)
    else
      let keys := match r.pred with | some k => [k + 2 ^ 23] | none => []
      match s.phase1 r keys none with
      | .wait s => .next s
      | .refuse s c a d => .next (s.refuseLoad r c a d)
      | .ok s ks =>
        if r.pred.isSome then .next (s.modRec id fun r => { r with st := .loaded })
        else
          match s.pinGang ks with
          | .ok pins => .next (s.activate ks pins false)
          | .error e => .next ((s.endGang ks .refused).refuseLoad r e.1 e.2.1 e.2.2)

/-- The load of a region that is not yet committed is refused for its blocks (R228): its gang ends and its record with it; a
predecessor goes on. -/
def State.refuseBlocks (s : State) (k : Nat) (w : Word × Word) : State :=
  match s.regions.find k with
  | none => s
  | some r =>
    if r.st != .loaded then s
    else
      let ks := s.gangOf k
      let s := (s.endGang ks .refused).modRec r.lrec fun x => { x with report := [w.1, w.2] }
      let s := s.regions.foldl (fun (s : State) e =>
        if optB e.2.succ ks.contains then s.modRegion e.1 fun x => { x with succ := none } else s) s
      s.refuseRec r.lrec lsBlockrej k none

/-- A helm-core fill (R228): a helm core writes blocks into a context of a cell that a load has reserved and not yet activated.
The blocks are checked as they enter; a rejection writes nothing, returns to the helm core and refuses the load. No row of the
opcode table and no rule gives the operation that fills, so it arrives as a happening; where a task descriptor would name no
block start any more, nothing is written (DESIGN CHOICE, log entry 117). -/
def State.helmFill (s : State) (core cell cctx : Nat) (blocks : List Word) : State :=
  match (s.cell cell).cctxs.find cctx with
  | none => s
  | some x =>
    if x.st != .loaded || !(s.helm core).ready || 8192 < blocks.length then s
    else
      let env : CheckEnv := { priv := true, helm := true, core := false, rings := ringSizes x.tiles
                              badPorts := (s.die (cell / 256)).lostPorts }
      match checkImage env blocks (8 * blocks.length) with
      | some j =>
        let w := j.report (cell / 256) (cell % 256) cctx
        (s.modHelm core fun h => { h with rejection := some w }).refuseBlocks x.region w
      | none =>
        if x.tdescs.any (badTaskDesc (blockStarts blocks)) then s
        else s.modCell cell fun c =>
          { c with cctxs := c.cctxs.put cctx { x with blocks := blocks, usesMat := claimsMatrix blocks } }

/-- CHLOAD's record finds its place (R371, R376): its chart is asked for first where it may share cells. -/
def State.placeChload (s : State) (r : LRec) (k : Nat) : Except CommitRes (State × LRec) :=
  if !r.granted.isEmpty then .ok (s, r)
  else
    let d := keyDie k
    match s.chartFor d r with
    | none => .error (match s.fetchChart { r with granted := [256 * d] } with | .wait s => .wait s | _ => .wait s)
    | some c =>
      match s.placeOn d r 0 c with
      | none => .error (.status (s.modRec r.id fun r => { r with st := .refused }) stRefused lsNoplace)
      | some o => .ok (s.modRec r.id fun r => { r with granted := [o] }, { r with granted := [o] })

/-- CHLOAD goes on with its record: phase 1 into the region of the handle. The failing address of FETCH and LOADUE is posted (R375,
R396). -/
def State.goChload (s : State) (r : LRec) (k : Nat) : CommitRes :=
  match s.placeChload r k with
  | .error e => e
  | .ok (s, r) =>
  match s.phase1 r [k] none with
  | .wait s => .wait s
  | .refuse s c a d =>
    let s := s.modRec r.id fun r => { r with st := .refused, granted := [], detail := d }
    .status (if c = lsFetch || c = lsLoadue then s.post (keyDie k) (eventWord 2 c k) (word a) else s) stRefused c
  | .ok s _ => .status (s.modRec r.id fun r => { r with st := .loaded }) stDone 0

/-- CHLOAD at commit (R376): it skips queues and admission, and stops after phase 1. -/
def State.commitChload (s : State) (a : Agent) (i va : Nat) (h : Word) : CommitRes :=
  match (match s.win a with | some w => w.ops.find i | none => none), keyOfHandle h with
  | some (.begun id 2), some k => (match s.rec? id with | some r => s.goChload r k | none => .wait s)
  | _, hk =>
    match s.readJudged a i va 128 with
    | .wait s => .wait s
    | .bad s c d b => .fault s c d b
    | .ok s w =>
      match hk with
      | none => .status s stNoRegion 0
      | some k =>
        if rDies w != [keyDie k] || keyRid k < 0xF000 || 0xFFFE < keyRid k then .status s stNoRegion 0
        else if (optB (s.regions.find k) fun r => !(r.st == .done || r.st == .aborted || r.st == .refused)) then
          .status s stState 0
        else
          let c := s.captureCheck va w true
          if c ≠ 0 then .status s stRefused c
          else
            let r := { s.newRec (s.cfgFor a) w 65 (rQueue w) 0 .loading with admitted := s.cycle }
            let s := { s with recs := s.recs ++ [r], nextRec := s.nextRec + 1 }
            (s.modWin a fun w => { w with ops := w.ops.put i (.begun r.id 2) }).goChload r k

/-- CHACT at commit (R376): phase 2 of a LOADED region; a bank range refused now refuses it (R65). -/
def State.commitChact (s : State) (h : Word) : CommitRes :=
  match s.regionAt h with
  | none => .status s stNoRegion 0
  | some (k, r) =>
    if r.st != .loaded then .status s stState 0
    else
      match s.pinGang (s.gangOf k) with
      | .ok pins => .status (s.activate (s.gangOf k) pins false) stDone 0
      | .error e => .status (s.noteFetch r.lrec e.2.2) stRefused e.1

/-! ## Completion (R176, R378, R384) -/

/-- A phase of a region ends: PHASE is posted, with a payload that the spec does not give, and the counters move (R384). -/
def State.endPhase (s : State) (k : Nat) : State :=
  match s.regions.find k with
  | none => s
  | some r =>
    let cs := s.counters r true
    let s := (s.traceEvent k 7 (cs.getD 0 0)).postFor k 4 0 (Config.freeWord 32 s.free)
    { s.modRegion k (fun r => { r with prev := cs, cur := List.replicate 16 0 }) with free := s.free + 1 }

/-- Is a region complete: something fired, every task idle, no token present (R176)? -/
def State.complete (s : State) (k : Nat) : Bool :=
  match s.regions.find k with
  | some r => r.st == .active && r.succ.isNone && r.everFired && s.allIdle k && !s.tokensPresent k
  | none => false

/-- What the add of a completion semaphore comes to. -/
inductive AddRes where
  | done (s : State)
  | wait (s : State)

/-- The add of DONEADD to the word at DONE, with the launcher's CFG values (R378): nothing is added where the word cannot
be reached. An ONCE word takes no RMW. -/
def State.doneAdd (s : State) (r : LRec) (d : Nat) : AddRes :=
  let va := rDone r.words
  let v := { fetchVia d r.cfg accRmw with src := srcForeign d }
  let once := match (s.elemLook v va).1 with | .hit _ attr => attr.kind = 1 | _ => false
  if va = 0 || once then .done s
  else
    match r.acc with
    | some id => if (s.partsDone id).isSome then .done (s.recClose r.id) else .wait s
    | none =>
      let pod (s : State) (p : Nat) (us : List AUnit) : AddRes :=
        if 32 ≤ p then .done s
        else
          let us := us.map fun u => { u with val := rDoneadd r.words }
          .wait (((s.modRec r.id fun r => { r with acc := some s.nextAcc }).openParts noAgent us).modAcc
            s.nextAcc fun x => { x with op := 0x87 })
      match s.readGlobal v .no [(va, 8)] with
      | .ok s x =>
        (match s.writeGlobal v false ((x + rDoneadd r.words) % 2 ^ 64) [(va, 8)] with
         | .ok s _ => .done { s with ports := s.ports.drop v.port }
         | .wait s => .wait s
         | .bad _ _ _ _ | .claim _ _ _ => .done s
         | .full ln key held => .wait (s.foreignFull ln key d held)
         | .diverge ln => .wait (s.diverged ln)
         | .hold s _ _ _ => .wait s
         | .pod p us => pod s p us)
      | .wait s | .hold s _ _ _ => .wait s
      | .bad _ _ _ _ | .claim _ _ _ => .done s
      | .full _ _ _ => .wait s
      | .diverge ln => .wait (s.diverged ln)
      | .pod p us => pod s p us

/-- The time accounts of a complete gang freeze, if they have not yet (R378). -/
def State.closeAccounts (s : State) (ks : List Nat) : State :=
  ks.foldl (fun s k => s.modRegion k fun r => { r with closedAt := some (r.closedAt.getD s.cycle) }) s

/-- REGION_COMPLETE (R67, R378): banks written back, the account frozen, the semaphore's add, everything released, DONE posted. -/
def execRegionComplete (region : Nat) (s : State) : Host.Outcome State Fault Refusal :=
  let ks := s.gangOf region
  if !ks.all s.complete then .next s
  else
    match s.unclaimed region with
    | some ln => .next (s.diverged ln)
    | none =>
    match ks.head?, s.recOf region with
    | some k, some r =>
      let s := ks.foldl State.writeBackRegion s
      if ks.any s.regionBackDue then .next s
      else
      (match s.doneAdd r (keyDie k) with
       | .wait s => .next (s.closeAccounts ks)
       | .done s =>
         let s := ks.foldl State.endPhase s
         let lid := s.lidOf k
         .next ((s.endGang ks .done).postFor k 1 0 lid))
    | _, _ => .next ((ks.foldl State.endPhase (ks.foldl State.writeBackRegion s)).endGang ks .done)

/-! ## Energy (R382) -/

/-- Cycles of an energy window. -/
def windowCycles : Nat := 2250000

/-- ENERGY_WINDOW (R382): at the end of a window the level rises or falls by one, and THROTTLE is posted when it does. -/
def execEnergyWindow (region : Nat) (s : State) : Host.Outcome State Fault Refusal :=
  match s.regions.find region with
  | none => .next s
  | some r =>
    if !(r.st == .active || r.st == .gating) || s.cycle < r.windowAt + windowCycles then .next s
    else
      let level := if r.erate * 10 ^ 9 < r.windowE then min 4 (r.level + 1) else if 2 * r.windowE ≤ r.erate * 10 ^ 9 then r.level - 1 else r.level
      let s := s.modRegion region fun r => { r with level := level, windowE := 0, windowAt := r.windowAt + windowCycles }
      .next (if level = r.level then s else s.postFor region 5 0 (word level))

/-! ## Splice switch-over (R57, R65, R171, R172, R407) -/

/-- Does a neighbour's context drive a circuit towards a cell through one of its ports? -/
def CfgCtx.drives (x : CfgCtx) (port circ : Nat) : Bool :=
  x.routes.any fun e => ((rOutA e).testBit port && rCid e = circ) || (rOpk e = 1 && (rOutB e).testBit port && rFalse e = circ)

/-- Can no task of a predecessor's region issue a further stream command: in every cell that has not switched its tasks are idle and
no token of it is left? -/
def State.fedOver (s : State) (k : Nat) : Bool :=
  s.allIdle k && (match s.regions.find k with
    | some r => r.keys.all fun key => match s.cctxOn key k with | some n => !s.cellBusy key n | none => true
    | none => true)

/-- Has an input circuit of a predecessor's context delivered the splice token? A circuit that a memory port feeds has when no
read command of the region is left for it and none can follow (DEDUCED, log entry 106); one that nothing of the region feeds has none to deliver. -/
def State.splicedIn (s : State) (key n k lk : Nat) : Bool :=
  let port := lk / 64
  let circ := lk % 64
  if 4 ≤ port then true
  else if ((s.cell key).cctx n).splices.contains lk then true
  else
    match s.beyond (key / 256) (key % 256) port with
    | .nothing => true
    | .port m =>
      let p := s.port (64 * (key / 256) + m)
      s.fedOver k && !(p.cmds ++ p.waiting).any fun c => c.region = k && !c.write && !c.isBar && c.circ = circ
    | .cell q =>
      let qk := cellKey (key / 256) q
      match s.cctxOn qk k with
      | some j => !((s.cell qk).cctx j).drives ((port + 2) % 4) circ
      | none => true

/-- Is a predecessor's context of a cell ready to switch over (R171, R172)? -/
def State.mayCross (s : State) (key n k : Nat) : Bool :=
  let c := s.cell key
  let x := c.cctx n
  x.routes.all (fun e => (List.range (rInputs e)).all fun i => s.splicedIn key n k (rIn e i))
  && c.tasks.all (fun e => e.2.cctx ≠ n || e.2.st == .idle || e.2.st == .unbound)
  && !c.latch.any (fun e => e.2.any fun t => c.latched n e.1 t)
  && !c.inbox.any (fun e => e.2.any fun y => c.colourIn n y.tok.color)
  && !s.accs.any (fun y => !y.agent.isHelm && s.regionOf y.agent = k && (match y.agent with
      | .task d p _ => cellKey d p = key
      | .helm _ => false))
  && !s.ports.any fun e => (e.2.cmds ++ e.2.waiting).any fun c => c.region = k && c.cell = key

/-- A splice token of a colour. -/
def spliceToken (col : Nat) : Token := { kind := .splice, stop := 0, color := col, payload := 0 }

/-- Has every output circuit of a context room for the splice token? -/
def State.crossRoom (s : State) (key n : Nat) : Bool :=
  ((s.cell key).cctx n).routes.all fun e =>
    s.outRoom (key / 256) (key % 256) (rOutA e % 16) (rCid e) (spliceToken 0)
      && (rOpk e ≠ 1 || s.outRoom (key / 256) (key % 256) (rOutB e % 16) (rFalse e) (spliceToken 0))

/-- The colour of a splice token on a mesh port: one that the next cell maps to the predecessor, else the context's first. -/
def State.spliceColour (s : State) (key n k port : Nat) : Nat :=
  let own := ((s.cell key).cctx n).colours.headD 0
  match s.beyond (key / 256) (key % 256) port with
  | .cell q => let qk := cellKey (key / 256) q
    (match s.cctxOn qk k with | some j => ((s.cell qk).cctx j).colours.headD own | none => own)
  | _ => own

/-- The splice token on each output circuit of a predecessor's context. -/
def State.sendSplices (s : State) (key n k : Nat) : State :=
  let out (s : State) (mask circ : Nat) : State :=
    (bitsOf mask 4).foldl (fun s port => s.emitPort (s.cctxRegion key n) (key / 256) (key % 256) circ
      (spliceToken (s.spliceColour key n k port)) port) s
  ((s.cell key).cctx n).routes.foldl (fun s e =>
    let s := out s (rOutA e) (rCid e)
    if rOpk e = 1 then out s (rOutB e) (rFalse e) else s) s

/-- A pinning that fails at a switch-over: FETCH_FAULT with SPL = 1; a bank refusal puts its launch status in XINFO (R407). -/
def State.spliceFault (s : State) (key n k code addr detail : Nat) : State :=
  let f := s.faultOf (.task (key / 256) (key % 256) 0) none fcFetch (if code = lsFetch then detail else 0) addr
  let cyc := match s.regions.find k with | some r => s.cycle - r.activated - r.savedCyc | none => 0
  let chart := match s.regions.find ((s.cell key).cctx n).region with | some r => r.chart | none => 0
  s.takeHeld k { f with chart := chart, spl := true, cctx := n, task := 0, baddr := 0, bseq := 0, color := 0, cyc := cyc
                        xinfo := if code = lsFetch then 0 else code }

/-- Before the first cell switches the successor's phase begins, and a logged one takes waypoint 0 (R136, R384). -/
def State.beginPhase (s : State) (k2 : Nat) : State :=
  let s := s.modRegion k2 fun r => { r with st := .active, activated := s.cycle, moved := s.cycle, lastIn := s.cycle, windowAt := s.cycle
                                            cur := listModify r.cur 1 fun _ => s.cycle - r.admitted }
  let ln := s.logOf k2
  if ln = 0 then s else match s.takeWaypoint ln true false with | .done s => s | _ => s

/-- The last cell has switched: the predecessor's phase ends, and the successor is the region (R377, R384). -/
def State.renameRegion (s : State) (k k2 : Nat) : State :=
  let s := (s.endPhase k).unserve k
  match s.regions.find k, s.regions.find k2 with
  | some p, some r =>
    let s := s.closeLog (s.logOf k)
    let r := { r with
      st := p.st, gate := p.gate, gateStart := p.gateStart, settled := p.settled, full := p.full, victim := p.victim, mail := p.mail
      mailRst := p.mailRst, latched := p.latched, fseq := p.fseq, notifyWait := p.notifyWait, mailAt := p.mailAt, dh := p.dh, hit := p.hit, bps := p.bps
      wps := p.wps, trace := p.trace, prev := p.prev, unsealed := p.unsealed, misses := p.misses, switched := p.switched, level := p.level }
    let s := { s with regions := (s.regions.drop k2).put k r }
    let s := s.modRec p.lrec fun x => { x with st := .done }
    let s := s.modRec r.lrec fun x => { x with st := .active, regions := [k] }
    let s := r.keys.foldl (fun s key => s.modCell key fun c =>
      { c with cctxs := c.cctxs.map (fun (e : Nat × CfgCtx) => if e.2.region = k2 then (e.1, { e.2 with region := k }) else e)
               tiles := c.tiles.map fun (e : Nat × Tile) => if e.2.owner = some k2 then (e.1, { e.2 with owner := some k }) else e }) s
    let ren (l : List StreamCmd) : List StreamCmd := l.map fun c => if c.region = k2 then { c with region := k } else c
    let s := { s with ports := s.ports.map fun (e : Nat × Port) => (e.1, { e.2 with cmds := ren e.2.cmds, waiting := ren e.2.waiting }) }
    let s := s.modLog (s.logOf k) fun l => { l with regions := [k] }
    s.serve k
  | _, _ => s

/-- The switch-over of one cell. -/
def State.cross (s : State) (key n n2 k k2 : Nat) : State :=
  match s.regions.find k, s.regions.find k2 with
  | some r, some r2 =>
    let out := s.sendSplices key n k
    let left := out.leaveCell k key n
    let tiles := ((s.cell key).cctx n2).tiles
    let full := 16384 < left.pinnedOn (keyDie k)
    (match left.pinCell { r2.cfg with priv := r2.rank == 7 } [k2] (r2.banks.map (·.2)) tiles key with
     | .bad c a d => s.spliceFault key n2 k c a d
     | .ok ps =>
       if full || 16384 < left.pinnedOn (keyDie k) + ps.length then s.spliceFault key n2 k lsBankmap 0 0
       else
         let s := if r.switched.isEmpty then left.beginPhase k2 else left
         let s := (s.modCell key fun c => c.activate n2 k2).advanceGen (keyDie k)
         let s := s.modRegion k2 fun x => { x with pins := x.pins ++ ps, moved := s.cycle }
         let s := s.modRegion k fun x => { x with switched := x.switched ++ [key], moved := s.cycle }
         if r.keys.all fun q => q = key || r.switched.contains q then s.renameRegion k k2 else s)
  | _, _ => s

/-- SPLICE_SWITCHOVER (R171): a cell goes from its predecessor's context to the successor's in one step: splice tokens on its
outputs, tiles handed over, the successor activated, the predecessor's context freed. -/
def execSpliceSwitchover (cell cctx : Nat) (s : State) : Host.Outcome State Fault Refusal :=
  let x := (s.cell cell).cctx cctx
  match s.regions.find x.region with
  | none => .next s
  | some r =>
    match r.succ with
    | none => .next s
    | some k2 =>
      match s.cctxOn cell k2 with
      | none => .next s
      | some n2 =>
        if r.frozen || !s.mayCross cell cctx x.region || !s.crossRoom cell cctx then .next s
        else
          let b := s.clearBanks cell x.region
          .next (if b.2 then b.1 else s.cross cell cctx n2 x.region k2)

/-! ## Waypoints of a gated context (R136) -/

/-- A waypoint is written: its context's tasks go on and its inputs open again (R136, R421). -/
def State.afterWaypoint (s : State) (ln : Nat) : State :=
  match s.log ln with
  | none => s
  | some l =>
    let s := s.passWaypoint ln
    l.regions.foldl (fun s k => s.traceEvent k 1 (match s.log ln with | some l => if l.replay then l.replayWp else l.newest | none => 0)) s

/-- The waypoint of a context that waits for one is written (R136); a full sub-log holds it as it holds a write (R138). -/
def State.doWaypoint (s : State) (ln : Nat) (full : Bool) : State :=
  match s.takeWaypoint ln false full with
  | .done s => s.afterWaypoint ln
  | .wait => s
  | .diverge ln => s.diverged ln
  | .full ln key _ => s.logFull ln key none noWord 0

/-- WAYPOINT_QUIESCENCE (R136): no token is present anywhere in a gated logged context. -/
def execWaypointQuiescence (region : Nat) (s : State) : Host.Outcome State Fault Refusal :=
  let ln := s.logOf region
  match s.log ln with
  | none => .next s
  | some l =>
    if !l.wayWait.isEmpty && l.regions.all (fun k => !s.tokensPresent k && (match s.regions.find k with
        | some r => !r.full && !s.boundPassed r && !r.frozen && !r.dh
        | none => false)) then .next (s.doWaypoint ln false)
    else .next s

/-- QBOUND_EXPIRY (R136, R400): the bound of a pre-emption or of a waypoint has passed, and the full-save form is taken. -/
def execQboundExpiry (region : Nat) (s : State) : Host.Outcome State Fault Refusal :=
  let ks := s.gangOf region
  let late (k : Nat) : Bool := match s.regions.find k with | some r => s.boundPassed r | none => false
  if s.gating ks then (if ks.all late then .next (s.fullSave ks) else .next s)
  else
    let ln := s.logOf region
    match s.log ln with
    | none => .next s
    | some l =>
      if !l.wayWait.isEmpty && l.regions.all late then
        let s := l.regions.foldl (fun s k => s.modRegion k fun r => { r with full := true }) s
        .next (if l.regions.any s.saveWaits then s else s.doWaypoint ln true)
      else .next s

end Sys2Proof.Machine
end

