-- ==== Sys2Proof/Machine/Csrs.lean ====
section
/-! DEFINITION. The control and status registers: what CSRR reads and CSRW writes (R31, R34, R80, R130, R139, R170, R184-R186,
R226, R227, R362). -/

namespace Sys2Proof.Machine

/-- The context whose CTX, CFG and RGN registers an agent addresses: cell key, configuration context, task (R226). -/
def State.csrPlace (s : State) (a : Agent) : Nat × Nat × Nat :=
  match a with
  | .task d p t => (cellKey d p, (s.task a).cctx, t)
  | .helm n =>
    let w := (s.helm n).csel
    (cellKey (field w 21 16) (field w 15 8), field w 5 4, field w 2 0)

/-- RGN.GEOM for a cell of a region (R227). -/
def State.geomWord (s : State) (r : Region) (key : Nat) : Word :=
  let d := key / 256
  let x := key % 16 - r.col0
  let y := ((s.die d).logRow (key % 256 / 16)).getD 0 - r.row0
  word (d % 64 * 2 ^ 24 + r.col0 * 2 ^ 20 + r.row0 * 2 ^ 16 + (r.w - 1) * 2 ^ 12 + (r.h - 1) * 256 + x % 16 * 16 + y % 16)

/-- DIE.CHMAP of a die (R80); an io die has no channels. -/
def State.chmap (s : State) (d : Nat) : Word :=
  if 64 ≤ d then 0 else word ((bitsOf (s.die d).chans 32).length * 2 ^ 32 + (s.die d).chans)

/-- What a read of PKG.ULCMD returns: the status of the last command, kept in bits [39:38] of its register (R139). -/
def ulcmdStatus (w : Word) : Nat := field w 39 38

/-- The value of a CSR of a place: cell key, configuration context, task (R362). A context of no region has no RANK and no
GEOM: free values (log entry 5), whose reserved bits read as zero (R3). A task of a cell, which only a helm-filled block lets name an H
register, reads HELM.CSEL as 0 and its own RMODE, FFLAGS and SEED for the other three (R226; DESIGN CHOICE, log entry 130). -/
def State.csrReadAt (s : State) (a : Agent) (at0 : Nat × Nat × Nat) (n : Nat) : Word :=
  let c := s.cell at0.1
  let x := c.cctx at0.2.1
  let own := match a with | .helm h => (s.helm h).task | .task .. => s.task a
  if n < 8 then (c.task at0.2.2).csr n
  else if n = 0x400 then word x.asid
  else if n = 0x401 then x.troot
  else if n = 0x402 then x.dset
  else if n = 0x403 then word x.keyid
  else if n = 0x404 then x.ulog
  else if n = 0x800 then (match s.regions.find x.region with | some r => word r.rank | none => Config.freeWord 33 s.free &&& 7)
  else if n = 0x801 then (match s.regions.find x.region with | some r => s.geomWord r at0.1 | none => Config.freeWord 33 (s.free + 1) &&& 0x3FFFFFFF)
  else if n = 0xC00 then s.chmap a.die
  else if n = 0x1000 then word s.pkgNum
  else if n = 0x1001 then word (ulcmdStatus s.ulcmd)
  else if n = 0x1400 then (match a with | .helm h => (s.helm h).csel | .task .. => 0)
  else if n = 0x1401 then own.csr 0
  else if n = 0x1402 then own.csr 1
  else own.csr 3

/-- The value of a CSR of the context an agent addresses (R226, R362). -/
def State.csrRead (s : State) (a : Agent) (n : Nat) : Word := s.csrReadAt a (s.csrPlace a) n

/-- A write of RMODE; 111 is ignored (R184). -/
def TaskCtx.putRmode (t : TaskCtx) (v : Word) : TaskCtx := if field v 2 0 = 7 then t else { t with rmode := field v 2 0 }
/-- A write of FFLAGS replaces the flags (R186). -/
def TaskCtx.putFflags (t : TaskCtx) (v : Word) : TaskCtx := { t with fflags := field v 5 0 }
/-- A write of SEED sets the seed and the generator (R185). -/
def TaskCtx.putSeed (t : TaskCtx) (v : Word) : TaskCtx :=
  { t with seed := field v 31 0, gen := if field v 31 0 = 0 then 1 else field v 31 0 }

/-- A write of CTX.SPILL keeps to its limits and to a HALTED task, else it is ignored (R170). -/
def Cell.spillOk (c : Cell) (t : TaskCtx) (v : Word) : Bool :=
  t.st == .halted && Nat.ble (field v 20 12 + field v 9 0) 512 &&
  (field v 9 0 == 0 || (Nat.ble (field v 23 21) 5 && (c.tile (field v 23 21)).role == 1 && (c.tile (field v 23 21)).owner == some (c.cctx t.cctx).region))

/-- The state with a task context of a cell changed. -/
def State.modCtx (s : State) (key t : Nat) (f : TaskCtx → TaskCtx) : State :=
  s.modCell key fun c => { c with tasks := c.tasks.put t (f (c.task t)) }

/-- A write of CFG.ULOG (R130): ignored while the context is active or with the reserved policy; else the log that it names, where
that is the context's own region's, takes its POLICY and ROOT. -/
def State.putUlog (s : State) (key n : Nat) (v : Word) : State :=
  let x := (s.cell key).cctx n
  if x.st == .active || field v 55 54 == 3 then s
  else
    let s := s.modCell key fun c => c.modCctx n fun x => { x with ulog := v &&& 0xFFCFFFFFFFFFF000 }
    let root := field v 51 12 * 4096
    match s.log (field v 63 56) with
    | some l =>
      if !l.regions.contains x.region then s
      else
        let l' := if root = l.root then l else { l with root := root, subs := (s.newLog root (field v 55 54) l.key l.regions).subs }
        s.modLog (field v 63 56) fun _ => { l' with policy := field v 55 54 }
    | none => s

/-- A write of a CSR of a place (R3, R362); PKG.ULCMD starts a command, which a later one waits for. -/
def State.csrWriteAt (s : State) (a : Agent) (at0 : Nat × Nat × Nat) (n : Nat) (v : Word) : CommitRes :=
  let ctx (f : TaskCtx → TaskCtx) : CommitRes := .done (s.modCtx at0.1 at0.2.2 f) none
  let cfg (f : CfgCtx → CfgCtx) : CommitRes := .done (s.modCell at0.1 fun c => c.modCctx at0.2.1 f) none
  let own (f : TaskCtx → TaskCtx) : CommitRes := .done (s.modTask a f) none
  if n = 0 then ctx fun t => t.putRmode v
  else if n = 1 then ctx fun t => t.putFflags v
  else if n = 3 then ctx fun t => t.putSeed v
  else if n = 4 then ctx fun t => { t with shapeb := field v 7 0 }
  else if n = 5 then ctx fun t => if (s.cell at0.1).spillOk t v then { t with spill := v &&& 0xFFF3FF } else t
  else if n = 0x400 then cfg fun x => { x with asid := field v 15 0 }
  else if n = 0x401 then cfg fun x => { x with troot := v &&& 0xF80FFFFFFFFFF000 }
  else if n = 0x402 then cfg fun x => { x with dset := v }
  else if n = 0x403 then cfg fun x => { x with keyid := field v 7 0 }
  else if n = 0x404 then .done (s.putUlog at0.1 at0.2.1 v) none
  else if n = 0x1001 then
    if ulcmdStatus s.ulcmd = 1 then .wait s
    else if field v 55 52 = 1 || field v 55 52 = 2 then .done { s with ulcmd := (v &&& 0xFFF0003FFFFFFFFF) ||| 0x4000000000 } none
    else .done s none
  else if n = 0x1400 then
    (match a with
     | .helm h => .done (s.modHelm h fun x => { x with csel := v &&& 0x3FFF37 }) none
     | .task .. => .done s none)
  else if n = 0x1401 then own fun t => t.putRmode v
  else if n = 0x1402 then own fun t => t.putFflags v
  else if n = 0x1403 then own fun t => t.putSeed v
  else .done s none

/-- A write of a CSR of the context an agent addresses (R226, R362). -/
def State.csrWrite (s : State) (a : Agent) (n : Nat) (v : Word) : CommitRes := s.csrWriteAt a (s.csrPlace a) n v

/-! ## Log service (R139) -/

/-- A service command of PKG.ULCMD ends, done or refused. -/
def State.ulcmdEnd (s : State) (ok : Bool) : State :=
  { s with ulcmd := (s.ulcmd &&& 0xFFFFFF3FFFFFFFFF) ||| (if ok then 0 else 0x8000000000) }

/-- Is a word the busy command of PKG.ULCMD with an OP? -/
def State.ulcmdIs (s : State) (w : Word) (op : Nat) : Bool :=
  ulcmdStatus s.ulcmd == 1 && field w 55 52 == op && (w &&& 0xFFF0003FFFFFFFFF) == (s.ulcmd &&& 0xFFF0003FFFFFFFFF)

/-- EXTEND: the NSEG of a die read again; none when it is below the old one or above NMAX. -/
def State.extendLog (s : State) (ln d : Nat) : Option State :=
  let n := field (s.logDie ln d 0) 15 0
  let m := field (s.logDie ln d 1) 15 0
  match s.log ln with
  | none => none
  | some l =>
    if n * 4096 < (l.sub (64 * d)).due || m < n then none
    else some (s.modLog ln fun l =>
      (List.range 64).foldl (fun l k => l.modSub (64 * d + k) fun u => { u with due := n * 4096 }.grow) l)

/-- ULCMD_EXTEND (R139): room in every sub-log that was full opens the gate that STALL closed (R138). -/
def execUlcmdExtend (w : Word) (s : State) : Host.Outcome State Fault Refusal :=
  if !s.ulcmdIs w 1 then .next s
  else
    match s.extendLog (field w 63 56) (field w 37 32) with
    | some s => .next ((s.openLogGate (field w 63 56)).ulcmdEnd true)
    | none => .next (s.ulcmdEnd false)

/-- ULCMD_DISCARD (R139): refused above NEWEST or for an inactive log; nothing older is left where WP is at or below OLDEST. -/
def execUlcmdDiscard (w : Word) (s : State) : Host.Outcome State Fault Refusal :=
  if !s.ulcmdIs w 2 then .next s
  else
    let ln := field w 63 56
    match s.log ln with
    | none => .next (s.ulcmdEnd false)
    | some l =>
      if l.newest < field w 31 0 then .next (s.ulcmdEnd false)
      else if field w 31 0 ≤ l.oldest then .next (s.ulcmdEnd true)
      else .next (((s.discardTo ln (field w 31 0)).openLogGate ln).ulcmdEnd true)

end Sys2Proof.Machine
end

