-- ==== Sys2Proof/Machine/Sounding.lean ====
section
/-! DEFINITION. The message ring's header, Faxus frames that the device sends, the SOUNDING with its summary, and sealed records
(R425-R428, R431, R433-R435, R448). -/

namespace Sys2Proof.Machine

/-! ## The ring header (R427, R428) -/

/-- The physical address of the ring: die 0 of the own package. -/
def State.ringBase (s : State) : Nat := s.pkgNum * 2 ^ 43
/-- Word `i` of the ring header as memory holds it. -/
def State.ringWord (s : State) (i : Nat) : Nat := s.natAs 0 (s.ringBase + 8 * i) 4
/-- The io0 agent writes a word of the ring header; in a tile a log owns that is a horizon (R132, R429). -/
def State.ringPut (s : State) (i v : Nat) : State :=
  match s.homeWrite srcHost attrPlain false (s.ringBase + 8 * i) (leBytes (v % 2 ^ 32) 8) with
  | .done s => s
  | _ => s
def State.rIdx (s : State) : Nat := s.ringWord 0
def State.rNext (s : State) : Nat := s.ringWord 1
def State.rClg2 (s : State) : Nat := s.ringWord 2 % 16 + (if s.ringWord 2 % 32 = 16 then 16 else 0)
/-- RINGST; its other bits are reserved and read as zero (R3, R428). -/
def State.rSt (s : State) : Nat := s.ringWord 3 % 8
/-- Is the home of a byte of die 0 in reach of io0: the links stand and its channel is ready (R16, R449)? -/
def State.ioReach (s : State) (pa : Nat) : Bool := (s.crossing 64 0).isNone && s.homeReady pa
/-- May frames pass the host port: it is ready, and its agent reaches the ring header (R25, R427, R449)? Until then they wait. -/
def State.agentReady (s : State) : Bool := s.hostReady && s.ioReach s.ringBase
/-- The address of slot `i` of the ring (R427). -/
def State.slotAt (s : State) (i : Nat) : Nat := s.ringBase + 0x10000 + 256 * (i % 2 ^ s.rClg2)
/-- RINGST with bits set: 1 LAPPED, 2 GAP, 4 FMT. -/
def State.ringFlag (s : State) (m : Nat) : State := s.ringPut 3 (s.rSt ||| m)

/-! ## Frames (R425) -/

/-- Bytes of words. -/
def wordBytes (l : List Nat) : List Byte := l.flatMap fun w => leBytes (w % 2 ^ 64) 8

/-- The header of a device frame and its payload. -/
def State.frameBytes (s : State) (fkind nakc session fseq : Nat) (payload : List Byte) : List Byte :=
  wordBytes [ 0xFA5C * 2 ^ 48 + 2 ^ 44 + fkind * 2 ^ 40 + nakc * 2 ^ 36 + payload.length % 2 ^ 16 * 2 ^ 16 + session,
              fseq % 2 ^ 32, s.rNext * 2 ^ 32 + s.rIdx, s.rSt * 2 ^ 32 + s.host.iseq % 2 ^ 32 ] ++ payload

/-- A frame leaves for the host, numbered from 0 at bring-up; frames of session 0 share one count. -/
def State.sendFrame (s : State) (fkind nakc : Nat) (payload : List Byte) : State :=
  let f := s.frameBytes fkind nakc 0 s.host.fseqOut payload
  { s with host := { s.host with fseqOut := (s.host.fseqOut + 1) % 2 ^ 32, sent := s.host.sent ++ [f] } }

/-! ## Sealed records (R447, R448) -/

/-- The sealed record of a plaintext under a key: header, ciphertext and tag; SCTR advances. -/
def State.sealRecord (s : State) (k : Nat) (plain : List Byte) : State × List Byte :=
  match s.keys.find k with
  | none => (s, freeBytes 37 s.free (48 + plain.length))
  | some e =>
    let n := e.sctr + 1
    let hdr := wordBytes [0x5EA1 * 2 ^ 48 + plain.length % 2 ^ 24 * 2 ^ 16 + k % 256, n, 0, 0]
    let c := Config.gcmSeal e.sealKey n hdr plain
    ({ s with keys := s.keys.put k { e with sctr := n } }, hdr ++ (c ++ List.replicate (plain.length + 16) (0 : Byte)).take (plain.length + 16))

/-! ## The summary (R434) -/

/-- The number of a state of R368 in its order; the spec does not number them: free (log entry 5). -/
def regStCode (r : RegSt) : Nat :=
  field (Config.freeWord 38 (match r with
    | .waiting => 0 | .ready => 1 | .reserved => 2 | .loading => 3 | .loaded => 4 | .active => 5 | .gating => 6 | .saved => 7
    | .done => 8 | .refused => 9 | .cancelled => 10 | .aborted => 11)) 7 0

/-- The highest throttle level of the regions on a die. -/
def State.topLevel (s : State) (d : Nat) : Nat := s.regions.foldl (fun m e => if keyDie e.1 = d then max m e.2.level else m) 0

/-- Does every part of a die that its LIVE mask needs stand: a row and a channel (R452)? -/
def Die.alive (d : Die) : Bool := d.nRows ≠ 0 && d.chans ≠ 0

/-- The entries of the almanac as bytes. -/
def State.almanacBytes (s : State) : List Byte := s.almanac.flatMap fun e => leBytes e.1.toNat 8 ++ leBytes e.2.toNat 8

/-- The regions a summary lists: those not ended, ascending. -/
def State.liveRegions (s : State) : List (Nat × Region) :=
  (s.regions.filter fun e => !(e.2.st == .done || e.2.st == .aborted || e.2.st == .refused) && e.1 < 2 ^ 23)

/-- An entry of the region list. -/
def State.regionEntry (s : State) (k : Nat) (r : Region) : List Byte :=
  wordBytes [handleOf k, r.chart.toNat,
    regStCode r.st * 2 ^ 56 + r.prio % 64 * 2 ^ 50 + bit r.dh * 2 ^ 49 + bit r.mail.isSome * 2 ^ 48 + r.erate % 2 ^ 16, (s.lidOf k).toNat]

/-- The entry of a mailbox that holds a record: its length, handle, word 0, then word 3 or the sealed record. -/
def State.mailEntry (s : State) (k : Nat) (r : Region) : State × List Byte :=
  let ws := s.mailWords r
  if r.cfg.keyid = 0 then (s, wordBytes [32, handleOf k, (pw ws 0).toNat, (pw ws 3).toNat])
  else
    let q := s.sealRecord r.cfg.keyid (ws.flatMap fun w => leBytes w.toNat 8)
    (q.1, wordBytes [24 + q.2.length, handleOf k, (pw ws 0 &&& 0xFF00600000000000).toNat] ++ q.2)

/-- The whole summary. Its sections are taken in one cycle of the model; bytes that the layout names no field for are reserved, so they
read as zero (R3). The newest index of an empty almanac is free (log entry 5). -/
def State.summary (s : State) : State × List Byte :=
  let z (n : Nat) : List Byte := List.replicate n 0
  let cyc := s.cycle
  let head := wordBytes [s.host.snum, s.pkgNum, cyc, cyc] ++ z 32
  let ready := leBytes (bitSet s.readyBits) 512
  let links := (List.range 116).map (fun j => BitVec.ofNat 8 (if s.linkUp j then s.linkLanes j / 8 else 0)) ++ z 12
    ++ (List.range 32).map (fun p => BitVec.ofNat 8 (if s.readyBits.contains (2244 + p) then s.linkLanes (116 + p) else 0)) ++ z 96
  let live := (List.range 64).flatMap fun d => let x := s.die d; leBytes (if x.alive then x.chans else 0) 4
  let cells := (List.range 64).flatMap fun d => let x := s.die d; leBytes (bitSet ((List.range 256).filter x.usable)) 32
  let n := s.almanac.length
  let alm := wordBytes [n, if n = 0 then (Config.freeWord 39 s.free).toNat else n - 1] ++ leBytes (Config.shake256 s.almanacBytes) 32 ++ z 16
  let reck := leBytes (s.committed % 2 ^ 32 * 2 ^ 32 + s.budget % 2 ^ 32) 8
    ++ leBytes ((List.range 64).foldl (fun m d => m + s.topLevel d % 16 * 16 ^ d) 0) 32 ++ z 24
  let ring := leBytes s.rIdx 4 ++ leBytes s.rNext 4 ++ leBytes s.rClg2 4 ++ leBytes s.rSt 4 ++ leBytes s.host.iseq 4 ++ z 44
  let cst := (List.range 64).flatMap fun q => leBytes (s.copyq q).status 8
  let pend := (List.range 1040).map (fun i => BitVec.ofNat 8 (s.queued (i / 16) (i % 16)).length) ++ z 48
  let rs := s.liveRegions
  let regs := wordBytes [rs.length] ++ rs.flatMap fun e => s.regionEntry e.1 e.2
  let ms := rs.filter fun e => e.2.mail.isSome
  let mails := ms.foldl (fun (q : State × List Byte) e => let x := q.1.mailEntry e.1 e.2; (x.1, q.2 ++ x.2)) ({ s with free := s.free + 1 }, [])
  (mails.1, head ++ ready ++ links ++ live ++ cells ++ alm ++ reck ++ ring ++ cst ++ pend ++ regs ++ wordBytes [ms.length] ++ mails.2)

/-! ## Sending it (R433) -/

/-- Start a SOUNDING, or join the one that is being sent. -/
def State.startSounding (s : State) : State :=
  if s.host.sounding then s
  else
    let s := { s with host := { s.host with snum := (s.host.snum + 1) % 2 ^ 32, carried := s.rSt } }
    let q := s.summary
    let s := q.1
    let n := cdiv q.2.length 8192
    let parts := (List.range n).map fun i => wordBytes [s.host.snum * 2 ^ 32 + n * 2 ^ 16 + i] ++ (q.2.drop (8192 * i)).take 8192
    { s with host := { s.host with sounding := true, sndParts := parts } }

/-- One part leaves; with the last, the ring status it carried is cleared and those that wait for it are told. -/
def State.sendPart (s : State) : State :=
  match s.host.sndParts with
  | [] => s
  | p :: r =>
    if !s.agentReady then s
    else
    let s := s.sendFrame 6 0 p
    let s := { s with host := { s.host with sndParts := r, sounding := !r.isEmpty } }
    if r.isEmpty then
      let s := if s.host.carried = 0 then s else s.ringPut 3 (s.rSt - (s.rSt &&& s.host.carried))
      { s with host := { s.host with sndWait := [] } }
    else s

/-- SOUND at commit (R433). -/
def State.commitSound (s : State) (a : Agent) (i : Nat) : CommitRes :=
  match (match s.win a with | some w => w.ops.find i | none => none) with
  | some (.begun _ 6) => if s.host.sndWait.contains (a, i) then .wait s else .status s stDone 0
  | _ =>
    if !s.hostReady then .status s stState 0
    else if !s.agentReady then .wait s
    else
      let s := s.startSounding
      .wait ({ s with host := { s.host with sndWait := s.host.sndWait ++ [(a, i)] } }.modWin a fun w => { w with ops := w.ops.put i (.begun 0 6) })

end Sys2Proof.Machine
end

