-- ==== Sys2Proof/Machine/System.lean ====
section
/-! DEFINITION. The privileged instructions D0-E0 (R51-R53, R362, R363, R379, R383, R391, R433, R443, R453): what they do when
they fire, and at commit. -/

namespace Sys2Proof.Machine

/-! ## CSRs, mailboxes, reckoning (R362, R383, R391) -/

/-- A read of the state before the firing, delivered to its targets. -/
def fireRead (s : State) (op : Nat) (f : FmtS) (v : State → Agent → Slot → Word × Word) : Host.Outcome State Fault Refusal :=
  fireWith s op (.s f) fun t a i sl =>
    let r := v s a sl
    let s := { t with free := t.free + 2 }
    (s.send a i op (.s f) f.ta (wordTok r.1.toNat) 1).send a i op (.s f) f.tb (wordTok r.2.toNat) 1

/-- CSRR (R362): reads when it fires. -/
def execCsrr (f : FmtS) (s : State) : Host.Outcome State Fault Refusal :=
  fireRead s 0xD0 f fun s a _ => let w := s.csrRead a f.sel.toNat; (w, w)
/-- CSRW (R362): writes at commit. -/
def execCsrw (f : FmtS) (s : State) : Host.Outcome State Fault Refusal := fireLate s 0xD1 (.s f)
/-- MAILR (R391): reads when it fires. -/
def execMailr (f : FmtS) (s : State) : Host.Outcome State Fault Refusal :=
  fireRead s 0xD2 f fun s a sl => let w := s.mailRead a (sl.tok .l).asWord (f.aux.toNat % 16); (w, w)

/-- COMMITTED and BUDGET in one word (R383). -/
def State.budgetWord (s : State) : Word := word (s.committed % 2 ^ 32 * 2 ^ 32 + s.budget % 2 ^ 32)

/-- What RECK rdctr reads: a counter of a region, and its level and ERATE (R383, R384). -/
def State.readCounter (s : State) (l : Word) : Word × Word :=
  match s.regionAt (l &&& 0xFFFFFFFFFFE0FFFF) with
  | none => (word (2 ^ 64 - 1), word (2 ^ 64 - 1))
  | some (_, r) =>
    let i := field l 19 16
    let v := if flag l 20 then r.prev.getD i 0 else s.counter r false i
    (word v, word (r.erate % 2 ^ 16 * 2 ^ 16 + r.level % 16))

/-- RECK rdbudget (R383). -/
def execReckRdbudget (f : FmtS) (s : State) : Host.Outcome State Fault Refusal :=
  fireRead s 0xDD f fun s _ _ => (s.budgetWord, s.budgetWord)
/-- RECK rdctr (R383). -/
def execReckRdctr (f : FmtS) (s : State) : Host.Outcome State Fault Refusal :=
  fireRead s 0xDD f fun s _ sl => s.readCounter (sl.tok .l).asWord
/-- RECK wrbudget (R383): writes at commit. -/
def execReckWrbudget (f : FmtS) (s : State) : Host.Outcome State Fault Refusal := fireLate s 0xDD (.s f)

/-- RECK wrbudget at commit: BUDGET from the next cycle on; REFUSED, with a REASON the spec does not give (log entry 5), when
[63:32] is not zero. -/
def State.commitBudget (s : State) (r : Word) : CommitRes :=
  if field r 63 32 ≠ 0 then .status { s with free := s.free + 1 } stRefused (field (Config.freeWord 34 s.free) 7 0)
  else .status { s with budgetDue := some (field r 31 0) } stDone 0

/-! ## Operations on regions (R363): all at commit -/

/-- RESUME (R396). -/
def execResume (f : FmtS) (s : State) : Host.Outcome State Fault Refusal := fireLate s 0xD3 (.s f)
/-- ABORT (R397). -/
def execAbort (f : FmtS) (s : State) : Host.Outcome State Fault Refusal := fireLate s 0xD4 (.s f)
/-- CHLOAD (R376). -/
def execChload (f : FmtS) (s : State) : Host.Outcome State Fault Refusal := fireLate s 0xD5 (.s f)
/-- CHACT (R376). -/
def execChact (f : FmtS) (s : State) : Host.Outcome State Fault Refusal := fireLate s 0xD6 (.s f)
/-- PREEMPT (R399). -/
def execPreempt (f : FmtS) (s : State) : Host.Outcome State Fault Refusal := fireLate s 0xD7 (.s f)
/-- CKSAVE (R404). -/
def execCksave (f : FmtS) (s : State) : Host.Outcome State Fault Refusal := fireLate s 0xD8 (.s f)
/-- CKREST (R405). -/
def execCkrest (f : FmtS) (s : State) : Host.Outcome State Fault Refusal := fireLate s 0xD9 (.s f)

/-! ## TLBI (R51-R53) -/

/-- Is a port's TLB in the scope of a TLBI: the ports of the issuing die, or every port and the copy engines' TLBs? -/
def tlbiScope (a : Agent) (sc port : Nat) : Bool :=
  if sc = 3 then port / 64 = a.die && port < 4096 else port < 4096 || 8192 ≤ port

/-- Does a mode of TLBI select an entry: 0 va, 1 asid, 2 vaall, 3 all? -/
def tlbiSelects (mode va asid : Nat) (e : TlbEntry) : Bool :=
  let inVa := va % 2 ^ 52 / 65536 * 65536 / 2 ^ e.size == e.vpage
  let g := flag e.leaf 9
  match mode with
  | 0 => inVa && (g || e.asid == asid)
  | 1 => !g && e.asid == asid
  | 2 => inVa
  | _ => true

/-- Has a part been translated and not yet performed or failed? -/
def AUnit.underway (u : AUnit) : Bool :=
  match u.st with | .issued | .held | .retry _ | .pod _ _ | .logHeld => true | _ => false

/-- Was a part that has not performed translated through an entry that a TLBI selects, in a TLB of its scope (R52)? The part carries
the entry, which may have left the TLB since. -/
def tlbiTouches (a : Agent) (sc mode va asid : Nat) (u : AUnit) : Bool :=
  u.underway && optB u.via fun e => tlbiScope a sc e.1 && tlbiSelects mode va asid e.2

/-- The effect of TLBI when it fires: the entries go, and the parts it must wait for are recorded. Walks in flight read their
tables when they complete, so all of them are walked after it. -/
def State.tlbi (s : State) (a : Agent) (i sc mode va asid : Nat) : State :=
  let wait := s.accs.flatMap fun x =>
    ((List.range x.units.length).filter fun j => match x.units[j]? with
      | some u => tlbiTouches a sc mode va asid u
      | none => false).map fun j => wordTok (x.id * 2 ^ 20 + j)
  let drop (e : Nat × Port) : Nat × Port :=
    if tlbiScope a sc e.1 then (e.1, { e.2 with tlb := e.2.tlb.filter fun t => !tlbiSelects mode va asid t }) else e
  let s := { s with ports := s.ports.map drop }
  (s.modWin a fun w => { w with kept := w.kept.put (256 + i) wait }).setSlot a i fun sl => { sl with st := .pending }

/-- Has everything performed that a TLBI waits for (R52)? -/
def State.tlbiDone (s : State) (a : Agent) (i : Nat) : Bool :=
  match s.win a with
  | none => false
  | some w => (w.kept.get (256 + i) []).all fun t =>
      match s.acc? (t.w64 / 2 ^ 20) with
      | none => true
      | some x => match x.units[t.w64 % 2 ^ 20]? with | some u => !u.underway | none => true

/-- TLBI (R51): fires, invalidates, and waits. -/
def execTlbi (f : FmtS) (s : State) : Host.Outcome State Fault Refusal :=
  fireWith s 0xDA (.s f) fun s a i sl =>
    s.tlbi a i f.sc (fieldN f.sel.toNat 10 9) (sl.tok .l).w64 ((sl.tok .r).w64 % 65536)

/-- TLBI_COMPLETE (R52): the token of value 0. -/
def execTlbiComplete (a : Agent) (slot : Nat) (s : State) : Host.Outcome State Fault Refusal :=
  match s.win a with
  | none => .next s
  | some w =>
    match w.slots[slot]?, s.fieldsAt a w.baddr slot with
    | some sl, some (op, f) =>
      if op = 0xDA && sl.st == .pending && !w.stopped && (s.task a).st == .active && s.tlbiDone a slot then
        let s := s.modWin a fun w => { w with kept := w.kept.drop (256 + slot) }
        .next ((s.setSlot a slot fun sl => { sl with st := .fired }).send a slot op f f.ta (wordTok 0) 1)
      else .next s
    | _, _ => .next s

/-! ## The almanac (R451, R453) -/

/-- ALMR (R453): reads when it fires. -/
def execAlmr (f : FmtS) (s : State) : Host.Outcome State Fault Refusal :=
  fireRead s 0xDB f fun s _ sl =>
    let w := match s.almanac[(sl.tok .l).w64]? with
      | some e => if f.aux.toNat % 2 = 0 then e.1 else e.2
      | none => word (2 ^ 64 - 1)
    (w, w)

/-- ALMW (R453): appends at commit. -/
def execAlmw (f : FmtS) (s : State) : Host.Outcome State Fault Refusal := fireLate s 0xDC (.s f)

/-- Does word 0 of an almanac entry break its layout (R451)? -/
def badAlmanac (w : Word) : Bool :=
  let k := field w 63 60
  let p := field w 47 40
  let u := field w 39 32
  k = 0 || 5 < k || field w 59 56 = 0 || 6 < field w 59 56 || field w 55 48 ≠ 0 || field w 31 0 ≠ 0 ||
  (match k with
   | 1 | 2 => 64 ≤ p
   | 3 => 64 ≤ p || 32 ≤ u
   | 4 => 116 ≤ p || 64 ≤ u
   | _ => 32 ≤ p || 2 ≤ u)

/-- The reason for which an entry is not appended; none when it is. -/
def State.almReason (s : State) (w0 : Word) : Option Nat :=
  if badAlmanac w0 then some 1
  else if 4096 ≤ s.almanac.length then some 2
  else if s.almanac.any fun e => field e.1 63 60 = field w0 63 60 && field e.1 47 32 = field w0 47 32 then some 3
  else none

/-- ALMW at commit: it goes to io0, which takes it in its turn; `almPend` holds 128 * cycle + slot of each. -/
def State.commitAlmw (s : State) (a : Agent) (i : Nat) (w0 w1 : Word) : CommitRes :=
  match (match s.win a with | some w => w.ops.find i | none => none) with
  | some (.begun r 5) => if r = 0 then .wait s else .status s (if r = 1 then stDone else stRefused) (r / 256)
  | _ => .wait ({ s with almPend := s.almPend ++ [(a, 128 * s.cycle + i, w0, w1)] }.modWin a fun w => { w with ops := w.ops.put i (.begun 0 5) })

/-- The ALMW that io0 takes first: the earliest cycle, then the lowest issuer. -/
def State.firstAlmw (s : State) : Option (Agent × Nat × Word × Word) :=
  s.almPend.foldl (fun b e => match b with
    | some x => if e.2.1 / 128 < x.2.1 / 128 || (e.2.1 / 128 = x.2.1 / 128 && e.1.rank < x.1.rank) then some e else b
    | none => some e) none

/-- ALMW_DURABLE (R453): io0 takes the first ALMW, once the cycle in which it came is over; an entry that is in order is
appended and durable, any other refused. -/
def execAlmwDurable (s : State) : Host.Outcome State Fault Refusal :=
  match s.firstAlmw with
  | none => .next s
  | some (a, n, w0, w1) =>
    if s.cycle ≤ n / 128 then .next s
    else
      let tell (s : State) (r : Nat) : State := s.modWin a fun w => { w with ops := w.ops.put (n % 128) (.begun r 5) }
      let s := { s with almPend := s.almPend.filter (· != (a, n, w0, w1)) }
      match s.almReason w0 with
      | some r => .next (tell s (256 * r + 4))
      | none => .next (tell { s with almanac := s.almanac ++ [(w0, w1)] } 1)

/-! ## SOUND, IDLE and ATTEST (R379, R433, R443) -/

/-- SOUND (R433): its status comes when the last part has left. -/
def execSound (f : FmtS) (s : State) : Host.Outcome State Fault Refusal := fireLate s 0xDE (.s f)

/-- IDLE (R379): the oldest event of the helm core's die or io die, once there is one; an event that was held moves up. -/
def execIdle (f : FmtS) (s : State) : Host.Outcome State Fault Refusal :=
  fireWith s 0xDF (.s f) fun s a i _ =>
    match (s.die a.die).events with
    | [] => s
    | (ev, pl) :: r =>
      let s := s.modDie a.die fun d => { d with events := r ++ d.evHeld.take 1, evHeld := d.evHeld.drop 1 }
      (s.send a i 0xDF (.s f) f.ta (wordTok ev.toNat) 1).send a i 0xDF (.s f) f.tb (wordTok pl.toNat) 1

/-- ATTEST (R443): at commit. -/
def execAttest (f : FmtS) (s : State) : Host.Outcome State Fault Refusal := fireLate s 0xE0 (.s f)

/-- The chart digests a report holds: of up to 8 regions of its key, ascending (R443). -/
def State.chartDigests (s : State) (k : Nat) : List Nat :=
  if k = 0 then []
  else ((s.liveRegions.filter fun e => e.2.cfg.keyid = k).map (·.2.digest)).take 8

/-- The report of an attestation (R443), with the next leaf; the header's fields behind MAGIC, whose places the spec does not give, are free (log entry 5). -/
def State.reportBytes (s : State) (req : List Byte) : State × List Byte :=
  let k := leNat ((req.drop 32).take 1)
  let leaf := s.leaf
  let ds := s.chartDigests k
  let key : List Byte := match s.keys.find k with
    | some e => leBytes k 8 ++ leBytes e.owner.toNat 8 ++ leBytes e.digest.toNat 32
    | none => List.replicate 48 0
  let body := leBytes 0xA77E 2 ++ freeBytes 35 s.free 62 ++ req.take 32 ++ leBytes s.image.digest.toNat 32
    ++ leBytes (Config.shake256 s.almanacBytes) 32 ++ leBytes s.image.siteDigest.toNat 32 ++ (if k = 0 then List.replicate 48 0 else key)
    ++ ds.flatMap (fun d => leBytes d 32) ++ List.replicate (256 - 32 * ds.length) (0 : Byte)
    ++ ((Config.encapKey s.ekey) ++ List.replicate 1568 (0 : Byte)).take 1568
  let sig := ((Config.xmssSign leaf (Config.shake256 body)) ++ List.replicate 2820 (0 : Byte)).take 2820
  ({ s with leaf := leaf + 1, free := s.free + 62 }, body ++ sig)

/-- Why a request is refused (R443). -/
def State.attestReason (s : State) (req : List Byte) : Option Nat :=
  let k := leNat ((req.drop 32).take 1)
  if (req.drop 33).any (· != 0) then some 1
  else if k ≠ 0 && (s.keys.find k).isNone then some 2
  else if 2 ^ 20 ≤ s.leaf then some 3
  else none

/-- Write a report for an agent: through its own CFG values, or physically; `s0` is the state that waits. A full sub-log is
announced once, and the word it holds stands as an access of its own (R138). -/
def State.writeReport (s s0 : State) (a : Agent) (i va : Nat) (bs : List Byte) : CommitRes :=
  let r := s.runStores (s.viaCell a accWrite (s.blockLogs a) true) (writesOf va bs)
  let x := s.elemAcc a i (s.seqOf a) 0 false va 8 0
  if s0.elemTrapped x then .wait s0
  else
  match r.bad, r.full with
  | some e, _ => .fault r.s e.1 e.2.1 e.2.2
  | none, some (ln, key, held) =>
    let told := match s0.win a with | some w => (w.ops.find i).isSome | none => true
    let at0 := match r.rest with | w :: _ => w.1 | [] => va
    .wait ((if told then s0 else (s0.holdElem x held).modWin a fun w => { w with ops := w.ops.put i (.begun 0 3) }).logFull ln key (some x) held at0)
  | none, none =>
    let s := r.s.freeElem x
    if !r.rest.isEmpty then .wait s0
    else if r.us.isEmpty then .status s stDone 0
    else .wait ((s.modWin a fun w => { w with ops := w.ops.put i (.begun s.nextAcc 4) }).openParts a r.us)

/-- ATTEST at commit: request at L, report to R. -/
def State.commitAttest (s : State) (a : Agent) (i va rep : Nat) : CommitRes :=
  match (match s.win a with | some w => w.ops.find i | none => none) with
  | some (.begun id 4) => (match s.partsBad id with
    | some e => .fault s e.1 (withAcc accWrite e.1 e.2) rep
    | none => if (s.partsDone id).isSome then .status (s.dropAcc id) stDone 0 else .wait s)
  | _ =>
    match s.readJudged a i va 64 with
    | .wait s => .wait s
    | .bad s c d b => .fault s c d b
    | .ok s ws =>
      let req := ws.flatMap fun w => leBytes w.toNat 8
      match s.attestReason req with
      | some n => .status s stRefused n
      | none => let q := s.reportBytes req; q.1.writeReport s a i rep q.2

end Sys2Proof.Machine
end

