-- ==== Sys2Proof/Machine/Commit.lean ====
section
/-! DEFINITION. The commit of a block (R157-R161, R169, R185, R262-R272, R329, R334): quiescence, its judgement, the operations that act
at commit, and the effect of the exit. -/

namespace Sys2Proof.Machine

/-! ## Quiescence (R159) -/

/-- Does a CHL instruction wait only for its channel (R289)? -/
def State.awaitsChannel (s : State) (a : Agent) (op : Nat) (f : Fmt) (fedL : Bool) (sl : Slot) : Bool :=
  match chlOf op f with
  | none => false
  | some _ => sl.l.q.isEmpty && (match s.offered a op f sl .l with | some y => s.cycle < y.at0 | none => true) && (awaited op f fedL).all fun x => !(sl.fld x).q.isEmpty

/-- Is a slot's access held because a lower wave of its block has not fired (R305)? -/
def State.waveHeld (s : State) (a : Agent) (w : Win) (i : Nat) : Bool :=
  s.accs.any fun x => x.agent == a && x.seq == w.seq && x.slot == i && x.kind != .elem && x.kind != .fence
    && x.units.all (fun u => u.st == .waiting) && optB x.wave fun v => !s.wavesBelow a w v

/-- Does a FENCE that could fire wait for a lower wave of its block (R305, R315)? -/
def State.fenceHeld (s : State) (a : Agent) (w : Win) (op : Nat) (f : Fmt) : Bool :=
  op = 0x90 && optB f.wave fun v => !s.wavesBelow a w v

/-- Can a slot neither fire nor go on, whatever is already on its way? An access held by an open wave cannot (R305). -/
def State.slotQuiet (s : State) (a : Agent) (w : Win) (i : Nat) : Bool :=
  match w.slots[i]?, s.fieldsAt a w.baddr i with
  | some sl, some (op, f) =>
    let fed := lFed s a w.baddr w.slots.length i
    (match sl.st with
     | .pending => s.waveHeld a w i
     | .running => false
     | .waiting =>
       [Fld.l, .r, .p, .x].all (fun x => (sl.fld x).q.all fun y => Nat.ble y.at0 s.cycle) &&
       (match s.verdictAt a op f fed sl s.cycle with
        | .wait => !s.awaitsChannel a op f fed sl
        | .dead => true
        | .go => s.fenceHeld a w op f
        | _ => false)
     | _ => true)
  | _, _ => true

/-- Is a block quiescent? -/
def State.quiescent (s : State) (a : Agent) (w : Win) : Bool := (List.range w.slots.length).all (s.slotQuiet a w)

/-! ## The judgement (R159, R160) -/

/-- The instructions of a block that have fired and act at commit, in the order of their firing. -/
def insertByOrd (x : Nat × Nat × Fmt × Slot) : List (Nat × Nat × Fmt × Slot) → List (Nat × Nat × Fmt × Slot)
  | [] => [x]
  | y :: r => if x.2.2.2.ord < y.2.2.2.ord then x :: y :: r else y :: insertByOrd x r

/-- Slot, opcode, fields and slot state of each. -/
def State.lateOps (s : State) (a : Agent) (w : Win) : List (Nat × Nat × Fmt × Slot) :=
  (List.range w.slots.length).foldl (fun l i =>
    match w.slots[i]?, s.fieldsAt a w.baddr i with
    | some sl, some (op, f) => if sl.st == .fired && atCommit op f then insertByOrd (i, op, f, sl) l else l
    | _, _ => l) []

/-- The READ number of a target that is a register. -/
def targetReg (t : Target) : Option Nat := match t with | .sreg n => some n.val | .vreg n => some (32 + n.val) | _ => none

/-- Registers that receive a delivery at commit, once for each. -/
def lateRegs (ops : List (Nat × Nat × Fmt × Slot)) : List Nat := ops.filterMap fun o => targetReg o.2.2.1.ta

/-- Registers that the token of a FENCE still reaches: behind stores of its own block it comes with their performing (R315). -/
def State.fenceRegs (s : State) (a : Agent) (w : Win) : List Nat :=
  (s.accs.filter fun x => x.agent == a && x.seq == w.seq && x.kind == .fence).filterMap fun x =>
    match s.fieldsAt a w.baddr x.slot with | some (_, f) => targetReg f.ta | none => none

/-- Is a wave below WAVES left open? -/
def State.waveOpen (s : State) (a : Agent) (w : Win) : Bool :=
  let waves := hdrWaves (blockHeader (s.blockStore a) w.baddr)
  (List.range w.slots.length).any fun i =>
    match w.slots[i]?, s.fieldsAt a w.baddr i with
    | some sl, some (_, f) => (match f.wave with | some v => v < waves && !sl.resolved | none => false)
    | _, _ => false

/-- The class and cause with which a quiescent block faults; none where it commits. -/
def State.judgeBlock (s : State) (a : Agent) (w : Win) : Option (Nat × Nat) :=
  let late := lateRegs ((s.lateOps a w).filter fun o => !w.opDone o.1) ++ s.fenceRegs a w
  let mask := hdrWmask (blockHeader (s.blockStore a) w.baddr)
  if late.any (fun n => (w.regs.find n).isSome) || late.eraseDups.length < late.length then some (fcWmask, bcTwice)
  else if s.waveOpen a w then some (fcWmask, bcWave)
  else if (bitsOf mask 40).any fun n => (w.regs.find n).isNone && !late.contains n then some (fcWmask, bcUnwritten)
  else if w.exit.isNone then some (fcNoExit, bcNoExit)
  else none

/-! ## The register window (R169, R266, R267) -/

/-- Why a CALL or RET cannot commit: the cause of SPILL_LIMIT. -/
def TaskCtx.spillBad (t : TaskCtx) (op : Nat) : Option Nat :=
  if op = 0xA2 || op = 0xA3 then
    (if 6 ≤ t.depth && t.spilled ≤ t.depth - 6 && t.spilled = field t.spill 9 0 then some bcOver else none)
  else if op = 0xA4 then (if t.depth = 0 then some bcUnder else none)
  else none

/-- Bytes of the spill area of an agent, by group. -/
def State.spillAddr (s : State) (a : Agent) (n : Nat) : Nat :=
  let w := (s.task a).spill
  field w 23 21 * 65536 + 128 * (field w 20 12 + n)

/-- The sixteen registers of the group of a depth, as bytes. -/
def TaskCtx.groupBytes (t : TaskCtx) (d : Nat) : List Byte := (List.range 16).flatMap fun i => leBytes (t.getP (16 * (d % 8) + i)).toNat 8

/-- A task context with the registers of the group of a depth read back. -/
def TaskCtx.putGroup (t : TaskCtx) (d : Nat) (bs : List Byte) : TaskCtx :=
  (List.range 16).foldl (fun t i => t.setP (16 * (d % 8) + i) (word (leNat ((bs.drop (8 * i)).take 8)))) t

/-- CALL moves the window, with a spill where eight groups are resident; the spill engine is exempt from R54's check. -/
def State.windowCall (s : State) (a : Agent) : State :=
  let t := s.task a
  let s := if 6 ≤ t.depth && Nat.ble t.spilled (t.depth - 6) then
      ((s.localWrite a (s.spillAddr a t.spilled) (t.groupBytes (t.depth - 6))).localClean a (s.spillAddr a t.spilled) 128).modTask a
        fun t => { t with spilled := t.spilled + 1 }
    else s
  s.modTask a fun t => { t with depth := t.depth + 1 }

/-- The line of a poisoned group that RET would read back: the spill engine consumes it (R82). -/
def State.retPoison (s : State) (a : Agent) (op : Nat) : Option Nat :=
  let t := s.task a
  let at0 := s.spillAddr a (t.spilled - 1)
  if op = 0xA4 && t.depth - 1 < t.spilled && s.localUe a at0 128 then some at0 else none

/-- RET moves the window back, with a group read back where it is not resident. -/
def State.windowRet (s : State) (a : Agent) : State :=
  let t := s.task a
  let d := t.depth - 1
  if d < t.spilled then
    let at0 := s.spillAddr a (t.spilled - 1)
    let bs := (List.range 128).map fun i => s.localGet a (at0 + i)
    s.modTask a fun t => { t.putGroup d bs with depth := d, spilled := t.spilled - 1 }
  else s.modTask a fun t => { t with depth := d }

/-! ## Events (R329, R431) -/

/-- EVT at commit: delivered where its destination can accept. -/
def State.commitEvt (s : State) (a : Agent) (f : FmtS) (v : Word) : CommitRes :=
  let k := s.regionOf a
  let code := f.aux.toNat % 256
  let ln := (s.srcOf a).lognum
  let s1 := if (s.log ln).isSome then s.horizon ln 6 else s
  match fieldN f.sel.toNat 13 12 with
  | 0 =>
    if !s.hostReady || 1024 ≤ s.host.irqs.length then .wait s
    else .done { s1 with host := { s1.host with irqs := s1.host.irqs ++ [[word (code * 2 ^ 56 + handleOf k), v]] } } none
  | n =>
    let d := if n = 1 then a.die else 64
    let x := s.die d
    if 256 ≤ x.events.length || !x.evHeld.isEmpty then .wait s else .done (s1.post d (eventWord 8 code k) v) none

/-! ## Operations at commit (R334, R363) -/

/-- Is an operation at commit a release at pkg, or one that follows every access of its block (R127, R128, R329, R363, R453)? -/
def lateRelease (op : Nat) : Bool := op = 0xB6 || op = 0xC0 || op = 0xC3 || op = 0xC4 || (0xD3 ≤ op && op ≤ 0xD9) || op = 0xDC

/-- What an operation at commit does. -/
def State.commitOp (s : State) (a : Agent) (i op : Nat) (f : Fmt) (sl : Slot) : CommitRes :=
  let l := sl.tok .l
  let r := sl.tok .r
  match f with
  | .t g =>
    if op = 0x68 then .done (s.commitShape a g l.w64) (some (wordTok 0))
    else if op = 0xC0 then s.commitCopy a i g l
    else if op = 0xC1 then s.commitBatch g
    else if op = 0xC3 then s.commitLaunch a i l
    else if op = 0xC4 then s.commitSplice a i l r
    else if !g.aux.toNat.testBit 6 then s.commitCancel l
    else s.commitCancelCopies g
  | .s g =>
    if op = 0xB6 then s.commitEvt a g l.asWord
    else if op = 0xD1 then s.csrWrite a g.sel.toNat l.asWord
    else if op = 0xD5 then s.commitChload a i l.w64 r.asWord
    else if 0xD3 ≤ op && op ≤ 0xD9 then s.onRegion a i l.asWord fun s =>
      if op = 0xD3 then s.commitResume l.asWord
      else if op = 0xD4 then s.commitAbort l.asWord
      else if op = 0xD6 then s.commitChact l.asWord
      else if op = 0xD7 then s.commitPreempt a i l.asWord
      else if op = 0xD8 then s.commitCksave a i l.asWord r.w64
      else s.commitCkrest a i l.asWord r.w64
    else if op = 0xDC then s.commitAlmw a i l.asWord r.asWord
    else if op = 0xDD then s.commitBudget r.asWord
    else if op = 0xDE then s.commitSound a i
    else s.commitAttest a i l.w64 r.w64
  | _ => .done s none

/-- The marker that the flags and the generator of a block have been brought up to date before its operations at commit. -/
def opsOpen : Nat := 200

/-- An operation has been done: its token reaches its register, or leaves with the channel tokens of its firing (R334). -/
def State.opFinish (s : State) (a : Agent) (i : Nat) (f : Fmt) (sl : Slot) (tok : Option Token) : State :=
  let s := s.modWin a fun w => { w with ops := w.ops.put i (.done 0) }
  match tok with
  | none => s
  | some t =>
    match f.ta with
    | .chan j x =>
      let t := { t with color := s.chanColour a sl x }
      s.modWin a fun w => { w with outs := w.outs ++ [{ chan := j, tok := t, fired := sl.ord / 1024, slot := i }] }
    | g =>
      match targetReg g with
      | some n => s.modWin a fun w => { w with regs := w.regs.put n (regValue n t) }
      | none => s

/-- The status token of an operation on a region is an acquire at pkg for the effects that it reports (R363). -/
def State.opReports (s : State) (a : Agent) (op : Nat) : State := if 0xD3 ≤ op && op ≤ 0xD9 then s.acquireAt a 4 else s

/-- What running the operations at commit comes to: the state, and whether every one is done; or a fault of the block. -/
inductive LateRes where
  | go (s : State) (all : Bool)
  | fault (s : State) (slot fclass detail addr : Nat)

/-- Run the operations at commit that are not done, in order, as far as they go. -/
def State.runLate (s : State) (a : Agent) : List (Nat × Nat × Fmt × Slot) → LateRes
  | [] => .go s true
  | (i, op, f, sl) :: r =>
    match s.win a with
    | none => .go s false
    | some w =>
      if w.opDone i then State.runLate s a r
      else
        match s.commitOp a i op f sl with
        | .done s tok => State.runLate ((s.opReports a op).opFinish a i f sl tok) a r
        | .wait s => .go s false
        | .fault s c d x => .fault s i c d x

/-- Bytes of the record that an operation at commit reads, 0 where it reads none whose failure is a fault of its block (R366, R376, R377,
R443). -/
def recordBytes (op : Nat) : Nat := if op = 0xC3 || op = 0xC4 || op = 0xD5 then 128 else if op = 0xE0 then 64 else 0

/-- What judging the operations at commit comes to: none faults; a record is still on its way; the block faults. -/
inductive JudgeRes where
  | go (s : State)
  | wait (s : State)
  | fault (s : State) (slot fclass detail addr : Nat)

/-- Judge the records that operations at commit read before the first of them, or the block's own stores, has any effect: a block that
faults contributes nothing (R106, R159; log entry 102). What a judged record holds stays with the block. -/
def State.judgeRecords (s : State) (a : Agent) : List (Nat × Nat × Fmt × Slot) → JudgeRes
  | [] => .go s
  | (i, op, _, sl) :: r =>
    let judged := optB (s.win a) fun w => w.opDone i || (w.recs.find i).isSome
    if recordBytes op = 0 || judged then State.judgeRecords s a r
    else
      match s.readRecord a i (sl.tok .l).w64 (recordBytes op) with
      | .ok s ws => State.judgeRecords (s.modWin a fun w => { w with recs := w.recs.put i ws }) a r
      | .bad s c d b => .fault s i c d b
      | .wait s1 =>
        if optB (s1.win a) fun w => (match w.ops.find i with | some (.begun _ 1) => true | _ => false) then .wait s1
        else State.judgeRecords s a r

/-- A report that ATTEST could not write as things stand. -/
def State.lateFault (s : State) (a : Agent) (ops : List (Nat × Nat × Fmt × Slot)) : Option (State × Nat × Nat × Nat × Nat) :=
  (ops.filterMap fun o =>
    if o.2.1 ≠ 0xE0 || (match s.win a with | some w => w.opDone o.1 | none => true) then none
    else match s.commitOp a o.1 o.2.1 o.2.2.1 o.2.2.2 with
      | .fault s c d x => some (s, o.1, c, d, x)
      | _ => none).head?

/-- The judgement of a block's operations at commit, made before any of them begins. -/
def State.judgeLate (s : State) (a : Agent) (w : Win) (ops : List (Nat × Nat × Fmt × Slot)) : JudgeRes :=
  if (w.ops.find opsOpen).isSome then .go s
  else
    match s.judgeRecords a ops with
    | .go s => (match s.lateFault a ops with | some (s, i, c, d, x) => .fault s i c d x | none => .go s)
    | r => r

/-- A block's own stores are to perform before its operations at commit: should the block fault after all, its next attempt does
not perform them again (R108; DESIGN CHOICE, log entry 102). -/
def State.keepStores (s : State) (a : Agent) (seq : Nat) : State :=
  s.accs.foldl (fun s x =>
    if x.agent == a && x.seq == seq && !x.committed && (x.kind == .write || x.kind == .presence) then
      s.modWin a fun w => { w with kept := w.kept.put x.slot [], pnr := true }
    else s) s

/-- A block's own stores may perform from now on (R107, R159). -/
def State.freeStores (s : State) (a : Agent) (seq : Nat) : State :=
  { s with accs := s.accs.map fun x => if x.agent == a && x.seq == seq && x.kind != .elem then { x with committed := true } else x }

/-- Has an agent no access outstanding, but for what its operations at commit ask of another package? -/
def State.allPerformed (s : State) (a : Agent) : Bool := s.accs.all fun x => x.agent != a || x.kind == .elem

/-- The handle that the next operation at commit names where it is an operation on a region that has not begun (R363). -/
def Win.nextHandle (w : Win) (ops : List (Nat × Nat × Fmt × Slot)) : Option Nat :=
  match ops.find? fun o => !w.opDone o.1 with
  | some o => if 0xD3 ≤ o.2.1 && o.2.1 ≤ 0xD9 && o.2.1 != 0xD5 && (w.ops.find o.1).isNone then some ((o.2.2.2.tok .l).w64) else none
  | none => none

/-- The handle of the region that a helm core's block, ready to commit, acts on next. -/
def State.regionOpDue (s : State) (b : Agent) : Option Nat :=
  match s.win b with
  | some w =>
    if (match b with | .helm n => (s.helm n).ready | _ => false) && s.allPerformed b && !w.stopped && s.quiescent b w && (s.judgeBlock b w).isNone then
      w.nextHandle (s.lateOps b w)
    else none
  | none => none

/-- Must a helm core's operation on a region wait for that of a lower core in the same cycle (R361)? -/
def State.lowerFirst (s : State) (a : Agent) (ops : List (Nat × Nat × Fmt × Slot)) : Bool :=
  match a, (s.win a).bind fun w => w.nextHandle ops with
  | .helm _, some h => s.helms.any fun e => (Agent.helm e.1).rank < a.rank && s.regionOpDue (.helm e.1) == some h
  | _, _ => false

/-! ## The commit -/

/-- Does an instruction round under STO (R185)? -/
def State.drawsSto (s : State) (a : Agent) (op : Nat) (f : Fmt) : Bool :=
  let rm : Rm := match f with
    | .g g => if rmUsedG op g then g.rm else .rne
    | .i _ => if op = 0x3F || op = 0x40 then .dyn else .rne
    | .m _ => if op = 0x8F then .dyn else .rne
    | .t g => if op = 0x63 then Rm.ofCode (fieldN g.aux.toNat 4 2) else if op = 0x79 && g.ty.isFloat then .dyn else .rne
    | _ => .rne
  s.resolveRm a rm == .sto

/-- The flags merge, and the generator steps where the block holds an instruction that rounds under STO (R185, R187). -/
def State.settleTask (s : State) (a : Agent) (w : Win) : State :=
  let sto := (List.range w.slots.length).any fun i => match s.fieldsAt a w.baddr i with | some (op, f) => s.drawsSto a op f | none => false
  let s := s.modTask a fun t => { t with fflags := t.fflags ||| w.flags, gen := if sto then genStep w.gen0 else t.gen }
  s.modWin a fun w => { w with ops := w.ops.put opsOpen (.done 0) }

/-- Insert a channel token by the cycle of its firing, then by slot. -/
def insertOut (x : OutTok) : List OutTok → List OutTok
  | [] => [x]
  | y :: r => if x.fired < y.fired || (x.fired = y.fired && x.slot < y.slot) then x :: y :: r else y :: insertOut x r

/-- The channel tokens of a block in the order in which they leave (R159). -/
def sortOuts (l : List OutTok) : List OutTok := l.foldl (fun m x => insertOut x m) []

/-- Does every channel that a block sends on have a circuit: with the tokens of its firings and those of its operations at commit
(R154)? -/
def State.outsMapped (s : State) (a : Agent) (l : List OutTok) (ops : List (Nat × Nat × Fmt × Slot)) : Bool :=
  (l.all fun o => ((s.task a).outCircuit o.chan).isSome)
  && (ops.all fun o => match o.2.2.1.ta with | .chan j _ => ((s.task a).outCircuit j.val).isSome | _ => true)
  && !optB (s.win a) fun w => (List.range w.slots.length).any fun i =>
    match w.slots[i]?, s.fieldsAt a w.baddr i with
    | some sl, some (op, f) => s.bindUnmapped a op f sl
    | _, _ => false

/-- Of some release FENCEs that stand, the one behind all others in program order. -/
def lastFence (l : List Access) : Option Access :=
  l.foldl (fun b x => match b with
    | some y => if y.seq < x.seq || (y.seq = x.seq && y.pos ≤ x.pos) then some x else b
    | none => some x) none

/-- The cycle in which the instruction of a slot fired. -/
def Win.firedAt (w : Win) (i : Nat) : Nat := ((w.slots[i]?).getD .fresh).ord / 1024

/-- The channel tokens leave. A token sent after a FENCE whose release part still stands leaves with it (R114, R315): behind one of an
earlier block every token, behind one of the own block those fired in its cycle or later. -/
def State.sendOuts (s : State) (a : Agent) (w : Win) (l : List OutTok) : State :=
  match a with
  | .helm _ => s
  | .task d p _ =>
    let fences := s.accs.filter fun x => x.agent == a && x.kind == .fence
    let own := fences.filter fun x => x.seq == w.seq
    let after (o : OutTok) : Bool := own.any fun x => w.firedAt x.slot ≤ o.fired
    let go (s : State) (o : OutTok) : State :=
      match (s.task a).outCircuit o.chan with
      | some c =>
        let s := s.latchPut (cellKey d p) (64 * 4 + c) o.tok
        (match o.frees with | some col => s.freeColour (s.regionOf a) col | none => s)
      | none => s
    let now := l.takeWhile fun o => !after o
    let later := l.dropWhile fun o => !after o
    let s := match lastFence (fences.filter fun x => x.seq != w.seq) with
      | some x => s.modAcc x.id fun x => { x with outs := x.outs ++ now }
      | none => now.foldl go s
    match lastFence own with
    | some x => s.modAcc x.id fun x => { x with outs := x.outs ++ later }
    | none => s

/-- The task stops at a TRAP after the commit (R270). -/
def State.trapTask (s : State) (a : Agent) (f : FaultRec) (next : Nat) : State :=
  let s := s.modTask a fun t => { t with st := .halted, win := none, succ := none, after := some next, fault := some f }
  match a with
  | .task .. => (s.report (s.regionOf a) f false).traceEvent (s.regionOf a) 2 fcTrap
  | .helm n =>
    let s := s.modHelm n fun h => { h with ready := false }
    { s with readyBits := setDel s.readyBits (2277 + n) }

/-- WAYPT in a logged context: the task waits for the waypoint, and every input stream is gated (R136, R269). -/
def State.joinWaypoint (s : State) (a : Agent) (ln next : Nat) : State :=
  let s := s.modTask a fun t => { t with st := .active, win := none, succ := none, after := some next }
  match s.log ln with
  | none => s
  | some l =>
    let s := s.modLog ln fun l => { l with wayWait := l.wayWait ++ [a] }
    if l.wayWait.isEmpty then
      l.regions.foldl (fun s k => s.modRegion k fun r => { r with gate := true, gateStart := s.cycle }) s
    else s

/-- The exit takes effect (R262-R272). -/
def State.takeEffect (s : State) (a : Agent) (e : ExitRec) (f : FaultRec) : State :=
  if e.op = 0xA7 then s.modTask a fun t => { t with st := .idle, win := none, succ := none, after := none, depth := 0, spilled := 0 }
  else if e.op = 0xAA then s.trapTask a f e.next
  else if e.op = 0xA9 && (s.log (s.srcOf a).lognum).isSome then s.joinWaypoint a (s.srcOf a).lognum e.next
  else if e.op = 0xA8 then
    let s := match a with
      | .task d p _ => s.modCell (cellKey d p) fun c => { c with run := if c.turn = (s.task a).color then max c.run 64 else c.run }
      | .helm n => s.modHelm n fun h => { h with run := max h.run 64 }
    s.startBlock a e.next
  else s.startBlock a e.next

/-- Does a block hold a RETC that has fired (R272)? -/
def State.returns (s : State) (a : Agent) (w : Win) : Bool :=
  (List.range w.slots.length).any fun i => match w.slots[i]?, s.fieldsAt a w.baddr i with
    | some sl, some (op, _) => op = 0xA6 && sl.st == .fired
    | _, _ => false

/-- The token of a RETC frees the block's colour when it leaves (R163, R272). -/
def State.returnTok (s : State) (a : Agent) (w : Win) (col : Nat) (o : OutTok) : OutTok :=
  match s.fieldsAt a w.baddr o.slot with
  | some (op, _) => if op = 0xA6 then { o with frees := some col } else o
  | none => o

/-- The commit of a block whose operations are all done (R159). -/
def State.commitBlock (s : State) (a : Agent) (w : Win) (e : ExitRec) : State :=
  let f := s.faultOf a (some e.slot) fcTrap e.code 0
  let k := s.regionOf a
  let col := (s.task a).color
  let last := s.returns a w
  let s := w.regs.foldl (fun s r => match r.2 with | some v => s.modTask a fun t => t.writeReg r.1 v | none => s) s
  let s := if e.op = 0xA2 || e.op = 0xA3 then s.windowCall a else if e.op = 0xA4 then s.windowRet a else s
  let s := s.freeStores a w.seq
  let outs := sortOuts w.outs
  let s := s.sendOuts a w (if last then outs.map (s.returnTok a w col) else outs)
  let s := s.modTask a fun t => { t with fired := match a with | .task .. => (t.fired + w.count) % 2 ^ 64 | .helm _ => t.fired }
  (s.takeEffect a e f).moved k

/-- May a block of an agent commit: its task runs, and no full save or stopped helm core forbids it (R400)? -/
def State.mayCommit (s : State) (a : Agent) : Bool :=
  (s.task a).st == .active && (s.task a).fault.isNone &&
  (match a with
   | .helm n => (s.helm n).ready
   | .task .. =>
     (match s.regions.find (s.regionOf a) with
      | some r => (r.st == .active || r.st == .gating) && !optB (s.regions.find (s.mailKey (s.regionOf a))) (·.full)
      | none => false))

/-- Does a block hold a store that its context's log records? Its commit waits for that write (R138). -/
def State.logsStores (s : State) (a : Agent) (w : Win) : Bool :=
  (s.log (s.srcOf a).lognum).isSome &&
  s.accs.any fun x => x.agent == a && x.seq = w.seq && x.kind == .write && !x.loc && x.log && x.units.any fun u => u.attr.log

/-- The old value that the records of a replay hold for the next logged write of a word by an agent, where no other agent's access to
its line stands recorded before it. -/
def State.nextOld (s : State) (ln key wd c : Nat) : Option Nat :=
  match s.log ln with
  | none => none
  | some l =>
    let u := l.sub key
    let at0 (j : Nat) : Nat := (u.tail + j) % max 1 u.cap
    let isData (e : Nat) : Bool := fieldN e 63 60 = 1 && fieldN e 51 0 = 8 * wd
    let j := (List.range u.ahead).find? fun j =>
      let e := s.entryWord ln key (at0 j) 0
      isData e || (fieldN e 63 60 = 4 && fieldN e 51 0 / 128 = wd / 16 && fieldN (s.entryWord ln key (at0 j) 1) 48 32 != c)
    match j with
    | some j =>
      let e := s.entryWord ln key (at0 j) 0
      if isData e && fieldN e 56 56 = 0 then some (s.entryWord ln key (at0 j) 1) else none
    | none => none

/-- The log whose replay a block's stores would leave: one of them meets an old value other than the recorded one (R147). A mismatch
that other accesses bring about after the commit is found where the write performs (log entry 107). -/
def State.replayBad (s : State) (a : Agent) (w : Win) : Option Nat :=
  let ln := (s.srcOf a).lognum
  let wrong (u : AUnit) : Bool := u.attr.log && paPkg u.pa = s.pkgNum && (wordsOf u.pa u.size).any fun wd =>
    match s.nextOld ln (s.sliceOf (8 * wd)) wd (agentCode (some a)) with
    | some v => v != memNat s.mem (8 * wd) 8
    | none => false
  match s.log ln with
  | some l =>
    if l.replay && s.accs.any fun x => x.agent == a && x.seq == w.seq && x.kind == .write && !x.loc && x.log && x.units.any wrong
    then some ln else none
  | none => none

/-- Replay ends before a block that would diverge: its task stands halted there (R143, R147). -/
def State.divergeAt (s : State) (a : Agent) (ln : Nat) : State := (s.diverged ln).modTask a fun t => t.halt (s.firingNo a)

/-- One attempt to commit an agent's firing block. -/
def State.tryCommit (s : State) (a : Agent) : State :=
  match s.win a with
  | none => s
  | some w =>
    if w.stopped || !s.mayCommit a || !s.quiescent a w then s
    else
      match s.judgeBlock a w, w.exit with
      | some c, _ => s.blockFault a none c.1 c.2 0
      | none, none => s
      | none, some e =>
        match (s.task a).spillBad e.op, s.retPoison a e.op with
        | some c, _ => s.blockFault a (some e.slot) fcSpill c 0
        | none, some addr => s.blockFault a (some e.slot) fcPoison (memDetail accRead 4) addr
        | none, none =>
          let ops := s.lateOps a w
          match s.judgeLate a w ops with
          | .fault s i c d x => s.blockFault a (some i) c d x
          | .wait s => s
          | .go s =>
            match s.replayBad a w with
            | some ln => s.divergeAt a ln
            | none =>
            if !s.outsMapped a w.outs ops then s
            else
              let s := if (w.ops.find opsOpen).isSome then s else s.settleTask a w
              let rel := s.logsStores a w || !(s.fenceRegs a w).isEmpty || ops.any fun o => lateRelease o.2.1
              let s := if rel then (s.keepStores a w.seq).freeStores a w.seq else s
              if rel && !s.allPerformed a then s
              else if s.lowerFirst a ops then s
              else
                match s.runLate a ops with
                | .fault s i c d x => s.blockFault a (some i) c d x
                | .go s false => s
                | .go s true =>
                  match s.win a with
                  | some w => s.commitBlock a w e
                  | none => s

/-- BLOCK_COMMIT (R159): a quiescent firing block commits or faults; a commit that must wait is tried again. -/
def execBlockCommit (a : Agent) (s : State) : Host.Outcome State Fault Refusal := .next (s.tryCommit a)

/-- Does a commit wait with an operation that is not done? -/
def State.commitWaits (s : State) (a : Agent) (p : Nat → Bool) : Bool :=
  match s.win a with
  | none => false
  | some w => (w.ops.find opsOpen).isSome && (s.lateOps a w).any fun o => p o.2.1 && !w.opDone o.1

/-- EVT_DELIVER (R329): a commit that waits for an EVT's destination goes on once it accepts. -/
def execEvtDeliver (a : Agent) (s : State) : Host.Outcome State Fault Refusal :=
  if s.commitWaits a (· = 0xB6) then .next (s.tryCommit a) else .next s

/-- QUEUE_ROOM_CAPTURE (R356, R366): a commit that waits for room in a queue goes on once there is some. -/
def execQueueRoomCapture (a : Agent) (s : State) : Host.Outcome State Fault Refusal :=
  if s.commitWaits a (fun op => op = 0xC0 || op = 0xC3) then .next (s.tryCommit a) else .next s

end Sys2Proof.Machine
end

