-- ==== Sys2Proof/Machine/Bringup.lean ====
section
/-! DEFINITION. Bring-up and power: reset, functions that report ready or fail, the start of helm cores, retirement by the almanac,
and the clock and power gates of cells (R58, R79, R81, R177, R408, R427, R440, R449-R454). -/

namespace Sys2Proof.Machine

/-! ## Retirement (R451, R452) -/

/-- Entries of a kind at a place: their UNITs. -/
def almUnits (l : List (Word × Word)) (kind place : Nat) : List Nat :=
  ((l.filter fun e => field e.1 63 60 = kind && field e.1 47 40 = place).map fun e => field e.1 39 32).eraseDups

/-- The live lanes of UCIe link `j`: 16 to a module, 8 with one half retired, none with both. -/
def almLink (l : List (Word × Word)) (j : Nat) : Nat :=
  let us := almUnits l 4 j
  (List.range 32).foldl (fun n m => n + 16 - 8 * (bit (us.contains (2 * m)) + bit (us.contains (2 * m + 1)))) 0

/-- The live lanes of pod port `p`. -/
def almPort (l : List (Word × Word)) (p : Nat) : Nat := 8 - 4 * (almUnits l 5 p).length

/-- A die as the almanac leaves it: holes, retired rows, live channels. -/
def almDie (l : List (Word × Word)) (d : Nat) : Die :=
  { Die.fresh with
    holes := almUnits l 1 d
    rows := ((almUnits l 2 d).map (· / 16)).eraseDups
    chans := 2 ^ 32 - 1 - bitSet (almUnits l 3 d) }

/-- Live lanes of links and ports as the almanac leaves them. -/
def almLinks (l : List (Word × Word)) : List Nat := (List.range 116).map (almLink l) ++ (List.range 32).map (almPort l)

/-- RESET (R440, R449): what is kept is the signed image, the almanac, the monotonic store of leaves; a new encapsulation key is
made; everything else is as State.reset has it, each die with the retirements applied. -/
def execReset (s : State) : Host.Outcome State Fault Refusal :=
  .next { State.reset with
    cycle := s.cycle, agenda := s.agenda, free := s.free, image := s.image, leaf := s.leaf, ekey := s.ekey + 1, almanac := s.almanac
    pkgNum := s.image.pkgNum, links := almLinks s.almanac, dies := (List.range 64).map fun d => (d, almDie s.almanac d) }

/-! ## Functions that report ready (R435, R449) -/

/-- The almanac with an entry the boot firmware appends; its TIME is a free value (log entry 5). -/
def State.bootEntry (s : State) (kind place unit : Nat) : State :=
  let w := word (kind * 2 ^ 60 + 2 ^ 56 + place * 2 ^ 40 + unit * 2 ^ 32)
  if (s.almReason w).isSome then s
  else { s with almanac := s.almanac ++ [(w, Config.freeWord 40 s.free)], free := s.free + 1 }

/-- A function that fails its self-test is retired in this bring-up: a channel, whose die's window is compacted and whose directory
entries are unjudged again (R80, R87), a link with every lane, a pod port with both
halves. Nothing retires a fabric, an engine, the host port or a helm core: it never reports ready. -/
def State.retireFn (s : State) (fn : Nat) : State :=
  let s := { s with failedBits := setAdd s.failedBits fn }
  if 64 ≤ fn && fn < 2112 then
    let d := (fn - 64) / 32
    let c := (fn - 64) % 32
    let s := (s.bootEntry 3 d c).modDie d fun x => { x with chans := if x.chans.testBit c then x.chans - 2 ^ c else x.chans }
    { s with entries := s.entries.filter fun e => paDie (4096 * e.1) ≠ d || paPkg (4096 * e.1) ≠ s.pkgNum }
  else if 2112 ≤ fn && fn < 2228 then
    let s := (List.range 64).foldl (fun s u => s.bootEntry 4 (fn - 2112) u) s
    { s with links := listSet s.links (fn - 2112) 0 }
  else if 2244 ≤ fn && fn < 2276 then
    let s := (s.bootEntry 5 (fn - 2244) 0).bootEntry 5 (fn - 2244) 1
    { s with links := listSet s.links (fn - 2128) 0 }
  else s

/-- May a function fail its self-test? Not the last live channel of a die whose fabric has reported ready: a fabric without channels never
reports ready (R79, R452). -/
def State.mayFail (s : State) (fn : Nat) : Bool :=
  !(64 ≤ fn && fn < 2112) || !s.readyBits.contains ((fn - 64) / 32) || (s.die ((fn - 64) / 32)).chans ≠ 2 ^ ((fn - 64) % 32)

/-- What the checker is told of the fill of a helm core: its own die's ports (R225, R228, R454). -/
def State.helmEnv (s : State) (core : Nat) : CheckEnv :=
  { priv := true, helm := true, core := true, rings := [], badPorts := if core < 256 then (s.die (core / 4)).lostPorts else [] }

/-- May a function report ready: known, its unit not retired, not failed, with a verified image (R440, R449, R452)? A helm core
needs a program whose blocks the checker accepts (R177). -/
def State.canReady (s : State) (fn : Nat) : Bool :=
  Nat.ble fn 2540 && s.image.verified && !s.readyBits.contains fn && !s.failedBits.contains fn &&
  (if fn < 64 then (s.die fn).alive
   else if fn < 2112 then (s.die ((fn - 64) / 32)).chans.testBit ((fn - 64) % 32)
   else if fn < 2228 then s.linkLanes (fn - 2112) != 0
   else if 2244 ≤ fn && fn < 2276 then s.linkLanes (fn - 2128) != 0
   else if 2277 ≤ fn then
     (match s.image.progs.find (fn - 2277) with
      | some p => (checkImage (s.helmEnv (fn - 2277)) p.1 (8 * p.1.length)).isNone && (blockStarts p.1).contains p.2.1
      | none => false)
   else true)

/-- The ring header as firmware writes it before the host port is ready (R427). -/
def State.ringInit (s : State) : State :=
  s.plainWrite 0 s.ringBase (wordBytes [0, 0, s.image.clg2, 0])

/-- FUNCTION_READY (R449): a function that passes its self-test may be used from now on; one that fails is retired. -/
def execFunctionReady (fn : Nat) (pass : Bool) (s : State) : Host.Outcome State Fault Refusal :=
  if !s.canReady fn then .next s
  else if !pass then .next (if s.mayFail fn then s.retireFn fn else s)
  else
    let s := { s with readyBits := setAdd s.readyBits fn }
    if fn = 2276 then .next { s.ringInit with host := { s.host with ready := true } }
    else if 2277 ≤ fn then
      (match s.image.progs.find (fn - 2277) with
       | some p => .next (s.modHelm (fn - 2277) fun _ => { Helm.fresh with ready := true, blocks := p.1, entry := p.2.1, spill := p.2.2 })
       | none => .next s)
    else .next s

/-- HELM_START (R177): a ready core that has not started becomes ACTIVE on its entry block, registers zero, colour 0. -/
def execHelmStart (core : Nat) (s : State) : Host.Outcome State Fault Refusal :=
  let h := s.helm core
  if h.ready && h.task.st == .unbound then
    .next ((s.modHelm core fun h => { h with task := { TaskCtx.fresh with spill := h.spill, entry := h.entry } }).startBlock (.helm core) h.entry)
  else .next s

/-- FUNCTION_FAILURE (R450): the ready bit clears until reset. A channel keeps its place in L and its accesses fail (R81); a pod
port's plane is gone (R436); a helm core stops. -/
def execFunctionFailure (fn : Nat) (s : State) : Host.Outcome State Fault Refusal :=
  if !s.readyBits.contains fn then .next s
  else
    let s := { s with readyBits := setDel s.readyBits fn, failedBits := setAdd s.failedBits fn }
    if 64 ≤ fn && fn < 2112 then .next (s.modDie ((fn - 64) / 32) fun x => { x with failed := x.failed ||| 2 ^ ((fn - 64) % 32) })
    else if 2244 ≤ fn && fn < 2276 then .next { s with lastPlane := fn - 2244 }
    else if fn = 2276 then .next { s with host := { s.host with ready := false } }
    else if 2277 ≤ fn then
      .next (s.modHelm (fn - 2277) fun h => { h with ready := false, task := { h.task with st := if h.task.st == .active then .halted else h.task.st } })
    else .next s

/-! ## The gates of a cell (R408) -/

/-- Can some task of a cell issue? -/
def State.cellCanIssue (s : State) (key : Nat) : Bool :=
  (s.cell key).tasks.any fun e => !(s.candsOf (.task (key / 256) (key % 256) e.1)).isEmpty

/-- CELL_CLOCK_GATE (R408): after 16 cycles in which nothing arrives and nothing can issue. -/
def execCellClockGate (cell : Nat) (s : State) : Host.Outcome State Fault Refusal :=
  let c := s.cell cell
  let quiet := c.inbox.all fun e => e.2.all fun y => y.at0 + 16 ≤ s.cycle
  if !c.gated && c.powered && Nat.ble (c.lastBusy + 16) s.cycle && quiet && !s.cellCanIssue cell then
    .next (s.modCell cell fun c => { c with gated := true })
  else .next s

/-- Does a token wait to be delivered to the block engine of a cell: on a circuit that ends there, or a notification? -/
def State.tokenWaits (s : State) (cell : Nat) : Bool :=
  let c := s.cell cell
  (c.cctxs.any fun e => e.2.st == .active && e.2.routes.any fun r =>
    (toEngine (rOutA r) || toEngine (rOutB r)) && (List.range (rInputs r)).any fun i => !(c.latch.get (rIn r i) []).isEmpty)
  || ((s.die (cell / 256)).handlers.any fun e => !e.2.queue.isEmpty &&
        (match s.regions.find e.2.region with | some r => r.keys.head? == some cell | none => false))

/-- CELL_WAKE (R408): a token that has come wakes the cell, which counts as movement. -/
def execCellWake (cell : Nat) (s : State) : Host.Outcome State Fault Refusal :=
  if (s.cell cell).gated && s.tokenWaits cell then
    let s := s.modCell cell fun c => { c with gated := false, lastBusy := s.cycle }
    .next ((s.cell cell).cctxs.foldl (fun s e => if e.2.st == .active then s.moved e.2.region else s) s)
  else .next s

/-- CELL_POWER_GATE (R58, R408): a cell that holds no configuration context, in no region's rectangle, loses its tiles' bytes and
their tags. -/
def execCellPowerGate (cell : Nat) (s : State) : Host.Outcome State Fault Refusal :=
  let c := s.cell cell
  let held := s.regions.any fun e => (e.2.st == .active || e.2.st == .gating || e.2.st == .loaded) && e.2.keys.contains cell
  if c.powered && !held && c.cctxs.all (fun e => e.2.st == .free) then
    .next (s.modCell cell fun c => { c with
      powered := false, shapes := [], tasks := [], mat := .fresh
      tiles := c.tiles.map fun (e : Nat × Tile) => (e.1, { e.2 with mem := [], poison := [], wasBuf := false, tagged := false, tagAsid := 0, tagKey := 0, lines := [] }) })
  else .next s

end Sys2Proof.Machine
end

