-- ==== Sys2Proof/Machine/Host.lean ====
section
/-! DEFINITION. The host port: frames of messages, interrupts, and the messages that the resident command program performs (R425-R431,
R433, R438, R443, R444). Every frame that comes from an address the site record does not list is dropped before it gets here. -/

namespace Sys2Proof.Machine

/-! ## Frames from the host (R425, R426, R429) -/

/-- Word `i` of a byte string. -/
def byteWord (bs : List Byte) (i : Nat) : Nat := leNat ((bs.drop (8 * i)).take 8)

/-- FKIND of a frame. -/
def frameKind (bs : List Byte) : Nat := fieldN (byteWord bs 0) 43 40

/-- Does a host frame keep to the table of R425? -/
def frameOk (bs : List Byte) : Bool :=
  let w := byteWord bs 0
  let k := frameKind bs
  Nat.ble 32 bs.length && Nat.ble (bs.length - 32) 8920 && fieldN w 63 48 == 0xFA5C && fieldN w 47 44 == 1 && (k == 1 || k == 5 || k == 7)
  && fieldN w 39 32 == 0 && fieldN w 31 16 == bs.length - 32 && fieldN w 15 4 == 0 && (k == 7 || fieldN w 3 0 == 0)
  && byteWord bs 2 == 0 && byteWord bs 3 == 0
  && (k != 1 || ((bs.length - 32) % 256 == 0 && Nat.ble 1 ((bs.length - 32) / 256) && Nat.ble ((bs.length - 32) / 256) 34))
  && (k != 7 || (bs.length - 32) % 16 == 0)

/-- A NAK: 1 LAPPED, 2 GAP, 3 FORMAT; the event of its name is kept in RINGST. -/
def State.nak (s : State) (c : Nat) : State := (s.ringFlag (2 ^ (c - 1))).sendFrame 3 c []

/-- The messages from `j` on are written to their slots. -/
def State.putSlots (s : State) (bs : List Byte) (next k : Nat) : List Nat → State
  | [] => s
  | j :: r =>
    let s := match s.homeWrite srcHost attrPlain false (s.slotAt (next + j - k)) ((bs.drop (32 + 256 * j)).take 256) with
      | .done s => s
      | _ => s
    State.putSlots s bs next k r

/-- What the agent does with a MSG frame that keeps to its table (R429). One whose slots are out of reach waits (R449). -/
def State.takeMsg (s : State) (bs : List Byte) : State :=
  let m := (bs.length - 32) / 256
  let next := s.rNext
  let k := (next + 2 ^ 32 - fieldN (byteWord bs 1) 63 32) % 2 ^ 32
  if 2 ^ 31 ≤ k then s.nak 2
  else if m ≤ k then s.sendFrame 2 0 []
  else if 2 ^ s.rClg2 < (next + m - k + 2 ^ 32 - s.rIdx) % 2 ^ 32 then s.nak 1
  else if (List.range (m - k)).any fun i => !s.homeReady (s.slotAt (next + i)) then s
  else
    let s := s.putSlots bs next k ((List.range m).drop k)
    (s.ringPut 1 (next + m - k)).sendFrame 2 0 []

/-- HOST_MSG_FRAME (R429): a frame that breaks its table is answered with NAK FORMAT; another kind is not this event. -/
def execHostMsgFrame (bytes : List Byte) (s : State) : Host.Outcome State Fault Refusal :=
  if !s.agentReady then .next s
  else if !frameOk bytes then .next (s.nak 3)
  else if frameKind bytes = 1 then .next (s.takeMsg bytes)
  else .next s

/-- SNDREQ (R433). -/
def execSndreq (bytes : List Byte) (s : State) : Host.Outcome State Fault Refusal :=
  if !s.agentReady then .next s
  else if !frameOk bytes then .next (s.nak 3)
  else if frameKind bytes = 5 then .next s.startSounding
  else .next s

/-- IRQ_FRAME (R431): one frame for the oldest interrupt, with the next ISEQ; for a logged context it is a horizon (R426). -/
def execIrqFrame (s : State) : Host.Outcome State Fault Refusal :=
  match s.host.irqs with
  | [] => .next s
  | ws :: r =>
    if !s.agentReady then .next s
    else
      let n := (s.host.iseq + 1) % 2 ^ 32
      let s := { s with host := { s.host with irqs := r, iseq := n } }
      let ln := match (ws.head?).bind fun w => keyOfHandle (w &&& 0xFFFFFFFFFFFFFF) with | some k => s.logOf k | none => 0
      let s := if (s.log ln).isSome then s.horizon ln 1 else s
      .next (s.sendFrame 4 0 (wordBytes ((ws.map (·.toNat)) ++ [n])))

/-! ## The command program (R430) -/

/-- The core that runs it: helm core 0 of io0. -/
def cmdCore : Nat := 256

/-- The words of the message the command program takes next; none while there is none, or it does not run. -/
def State.message (s : State) : Option (List Word) :=
  let at0 := s.slotAt s.rIdx
  if !s.agentReady || !(s.helm cmdCore).ready || s.rNext = s.rIdx || !s.homeReady at0 then none
  else
    some ((List.range 32).map fun i => word (s.natAs 0 (at0 + 8 * i) 8))

/-- A message has been performed: its REPLY leaves, then RIDX is stored. -/
def State.reply (s : State) (w : List Word) (status reason : Nat) (data : List Byte) : State :=
  let s := s.sendFrame 9 0 (wordBytes [field (pw w 0) 31 0, (statusWord status reason).toNat] ++ data)
  let s := { s with host := { s.host with msgAcc := none } }
  let core : Agent := .helm cmdCore
  match s.homeWrite (s.srcOf core) attrPlain false s.ringBase (leBytes ((s.rIdx + 1) % 2 ^ 32) 8) with
  | .done s => s
  | _ => s

/-- Perform the next message where it has this kind. A reserved bit refuses it. -/
def State.onMessage (s : State) (kind : Nat) (bad : List Word → Bool) (go : State → List Word → State) : Host.Outcome State Fault Refusal :=
  match s.message with
  | none => .next s
  | some w =>
    let k := field (pw w 0) 63 56
    if k = 0 || 9 < k then .next (s.reply w stRefused 1 [])
    else if k ≠ kind then .next s
    else if field (pw w 0) 55 32 ≠ 0 || bad w then .next (s.reply w stRefused 1 [])
    else .next (go s w)

/-- How the command program's accesses leave: physical, as helm core 0 of io0. -/
def State.cmdVia (s : State) (acc : Nat) : Via :=
  let a : Agent := .helm cmdCore
  { port := a.port, cfg := s.cfgFor a, acc := acc, src := { s.srcOf a with agent := none }, region := 0, agent := noAgent, seq := 0, rel := false, sc := 3 }

/-- Answers that a message has had from another package; none while one is due. -/
def State.msgGot (s : State) : Option (List AUnit) := match s.host.msgAcc with | some id => s.partsDone id | none => some []
/-- The state without the access of a message. -/
def State.msgClose (s : State) : State :=
  match s.host.msgAcc with | some id => { s.dropAcc id with host := { s.host with msgAcc := none } } | none => s

/-- Read bytes at a PA for a message; `bad` is what an access that fails comes to, with its class. -/
def State.msgRead (s : State) (pa n : Nat) (bad : State → Nat → State) (ok : State → List Byte → State) : State :=
  match s.msgGot with
  | none => s
  | some us =>
    match s.readBytes (s.cmdVia accRead) us (wordParts pa n) with
    | .ok s bs => ok s.msgClose bs
    | .wait s => s
    | .bad s c _ _ => bad s.msgClose c
    | .need s new =>
      let s := s.msgClose
      { s with host := { s.host with msgAcc := some s.nextAcc } }.openParts noAgent (us ++ new)

/-- Write bytes at a PA for a message. -/
def State.msgWrite (s : State) (pa : Nat) (bs : List Byte) (bad : State → Nat → State) (ok : State → State) : State :=
  match s.host.msgAcc with
  | some id => (match s.partsBad id with
    | some e => bad s.msgClose e.1
    | none => if (s.partsDone id).isSome then ok s.msgClose else s)
  | none =>
    let r := s.runStores (s.cmdVia accWrite) (writesOf pa bs)
    match r.bad, r.full with
    | some e, _ => bad s e.1
    | none, some (ln, key, held) => s.foreignFull ln key (Agent.helm cmdCore).die held
    | none, none =>
      if !r.rest.isEmpty then s
      else if r.us.isEmpty then ok r.s
      else { r.s with host := { r.s.host with msgAcc := some r.s.nextAcc } }.openParts noAgent r.us

/-- MSG_LAUNCH (R430): the record in words 2 to 17; OWNCFG must be 1. -/
def execMsgLaunch (s : State) : Host.Outcome State Fault Refusal :=
  s.onMessage 1 (fun w => !rOwn (w.drop 2)) fun s w =>
    let a : Agent := .helm cmdCore
    match s.capture (s.cfgFor a) 0 ((w.drop 2).take 16) with
    | some (s, id) => s.reply w stDone 0 (leBytes id 8)
    | none => s

/-- MSG_COPY (R430): the descriptor in words 2 to 9. -/
def execMsgCopy (s : State) : Host.Outcome State Fault Refusal :=
  s.onMessage 2 (fun w => field (pw w 1) 63 6 ≠ 0) fun s w =>
    let a : Agent := .helm cmdCore
    let q := field (pw w 1) 5 0
    if 256 ≤ (s.copyq q).open then s
    else (s.addCopy q (s.cfgFor a) 0 false (.ok ((w.drop 2).take 8))).reply w stDone 0 (leBytes ((s.copyq q).batch % 2 ^ 32) 8)

/-- MSG_WAITB (R430): closes the open batch if it holds a copy, and answers once the copies covered have ended (R359). -/
def execMsgWaitb (s : State) : Host.Outcome State Fault Refusal :=
  s.onMessage 3 (fun w => field (pw w 1) 63 6 ≠ 0) fun s w =>
    let q := field (pw w 1) 5 0
    let x := s.copyq q
    let s := if x.copies.any fun c => c.batch = x.batch then s.modCopyq q fun x => { x with batch := x.batch + 1 } else s
    let b := waitbBound (s.copyq q).batch (pw w 2).toNat
    let cs := (s.copyq q).copies.filter fun c => c.batch < b
    if cs.any fun c => c.st ≠ 3 then s
    else
      let v := match cs.find? fun c => c.fail.isSome with | some c => c.result.toNat | none => 0
      s.reply w stDone 0 (leBytes v 8)

/-- Is LEN of a WRITE or READ message out of range? -/
def badLen (w : List Word) : Bool := (pw w 2).toNat = 0 || 224 < (pw w 2).toNat

/-- MSG_WRITE (R430). -/
def execMsgWrite (s : State) : Host.Outcome State Fault Refusal :=
  s.onMessage 4 badLen fun s w =>
    let bs := ((w.drop 4).flatMap fun x => leBytes x.toNat 8).take (pw w 2).toNat
    s.msgWrite (pw w 1).toNat bs (fun s c => s.reply w stFailed c []) fun s => s.reply w stDone 0 []

/-- MSG_READ (R430). -/
def execMsgRead (s : State) : Host.Outcome State Fault Refusal :=
  s.onMessage 5 badLen fun s w =>
    s.msgRead (pw w 1).toNat (pw w 2).toNat (fun s c => s.reply w stFailed c []) fun s bs => s.reply w stDone 0 bs

/-! ## Keys, the pod table, attestation (R438, R443, R444) -/

/-- The entry that a blob's secret makes: XTS key, seal key, debug digest. -/
def keyEntry (owner : Word) (bs : List Byte) : KeyEntry :=
  { owner := owner, xts := BitVec.ofNat 512 (leNat (bs.take 64)), sealKey := BitVec.ofNat 256 (leNat ((bs.drop 64).take 32))
    digest := BitVec.ofNat 256 (leNat ((bs.drop 96).take 32)), sctr := 0 }

/-- KEYLOAD (R444): refused with 0x10 for a LOADED id, 0x12 for a blob that cannot be read, 0x11 for one that does not open. -/
def execKeyload (s : State) : Host.Outcome State Fault Refusal :=
  s.onMessage 6 (fun w => (pw w 1).toNat = 0 || 255 < (pw w 1).toNat) fun s w =>
    let k := (pw w 1).toNat
    if (s.keys.find k).isSome then s.reply w stRefused 0x10 []
    else
      s.msgRead (pw w 3).toNat 1712 (fun s _ => s.reply w stRefused 0x12 []) fun s bs =>
        match Config.openBlob s.ekey bs (wordBytes [k, (pw w 2).toNat, s.pkgNum]) with
        | some sec => { s with keys := s.keys.put k (keyEntry (pw w 2) sec) }.reply w stDone 0 []
        | none => s.reply w stRefused 0x11 []

/-- Is a key in use: by a configuration context, or by a line that carries its tag? -/
def State.keyUsed (s : State) (k : Nat) : Bool :=
  s.cells.any (fun e => e.2.cctxs.any fun x => x.2.keyid = k && x.2.st != .free) || s.regions.any (fun e => e.2.cfg.keyid = k
    && !(e.2.st == .done || e.2.st == .aborted || e.2.st == .refused)) || s.ktag.any fun e => e.2 = k

/-- KEYREL (R444): refused with 0x13 while the key is in use. -/
def execKeyrel (s : State) : Host.Outcome State Fault Refusal :=
  s.onMessage 7 (fun w => (pw w 1).toNat = 0 || 255 < (pw w 1).toNat) fun s w =>
    let k := (pw w 1).toNat
    if s.keyUsed k then s.reply w stRefused 0x13 [] else { s with keys := s.keys.drop k }.reply w stDone 0 []

/-- PODCFG (R438): the new table of 512 masks, the own package's ignored; every plane is in use again (R437),
and what no plane could carry is sent. -/
def execPodcfg (s : State) : Host.Outcome State Fault Refusal :=
  s.onMessage 8 (fun _ => false) fun s w =>
    s.msgRead (pw w 1).toNat 2048 (fun s c => s.reply w stFailed c []) fun s bs =>
      let t := (List.range 512).map fun q => if q = s.pkgNum then (s.podTable[q]?).getD 0 else leNat ((bs.drop (4 * q)).take 4)
      let s := s.reply w stDone 0 []
      let s := { s with podTable := t, planesOut := [] }
      { s with accs := s.accs.map fun x => { x with units := x.units.map fun u => if u.st.held32 then s.onPod u else u } }

/-- MSG_ATTEST (R430, R443): request in words 2 to 9, report at the PA of word 1. -/
def execMsgAttest (s : State) : Host.Outcome State Fault Refusal :=
  s.onMessage 9 (fun _ => false) fun s w =>
    let req := ((w.drop 2).take 8).flatMap fun x => leBytes x.toNat 8
    match s.attestReason req with
    | some n => s.reply w stRefused n []
    | none =>
      let q := s.reportBytes req
      let s := if s.host.msgAcc.isSome then s else q.1
      s.msgWrite (pw w 1).toNat q.2 (fun s c => s.reply w stFailed c []) fun s => s.reply w stDone 0 []

end Sys2Proof.Machine
end

