-- ==== Sys2Proof/Machine/Pod.lean ====
section
/-! DEFINITION. Pod ports: accesses of other packages, acknowledgements, and planes that time out (R66, R436, R437). -/

namespace Sys2Proof.Machine

/-! ## Accesses that come from another package (R437) -/

/-- One result after another. -/
def PerfRes.after (r : PerfRes) (f : State → Nat → PerfRes) : PerfRes :=
  match r with
  | .done s v => f s v
  | r => r

/-- A received access: `kind` holds its opcode in [7:0], TY in [11:8], what its translation supplied (R41), KIND in [13:12], LOG in [15],
TTY in [30:27] and TRACK in [31]; a vector in [14], the rounding mode of AFADD in [18:16], a claim of an ONCE word in [19], its plane in
[24:20], the fill of a claim in [25], the release of one in [26]; and above [31:0] word 5 of the descriptor of a copy (opcode 0xC0, a
write that combines), the block that claims, for a claim, its fill and its release, or, for another write, whether its bytes carry a
poison mark (R82). The compare value of ACAS stands above the data. -/
def State.podAccess (s : State) (kind pa size data : Nat) : Access :=
  let op := kind % 256
  { s.elemAcc noAgent 0 0 0 false pa size data with
    op := op, kind := kindOfOp op, ty := Ty.ofCode (fieldN kind 11 8), vec := kind.testBit 14
    data := BitVec.ofNat 2048 (data % 2 ^ (8 * size)), exp := data / 2 ^ (8 * size) }

/-- The attributes its sender's translation gave it. -/
def podAttr (kind : Nat) : Attr :=
  { attrPlain with kind := fieldN kind 13 12, log := kind.testBit 15, tty := fieldN kind 30 27, track := kind.testBit 31 }

/-- The block of another package for which a claim is made. -/
def podBlock (kind : Nat) : Nat := kind / 2 ^ 32

/-- Its source: the I/O die of the pod port of its plane (R16, R436). -/
def podSrc (kind : Nat) : Src := srcForeign (64 + fieldN kind 24 23)

/-- A claim, or the release of one, for a block of another package (R73, R125): granted where the word is empty, refused where the
same block claims it already or it is full, standing in the order of arrival where another claims it. -/
def State.podClaim (s : State) (kind pa : Nat) : PerfRes :=
  let wd := pa / 8
  let id := podBlock kind
  if kind.testBit 26 then
    .done { s with claims := s.claims.filter fun c => !(c.word == wd && c.agent == noAgent && c.seq == id)
                   accs := s.accs.filter fun y => !(y.op = opClaim && y.seq = id && y.units.any fun u => u.pa / 8 = wd) } 0
  else
    let x : Access := { s.elemAcc noAgent 0 id 0 false pa 8 0 with op := opClaim, exp := kind }
    match s.claim x wd none with
    | .taken s => .done { s with nextAcc := s.nextAcc + 1 } 0
    | .refill => .fail fcDoubleAssign 3
    | .back => .wait s
    | .held =>
      let us := x.units.map fun u => { u with st := .held, pa := pa, attr := { podAttr kind with kind := 1 }, old := s.claimTurn wd }
      .wait { s with accs := s.accs ++ [{ x with units := us }], nextAcc := s.nextAcc + 1 }

/-- A ring operation at the header's home, with its slot beside it (R320). -/
def State.podRing (s : State) (src : Src) (x : Access) (attr : Attr) (pa : Nat) : PerfRes :=
  (s.readAt src attr false pa 128).after fun s v =>
    match (ringHeader v x.slotBytes).bind fun r => ringMove x.op (x.data.toNat % 65536) r with
    | none => .wait s
    | some m =>
      let head (s : State) (res : Nat) : PerfRes :=
        if x.op = 0x98 then .done s res
        else (s.writeAt src attr false pa (leBytes (ringWords v m.st) 16)).after fun s _ => .done s res
      match m.slot with
      | none => head s m.result
      | some k =>
        let at0 := pa + 128 + k * x.slotBytes
        if x.op = 0x95 then (s.writeAt src attr false at0 (leBytes x.data.toNat x.slotBytes)).after fun s _ => head s m.result
        else (s.readAt src attr false at0 x.slotBytes).after head

/-- A received access performs at the place of an access from outside the die (R66, R437). A class-tagged read, of opcode 0x60, answers
with a directory tile and its entry at one point (R95). -/
def State.podPerform (s : State) (x : Access) (kind pa size : Nat) : PerfRes :=
  let attr := podAttr kind
  let src := podSrc kind
  let full := (wordsOf pa size).all s.presence.contains
  let claimed := s.claims.any fun c => (wordsOf pa size).contains c.word && !(kind.testBit 25 && c.agent == noAgent && c.seq == podBlock kind)
  if kind.testBit 19 || kind.testBit 26 then s.podClaim kind pa
  else if kind % 256 = 0xC0 then
    s.rmwAt src attr pa size fun old => some (accWord [0, 0, 0, 0, 0, word (kind / 2 ^ 32)] size (x.data.toNat + x.exp * 2 ^ (8 * size)) old)
  else
  if kind % 256 = 0x60 then
    match s.ueAt (pa / 4096 * 4096) 4096 with
    | some m => .fail fcPoison m
    | none => .done s (s.natAs 0 (pa / 4096 * 4096) 4096 + 2 ^ 32768 * (s.dirEntry (pa / 4096)).toNat)
  else
  if isDir x.op then s.dirPerf x { va := pa, size := size, st := .issued, pa := pa / 4096 * 4096, attr := attr, val := 0, old := 0, via := none }
  else
  match x.kind with
  | .read | .mwait =>
    if (attr.kind = 1 || (attr.kind = 2 && x.op = 0x84)) && !full then .wait s
    else (s.readAt src attr false pa size).after fun s v => if x.kind == .read || x.satisfied v then .done s v else .wait s
  | .write =>
    if attr.kind = 1 && claimed then .wait s
    else if attr.kind = 1 && !(wordsOf pa size).all (fun w => !s.presence.contains w) then .fail fcDoubleAssign 3
    else
      (s.writeAt src attr (attr.kind = 1 || (attr.kind = 2 && x.op = 0x85)) pa (leBytes x.data.toNat size)).after fun s v =>
        let s := if attr.kind ≠ 1 && kind.testBit 32 then s.markLine (pa / 128) else s
        .done { s with claims := s.claims.filter fun c =>
          !(attr.kind = 1 && c.agent == noAgent && c.seq == podBlock kind && (wordsOf pa size).contains c.word) } v
  | .presence =>
    if claimed then .wait s
    else (s.clearWords src attr ((wordsOf pa size).filter s.presence.contains)).perf s fun s => .done s 0
  | .rmw =>
    if x.op = 0x8F then
      s.rmwAt src attr pa size fun old => some (floatRes x.ty (Rm.ofCode (fieldN kind 18 16)) false 1
        (addNum (Rm.ofCode (fieldN kind 18 16)) (Num.decode x.ty old) (Num.decode x.ty x.data.toNat))).bits
    else s.rmwAt src attr pa size fun old => (s.rmwValue x old).1
  | .ring => s.podRing src x attr pa
  | .fence | .range | .elem => .done s 0

/-- The acknowledgement of a received access leaves. -/
def State.podAcked (s : State) (kind pa data fclass : Nat) : State :=
  { s with podAcks := s.podAcks ++ [{ kind := kind, pa := pa, data := data, fclass := fclass }] }

/-- POD_ACCESS_RECEIVE (R437): performed and acknowledged; one that cannot perform yet waits at its port, and arrives
again, but for a claim that stands in the order of its word. An offset above the home die's populated window is NOPHYS (R30). -/
def execPodAccessReceive (kind pa size data : Nat) (s : State) : Host.Outcome State Fault Refusal :=
  if paPkg pa ≠ s.pkgNum || 2 ^ 52 ≤ pa || size = 0 then .next s
  else if (s.physCheck pa).isSome then .next (s.podAcked kind pa ((s.physCheck pa).getD 0) fcNotMapped)
  else if !s.homeReady pa then .next s
  else
    match s.podPerform (s.podAccess kind pa size data) kind pa size with
    | .done s v => .next (s.podAcked kind pa v 0)
    | .fail c m => .next (s.podAcked kind pa m c)
    | .wait s => .next s
    | .full ln key held => .next (s.foreignFull ln key (podSrc kind).die held)
    | .diverge ln => .next (s.diverged ln)
    | .pod _ _ => .next s

/-! ## Answers to this package's accesses -/

/-- The parts of an access of no task have all been answered: a write-back, a release or a write of the trace is over, which stops
the trace where it failed (R420); claims that were granted after their
block had let go of them are released (R73). -/
def State.ackedAll (s : State) (id : Nat) : State :=
  match s.acc? id with
  | some x =>
    if !(x.units.all fun u => u.answered) then s
    else if x.op = opBack || x.op = opRelease then s.dropAcc id
    else if x.op = opTrace then (if x.units.any AUnit.bad then (s.dropAcc id).traceFault x.addr else s.dropAcc id)
    else if x.op = opUnclaim then (s.dropAcc id).openUnits opRelease ((x.units.filter fun u => u.st == .performed).map s.onPod)
    else s
  | none => s

/-- The detail of a part that failed at its home: a place of R30, or a cause of R78. What an element, a copy or a fetch asked for takes
its access code from whoever reports it. -/
def podDetail (x : Access) (c m : Nat) : Nat := if c = fcNotMapped then trDetail (accCode x.op) 0 m else memDetail (accCode x.op) m

/-- The acknowledgement of a part tells of a failure at its home: an element or a claim fails there, any other access as it does at
a home of this package (R78, R309); what an RMW sent there before its block faulted is made again with the block (R108). -/
def State.ackFail (s : State) (x : Access) (j : Nat) (u : AUnit) (c m : Nat) : State :=
  let d := podDetail x c m
  if x.kind == .elem then (s.setUnit x.id j fun u => { u with st := .faulted c d }).ackedAll x.id
  else if x.kind == .write && !x.committed && u.old = 0 then (s.setUnit x.id j fun u => u.fault c d u.va).settleIssue x.id
  else if x.gone && optB (s.win x.agent) (fun w => !w.stopped) && (s.task x.agent).fault.isSome then s.dropAcc x.id
  else s.accFault x c d u.va

/-- What the acknowledgement of a part does (R120, R437): a claim is granted, a write performs, a read or RMW has its value. -/
def State.ackUnit (s : State) (x : Access) (j : Nat) (u : AUnit) (data : Nat) : State :=
  if x.kind == .elem then (s.setUnit x.id j fun u => { u with st := .performed, old := data }).ackedAll x.id
  else if x.kind == .write && !x.committed && u.old = 0 then (s.setUnit x.id j fun u => { u with st := .issued }).settleIssue x.id
  else if isDir x.op then s.answer x (wordTok data) 0
  else
    match x.kind with
    | .read => s.readDone x j (overlay (s.ownBytes x u) data)
    | .write | .presence => s.unitDone x j u
    | .rmw =>
      if u.old = 4 then
        let v := overlay (s.ownBytes x u) data
        (if v = x.exp % 2 ^ x.ty.width then s.setUnit x.id j fun u => { u with st := .issued, old := 5 }
         else s.answerAs false x (x.tokenOf v) 0)
      else s.answer x (x.tokenOf data) (s.rmwValue x data).2
    | .mwait =>
      if x.satisfied data then s.answer x (x.tokenOf data) 0 else s.setUnit x.id j fun u => { u with st := .issued }
    | .ring =>
      if paPkg u.pa ≠ s.pkgNum then s.answer x (x.ringToken data) 0
      else
        (match s.ringGlobal x u (some data) with
         | .hold => s.holdUnit x j u
         | .bad c d a => s.accFault x c d a
         | .perf r => s.afterPerf x j u r fun s v => (s.ringMark x u).answer x (x.ringToken v) 0)
    | .range | .fence | .elem => s

/-- POD_ACK (R437): `data` holds the part's bytes and above them, where the part failed at its home, the class in [7:0] and the cause
above it. An acknowledgement that no part waits for changes nothing. -/
def execPodAck (acc unit data : Nat) (s : State) : Host.Outcome State Fault Refusal :=
  match s.acc? acc with
  | none => .next s
  | some x =>
    match x.units[unit]? with
    | some u => (match u.st with
      | .pod _ _ =>
        let e := data / 2 ^ (8 * u.size)
        .next (if e % 256 ≠ 0 then s.ackFail x unit u (e % 256) (e / 256) else s.ackUnit x unit u (data % 2 ^ (8 * u.size)))
      | _ => .next s)
    | none => .next s

/-- Does a part wait for a plane since 2^20 cycles or more? -/
def AUnit.late (u : AUnit) (plane now : Nat) : Bool :=
  match u.st with | .pod p since => p == plane && Nat.ble (since + 2 ^ 20) now | _ => false

/-- Does a part wait for a plane? -/
def AUnit.onPlane (u : AUnit) (plane : Nat) : Bool := match u.st with | .pod p _ => p == plane | _ => false

/-- A part is sent again on the planes that are left. With none left the link is down (R436): an element fails at once, any
other part when it is next tried, a claim is made again, and what a bank writes back or a block lets go of is held. -/
def State.resend (s : State) (plane : Nat) (x : Access) : State :=
  let again (u : AUnit) : AUnit :=
    if !u.onPlane plane then u
    else if x.op = opBack || x.op = opRelease then { u with st := .pod ((s.planeFor u.pa).getD 32) s.cycle }
    else if x.kind == .elem then
      { u with st := match s.planeFor u.pa with | some p => .pod p s.cycle | none => .faulted fcLinkDown (s.linkDetail 32) }
    else if x.kind == .write && !x.committed && u.old = 0 then { u with st := .retry s.cycle }
    else { u with st := .issued }
  s.modAcc x.id fun x => { x with units := x.units.map again }

/-- PLANE_TIMEOUT (R437): the plane leaves the lists until the next PODCFG, and what waited for it is sent again. -/
def execPlaneTimeout (plane : Nat) (s : State) : Host.Outcome State Fault Refusal :=
  if 32 ≤ plane || !(s.accs.any fun x => x.units.any fun u => u.late plane s.cycle) then .next s
  else
    let s := { s with planesOut := setAdd s.planesOut plane, lastPlane := plane }
    .next ((s.accs.filter fun x => x.units.any fun u => u.onPlane plane).foldl (fun s x => (s.resend plane x).ackedAll x.id) s)

end Sys2Proof.Machine
end

