-- ==== Sys2Proof/Machine/Debug.lean ====
section
/-! DEFINITION. The registers of the binnacle by number: task contexts, CSRs, windows, the matrix unit, tiles, latches, operators, the
mailbox and the debug registers (R409, R417-R420). The order of window entries, and the places of elements, classes and scales in the
words of T0 and T1, are the model's (log entry 14). -/

namespace Sys2Proof.Machine

/-! ## Selection (R409) -/

/-- The bits of BSEL that are not reserved. -/
def bselMask : Word := 0x00FF073F0000FFFF
/-- The region handle in a BSEL. -/
def bselHandle (w : Word) : Word := w &&& 0x3F0000FFFF
/-- X and Y of a BSEL. -/
def bselX (w : Word) : Nat := field w 51 48
/-- Y of a BSEL. -/
def bselY (w : Word) : Nat := field w 55 52
/-- TASK of a BSEL. -/
def bselTask (w : Word) : Nat := field w 42 40

/-- The region that a BSEL names; one that has ended is no region. -/
def State.selRegion (s : State) (sel : Word) : Option (Nat × Region) :=
  (s.regionAt (bselHandle sel)).bind fun e =>
    if e.2.st == .done || e.2.st == .aborted || e.2.st == .refused || e.2.st == .cancelled then none else some e

/-- The cell at a position of a region; none where the region has no cell there. -/
def State.spotAt (s : State) (k : Nat) (r : Region) (x y t : Nat) : Option DbgSpot :=
  ((s.die (keyDie k)).cellAt (r.col0 + x) (r.row0 + y)).bind fun p =>
    let key := cellKey (keyDie k) p
    if x < r.w && y < r.h && r.cells.contains (keyDie k, p) then
      (s.cctxOn key k).map fun n =>
        { key := key, cctx := n, task := t, own := ((s.cell key).task t).cctx == n && ((s.cell key).task t).st != .unbound }
    else none

/-- The cell and task that a BSEL names. -/
def State.spotOf (s : State) (k : Nat) (r : Region) (sel : Word) : Option DbgSpot := s.spotAt k r (bselX sel) (bselY sel) (bselTask sel)

/-! ## The matrix unit (R206, R336) -/

/-- The class bits of an element (R205, R206). -/
def clsBits (c : Nat) : Nat := if c = 1 || c = 2 || c = 3 then c else 0

/-- The class of an element whose class bits are written: a finite one keeps its sign. -/
def clsOf (m : MatReg) (i b : Nat) : Nat :=
  if b ≠ 0 then b
  else
    let c := m.cls.get i 4
    let a := m.elems.get i 0
    if c = 0 || c = 4 || c = 5 then c else if a = 0 then 4 else if a < 0 then 5 else 0

/-- Word `i` of the elements of T0 or T1: four in each, as 16-bit integers (log entry 14). -/
def MatReg.elemWord (m : MatReg) (i : Nat) : Word :=
  word ((List.range 4).foldl (fun w h => w + wrapN (m.elems.get (4 * i + h) 0) 16 * 2 ^ (16 * h)) 0)

/-- T0 or T1 with a word of its elements written. -/
def MatReg.putElemWord (m : MatReg) (i : Nat) (v : Word) : MatReg :=
  (List.range 4).foldl (fun (m : MatReg) h =>
    let a := sextN (fieldN v.toNat (16 * h + 15) (16 * h)) 16
    let c := m.cls.get (4 * i + h) 4
    { m with elems := m.elems.put (4 * i + h) a
             cls := m.cls.put (4 * i + h) (if clsBits c ≠ 0 then c else if a = 0 then 4 else if a < 0 then 5 else 0) }) m

/-- Word `i` of the scales: the byte of each column block holds its exponent plus 127, or 255 for a NaN mark (log entry 14). -/
def MatReg.scaleWord (m : MatReg) (i : Nat) : Word :=
  word ((List.range 8).foldl (fun w h =>
    w + (if m.bnan.contains (8 * i + h) then 255 else wrapN (m.bexp.get (8 * i + h) 0 + 127) 8) * 2 ^ (8 * h)) 0)

/-- T0 or T1 with a word of its scales written. -/
def MatReg.putScaleWord (m : MatReg) (i : Nat) (v : Word) : MatReg :=
  (List.range 8).foldl (fun (m : MatReg) h =>
    let b := fieldN v.toNat (8 * h + 7) (8 * h)
    let n := m.bnan.filter (· != 8 * i + h)
    if b = 255 then { m with bnan := (8 * i + h) :: n }
    else { m with bnan := n, bexp := m.bexp.put (8 * i + h) ((b : Int) - 127) }) m

/-- Word `i` of the class bits: 32 elements in each. -/
def MatReg.clsWord (m : MatReg) (i : Nat) : Word :=
  word ((List.range 32).foldl (fun w h => w + clsBits (m.cls.get (32 * i + h) 4) * 4 ^ h) 0)

/-- T0 or T1 with a word of its class bits written. -/
def MatReg.putClsWord (m : MatReg) (i : Nat) (v : Word) : MatReg :=
  (List.range 32).foldl (fun (m : MatReg) h =>
    { m with cls := m.cls.put (32 * i + h) (clsOf m (32 * i + h) (fieldN v.toNat (2 * h + 1) (2 * h))) }) m

/-- Word `j` of a register of space 0x04, counted from its scales: scales, tag, K and TY. -/
def MatReg.ctlWord (m : MatReg) (j : Nat) : Word :=
  if j < 16 then m.scaleWord j else if j = 16 then m.tag else word (m.ty.code * 256 + m.k)

/-- T0 or T1 with such a word written; K and TY keep their values under a K above 64. -/
def MatReg.putCtlWord (m : MatReg) (j : Nat) (v : Word) : MatReg :=
  if j < 16 then m.putScaleWord j v
  else if j = 16 then { m with tag := v &&& 0xFFFE0000FFFFFFFF }
  else if 64 < field v 6 0 then m else { m with k := field v 6 0, ty := Ty.ofCode (field v 11 8) }

/-- A word of the matrix unit (R419). -/
def Matrix.regWord (m : Matrix) (i : Nat) : Option Word :=
  if i < 0x400 then some (m.t0.elemWord i)
  else if i < 0x800 then some (m.t1.elemWord (i - 0x400))
  else if 0x800 ≤ i && i ≤ 0x811 then some (m.t0.ctlWord (i - 0x800))
  else if 0x820 ≤ i && i ≤ 0x831 then some (m.t1.ctlWord (i - 0x820))
  else if 0x900 ≤ i && i ≤ 0x97F then some (m.t0.clsWord (i - 0x900))
  else if 0x980 ≤ i && i ≤ 0x9FF then some (m.t1.clsWord (i - 0x980))
  else if 0x1000 ≤ i && i ≤ 0x11FF then
    some (((m.acc.get (64 * ((i - 0x1000) / 128) + (i - 0x1000) % 128 / 2) 0) >>> (64 * (i % 2))).setWidth 64)
  else none

/-- The matrix unit with a word written; bits [111:96] of a record read as zero (R206). -/
def Matrix.putReg (m : Matrix) (i : Nat) (v : Word) : Option Matrix :=
  if i < 0x400 then some { m with t0 := m.t0.putElemWord i v }
  else if i < 0x800 then some { m with t1 := m.t1.putElemWord (i - 0x400) v }
  else if 0x800 ≤ i && i ≤ 0x811 then some { m with t0 := m.t0.putCtlWord (i - 0x800) v }
  else if 0x820 ≤ i && i ≤ 0x831 then some { m with t1 := m.t1.putCtlWord (i - 0x820) v }
  else if 0x900 ≤ i && i ≤ 0x97F then some { m with t0 := m.t0.putClsWord (i - 0x900) v }
  else if 0x980 ≤ i && i ≤ 0x9FF then some { m with t1 := m.t1.putClsWord (i - 0x980) v }
  else if 0x1000 ≤ i && i ≤ 0x11FF then
    let n := 64 * ((i - 0x1000) / 128) + (i - 0x1000) % 128 / 2
    let a := m.acc.get n 0
    let b : AccRec := if i % 2 = 0 then (a &&& ~~~(0xFFFFFFFFFFFFFFFF : AccRec)) ||| v.setWidth 128
      else (a &&& (0xFFFFFFFFFFFFFFFF : AccRec)) ||| ((v &&& 0xFFFF0000FFFFFFFF).setWidth 128 <<< 64)
    some { m with acc := m.acc.put n b }
  else none

/-! ## Debug registers (R417, R418, R420) -/

/-- A debug register of a region. -/
def Region.debugWord (r : Region) (i : Nat) : Option Word :=
  let t := r.trace
  if i < 64 then (if i % 4 < 3 then some (r.bps.get i 0) else none)
  else if 0x100 ≤ i && i < 0x140 then (if i % 4 < 2 then some (r.wps.get (2 * ((i - 0x100) / 4) + i % 4) 0) else none)
  else if i = 0x200 then some t.ctl
  else if i = 0x201 then some t.base
  else if i = 0x202 then some t.size
  else if i = 0x203 then some t.nf
  else if i = 0x204 then some (word t.wptr)
  else if i = 0x205 then some (t.stat ||| word (t.lost % 2 ^ 32))
  else none

/-- Trace control written (R420): SPER 1 to 9 is refused; setting EN clears TRC.STAT. -/
def TraceSt.putCtl (t : TraceSt) (v : Word) (now : Nat) : Option TraceSt :=
  let n := field v 57 53
  if 1 ≤ n && n ≤ 9 then none
  else
    let t' := { t with ctl := v &&& 0xFFE0000000000000 }
    some (if flag v 63 && !flag t.ctl 63 then { t' with stat := 0, lost := 0, lastPos := none, lastCyc := now } else t')

/-- A region with a debug register written; none where the write is refused (R420). A reserved value is ignored (R3). -/
def Region.putDebug (r : Region) (i : Nat) (v : Word) (now : Nat) : Option Region :=
  let t := r.trace
  if i < 64 then
    if i % 4 = 0 then some (if 4 < field v 62 60 then r else { r with bps := r.bps.put i (v &&& 0xF8FF0000FFFFFFFF) })
    else if i % 4 < 3 then some { r with bps := r.bps.put i v } else none
  else if 0x100 ≤ i && i < 0x140 then
    let n := 2 * ((i - 0x100) / 4)
    if i % 4 = 0 then some (if 30 < field v 5 0 then r else { r with wps := r.wps.put n (v &&& 0xF80000000000003F) })
    else if i % 4 = 1 then some { r with wps := r.wps.put (n + 1) v } else none
  else if i = 0x200 then (t.putCtl v now).map fun t => { r with trace := t }
  else if i = 0x201 then some (if field v 11 0 ≠ 0 then r else { r with trace := { t with base := v } })
  else if i = 0x202 then
    some (if field v 11 0 ≠ 0 || v.toNat < 4096 || 2 ^ 40 < v.toNat then r else { r with trace := { t with size := v } })
  else if i = 0x203 then some { r with trace := { t with nf := v } }
  else if i = 0x204 then (if flag t.ctl 63 then none else some { r with trace := { t with wptr := v.toNat } })
  else none

/-! ## One register (R419) -/

/-- The number of operators and stream engines of a cell, in the order of R289 and R344. -/
def opUnits : Nat := 21

/-- Reading a register: its word, or none for a number outside the table. State words of operators have no layout: free values (log
entry 5). -/
def State.regRead (s : State) (k : Nat) (r : Region) (p : Option DbgSpot) (space i : Nat) : Option Word :=
  if space = 8 then (if i < 16 then (s.mailWords r)[i]? else none)
  else if space = 9 then r.debugWord i
  else
    p.bind fun p =>
      let c := s.cell p.key
      let t := s.spotTask p
      if space = 0 then
        if !p.own then none
        else if i < 0x80 then some (t.getP i)
        else if i < 0xA0 then some (t.getS (i - 0x80))
        else if 0x100 ≤ i && i < 0x200 then some (payWord (t.getV ((i - 0x100) / 32)) (i % 32))
        else none
      else if space = 1 then
        match csrAccess i with
        | none => none
        | some q => if q = 3 || (i < 8 && !p.own) then none else some (s.csrReadAt p.agent (p.key, p.cctx, p.task) i)
      else if space = 2 then s.slotRegRead p i
      else if space = 3 then (if fieldN i 14 2 ≠ 0 then none else some (s.windowWord p (fieldN i 18 15) (i % 4)))
      else if space = 4 then (if c.mat.owner = some p.cctx then c.mat.regWord i else none)
      else if space = 5 then
        if 2 ^ 16 ≤ i || (c.tile (fieldN i 15 13)).owner ≠ some k then none
        else some (word (memNat (c.tile (fieldN i 15 13)).mem (8 * (i % 8192)) 8))
      else if space = 6 then s.routerRead p i
      else if space = 7 then (if fieldN i 18 12 < opUnits then some (Config.freeWord 41 s.free) else none)
      else none

/-- Writing a register: done, refused, or waiting for a busy PKG.ULCMD. `last` is the operator word read last. -/
def State.regWrite (s : State) (k : Nat) (r : Region) (p : Option DbgSpot) (space i : Nat) (v : Word) (last : Option (Nat × Word)) :
    Option CommitRes :=
  let done (o : Option State) : Option CommitRes := o.map fun s => .done s none
  if space = 9 then done ((r.putDebug i v s.cycle).map fun r => s.modRegion k fun _ => r)
  else
    p.bind fun p =>
      let c := s.cell p.key
      let task (f : TaskCtx → TaskCtx) : Option CommitRes := if p.own then done (some (s.modTask p.agent f)) else none
      if space = 0 then
        if i < 0x80 then task fun t => t.setP i v
        else if i < 0xA0 then task fun t => t.setS (i - 0x80) v
        else if 0x100 ≤ i && i < 0x200 then task fun t => t.setV ((i - 0x100) / 32) (putPayWord (t.getV ((i - 0x100) / 32)) (i % 32) v)
        else none
      else if space = 1 then
        match csrAccess i with
        | none => none
        | some q => if q = 1 || q = 3 || (i < 8 && !p.own) then none else some (s.csrWriteAt p.agent (p.key, p.cctx, p.task) i v)
      else if space = 2 then done (s.slotRegWrite p i v)
      else if space = 4 then
        if c.mat.owner = some p.cctx then done ((c.mat.putReg i v).map fun m => s.modCell p.key fun c => { c with mat := m }) else none
      else if space = 5 then
        let n := fieldN i 15 13
        if 2 ^ 16 ≤ i || (c.tile n).owner ≠ some k then none
        else done (some (s.modCell p.key fun c => c.modTile n fun t => { t with mem := memWrite t.mem (8 * (i % 8192)) (leBytes v.toNat 8) }))
      else if space = 6 then done (s.routerWrite p i v)
      else if space = 7 then (if last = some (7 * 2 ^ 19 + i, v) then done (some s) else none)
      else none

end Sys2Proof.Machine
end

