-- ==== Sys2Proof/Machine/Binnacle.lean ====
section
/-! DEFINITION. The commands of the hub and its binnacles: registers and memory, halting, steps forward and back, sealing, status
(R141-R144, R409-R415, R423, R424), DBG frames (R432), and the trace's windows and samples (R420, R421). -/

namespace Sys2Proof.Machine

/-! ## Commands (R410) -/

/-- What a command comes to: done; ended with CMDERR and RSTAT, and DATA0 where it answers there; still running. -/
inductive CmdRes where
  | ok (s : State)
  | err (cmderr rstat : Nat) (data0 : Option Word)
  | busy (s : State)

/-- A debug session. -/
def State.session (s : State) (n : Nat) : Session := s.sessions.get n .fresh

/-- A session with DATA0 replaced. -/
def Session.putData0 (x : Session) (v : Word) : Session := { x with data := x.data.set 0 v }
/-- Data register `i`. -/
def Session.datum (x : Session) (i : Nat) : Word := x.data.getD i 0

/-- BUSY clears. -/
def State.cmdEnd (s : State) (n e rst : Nat) (d : Option Word) : State :=
  let s := match (s.session n).acc with | some id => s.dropAcc id | none => s
  s.modSession n fun x =>
    let x : Session := { x with busy := false, phase := 0, acc := none, rstat := rst, cmderr := if e = 0 then x.cmderr else e }
    match d with | some v => x.putData0 v | none => x

/-- What a command leaves; one that ends with an error has changed nothing. -/
def State.cmdSettle (s0 : State) (n : Nat) (r : CmdRes) : State :=
  match r with
  | .ok s => s.cmdEnd n 0 0 none
  | .err e rst d => s0.cmdEnd n e rst d
  | .busy s => s

/-- RSTAT codes (R144). -/
def rsNotHalted : Nat := 1
def rsNotLogged : Nat := 2
def rsNoWp : Nat := 3
def rsHorizon : Nat := 4
def rsDiverge : Nat := 5
def rsSealed : Nat := 6

/-- A refusal of a region in the wrong state. -/
def notHalted : CmdRes := .err 4 rsNotHalted none

/-- CMDTYPEs (R411). -/
def cmdTypes : List Nat := [0x00, 0x02, 0x10, 0x11, 0x12, 0x20, 0x21, 0x30, 0x31, 0x40]

/-- The CONTROL bits that a command uses. -/
def ctlBits (t : Nat) : Nat := if t = 0 then 0x80000000FFFFFF else if t = 2 then 0xE0000000000000 else 0

/-- Is a region sealed to a session (R424)? -/
def Region.sealedTo (r : Region) (n : Nat) : Bool := r.cfg.keyid != 0 && !r.unsealed.contains n

/-- Is a region halted for the commands marked so (R413)? -/
def State.haltedFor (s : State) (k : Nat) : Bool :=
  match s.regions.find (s.mailKey k) with | some r => r.dh || r.mail.isSome | none => false

/-- Run the command of a session where it has this CMDTYPE: on the region that BSEL named when COMMAND was written. -/
def State.onCommand (s : State) (n t : Nat) (go : State → Session → Nat → Region → CmdRes) : Host.Outcome State Fault Refusal :=
  let x := s.session n
  if !x.busy || field x.command 63 56 ≠ t then .next s
  else
    match s.selRegion x.sel with
    | none => .next (s.cmdEnd n 5 0 none)
    | some (k, r) =>
      if r.sealedTo n && t < 0x30 then .next (s.cmdEnd n 7 rsSealed none)
      else .next (s.cmdSettle n (go s x k r))

/-! ## Registers and memory (R412, R419) -/

/-- A binnacle write of a register or memory ends a replay (R143, R423). -/
def State.touched (s : State) (k : Nat) : State :=
  let ln := s.logOf k
  match s.log ln with | some l => if l.replay then s.endReplay ln else s | none => s

/-- Does a register space need a cell? -/
def needsCell (space : Nat) : Bool := space < 8

/-- ACCREG (R411, R419). -/
def execAccreg (session : Nat) (s : State) : Host.Outcome State Fault Refusal :=
  s.onCommand session 0x00 fun s x k r =>
    let space := field x.command 23 19
    let i := field x.command 18 0
    let p := s.spotOf k r x.sel
    if !s.haltedFor k then notHalted
    else if needsCell space && p.isNone then .err 5 0 none
    else if flag x.command 55 then
      match s.regWrite k r p space i (x.datum 0) x.lastOp with
      | none => .err 3 0 none
      | some (.done s _) => .ok (s.touched k)
      | some (.wait s) => .busy s
      | some (.fault _ _ _ _) => .err 3 0 none
    else
      match s.regRead k r p space i with
      | none => .err 3 0 none
      | some v =>
        let s := s.modSession session fun x => { x.putData0 v with lastOp := if space = 7 then some (7 * 2 ^ 19 + i, v) else x.lastOp }
        .ok (if space = 7 || space = 3 || space = 1 then { s with free := s.free + 2 } else s)

/-- The binnacle's access in the place of R66 as the region's die sees it: a read returns a bank's copy; a write to a tile that an
active log owns is logged as a foreign write (R412). -/
def State.binRead (s : State) (d : Nat) (attr : Attr) (pa : Nat) : PerfRes :=
  s.readAt { agent := none, die := d, region := 0, lognum := 0, blockLog := false, foreign := false, hz := 0 } { attr with kind := 0 } false pa 8

/-- The binnacle's write (R88, R412). -/
def State.binWrite (s : State) (d : Nat) (attr : Attr) (pa : Nat) (v : Word) : PerfRes :=
  let src := srcForeign d
  match s.pinPa d pa with
  | some p =>
    (match s.bankWrite src attr p.cell p.tile (p.va * 512 + pa % 65536 / 128) (pa % 128) (leBytes v.toNat 8) with
     | .done s => .done s 0
     | .full ln key held => .full ln key held
     | .wait => .wait s
     | .diverge ln => .diverge ln)
  | none => s.writeAt src { attr with log := false } false pa (leBytes v.toNat 8)

/-- What an ACCMEM that has its result leaves. -/
def State.accmemDone (s : State) (n k : Nat) (x : Session) (v : Nat) : CmdRes :=
  let s := s.modSession n fun y =>
    let y := if flag x.command 55 then y else y.putData0 (word v)
    if flag x.command 53 then { y with data := y.data.set 1 (y.datum 1 + 8) } else y
  .ok (if flag x.command 55 then s.touched k else s)

/-- The access of an ACCMEM at its physical address. -/
def State.accmemAt (s : State) (n k : Nat) (x : Session) (pa : Nat) (attr : Attr) (code : Nat) : CmdRes :=
  let d := keyDie k
  let bad (c det : Nat) : CmdRes := .err 3 0 (some (word (det % 512 * 256 + c)))
  match (if flag x.command 55 then s.binWrite d attr pa (x.datum 0) else s.binRead d attr pa) with
  | .done s v => s.accmemDone n k x v
  | .wait s => .busy s
  | .fail c m => bad c (memDetail code m)
  | .full ln key held => .busy (s.foreignFull ln key d held)
  | .diverge ln => .busy (s.diverged ln)
  | .pod p _ =>
    if 32 ≤ p then bad fcLinkDown (s.linkDetail p)
    else .busy ((s.modSession n fun y => { y with acc := some s.nextAcc }).openParts noAgent [podUnit s pa pa 8 (x.datum 0).toNat p])

/-- ACCMEM (R412). -/
def execAccmem (session : Nat) (s : State) : Host.Outcome State Fault Refusal :=
  s.onCommand session 0x02 fun s x k r =>
    let wr := flag x.command 55
    let code := if wr then accWrite else accRead
    let bad (c det : Nat) : CmdRes := .err 3 0 (some (word (det % 512 * 256 + c)))
    if !s.haltedFor k then notHalted
    else if field (x.datum 1) 2 0 ≠ 0 then .err 3 0 none
    else
      match x.acc with
      | some id =>
        (match s.partsBad id, s.elemAnswer id with
         | some e, _ => bad e.1 (withAcc code e.1 e.2)
         | none, some v => s.accmemDone session k x v
         | none, none => .busy s)
      | none =>
        match s.lookBare { r.cfgOf with phys := flag x.command 54 } code (x.datum 1).toNat with
        | .bad c d => bad c d
        | .miss => .busy s
        | .hit pa attr => if s.homeReady pa then s.accmemAt session k x pa attr code else .busy s

/-! ## Halting and running (R413-R415) -/

/-- HALTR (R414): the debug halt is set on every die of the gang; the command runs on until nothing moves. -/
def execHaltr (session : Nat) (s : State) : Host.Outcome State Fault Refusal :=
  s.onCommand session 0x10 fun s x k r =>
    if x.phase = 1 then .busy s
    else if r.st == .saved then notHalted
    else if r.dh then .ok s
    else .busy ((s.haltGang k { kind := 1, num := 0, x := 0, y := 0, task := 0, fnum := 0, rk := k }).modSession session
      fun x => { x with phase := 1 })

/-- HALTR_QUIESCENT (R174, R414): a cycle has passed in which nothing of the gang moved. -/
def execHaltrQuiescent (session : Nat) (s : State) : Host.Outcome State Fault Refusal :=
  s.onCommand session 0x10 fun s x k _ =>
    if x.phase = 1 && (s.gangOf k).all fun g => (match s.regions.find g with | some r => Nat.ble (r.moved + 2) s.cycle | none => true)
    then .ok (s.logPointers (s.logOf k)) else .busy s

/-- A change of every task of a region (R151). -/
def State.forTasks (s : State) (k : Nat) (f : TaskCtx → TaskCtx) : State :=
  match s.regions.find k with
  | none => s
  | some r => r.keys.foldl (fun s key => s.modCell key fun c =>
      { c with tasks := c.tasks.map fun e => if (c.cctx e.2.cctx).region = k then (e.1, f e.2) else e }) s

/-- The debug halt of a gang is cleared, and its tasks at precise stops are ACTIVE again (R156). The binnacle's accesses are released toward the region: the generation of each of its dies
advances (R71, R141, R412, R413). -/
def State.runGang (s : State) (k : Nat) : State :=
  let ks := s.gangOf k
  let s := ((ks.map keyDie).eraseDups).foldl State.advanceGen s
  ks.foldl (fun s g => ((s.modRegion g fun r => { r with dh := false, moved := s.cycle }).forTasks g TaskCtx.unhalt).traceEvent g 4 0) s

/-- FWD (R143, R413). -/
def execFwd (session : Nat) (s : State) : Host.Outcome State Fault Refusal :=
  s.onCommand session 0x11 fun s _ k _ => if !s.haltedFor k then notHalted else .ok (s.runGang k)

/-- The task a step counts firings of, with the number it stands before: that of the current precise stop, else BSEL's (R415). -/
def State.stepTask (s : State) (k : Nat) (r : Region) (sel : Word) : Option (Nat × DbgSpot × Nat) :=
  if r.dh && (r.hit.kind = 2 || (r.hit.kind = 3 && (s.regions.find r.hit.rk).isSome)) then
    (s.regions.find r.hit.rk).bind fun q =>
      (s.spotAt r.hit.rk q r.hit.x r.hit.y r.hit.task).map fun p => (r.hit.rk, p, r.hit.fnum)
  else (s.spotOf k r sel).map fun p => (k, p, s.firingNo p.agent)

/-- FSTEP (R415): FWD, then a precise stop before firing F + k of the task. -/
def execFstep (session : Nat) (s : State) : Host.Outcome State Fault Refusal :=
  s.onCommand session 0x12 fun s x k r =>
    let n := field (x.datum 0) 31 0
    if n = 0 then .err 2 0 none
    else if !s.haltedFor k then notHalted
    else
      match s.stepTask k r x.sel with
      | none => .err 5 0 none
      | some (_, p, f) => .ok ((s.modTask p.agent fun t => { t with stopAt := some (f + n) }).runGang k)

/-! ## Steps back (R141, R142, R423) -/

/-- Undo the entries of a sub-log behind TAIL down to MARK n, newest first (R141). -/
def State.undoSub (ln key n : Nat) : Nat → State → State
  | 0, s => s
  | fuel + 1, s =>
    match s.log ln with
    | none => s
    | some l =>
      let u := l.sub key
      let i := (u.tail + u.cap - 1) % max 1 u.cap
      let e0 := s.entryWord ln key i 0
      let e1 := s.entryWord ln key i 1
      if u.count = 0 || (fieldN e0 63 60 = 3 && e1 % 2 ^ 32 = n) then s
      else
        let s := if fieldN e0 63 60 = 1 then s.putForeign e0 e1 else s
        State.undoSub ln key n fuel (s.modLog ln fun l => l.modSub key fun u => { u with tail := i, count := u.count - 1 })

/-- Every line of a region's banks is invalidated. -/
def State.dropBanks (s : State) (k : Nat) : State :=
  match s.regions.find k with
  | some r => (r.pins.map fun p => (p.cell, p.tile)).eraseDups.foldl (fun s e =>
      s.modCell e.1 fun c => c.modTile e.2 fun t => { t with lines := [] }) s
  | none => s

/-- Is an access one of a log's own regions that has committed and not performed? -/
def State.writesOut (s : State) (l : ULog) : Bool :=
  s.accs.any fun x => x.committed && !x.agent.isHelm && l.regions.contains (s.regionOf x.agent)

/-- Why BACK n is refused: RSTAT and HZCAUSE (R141). A waypoint whose mark does not lie between HEAD and TAIL is not retained. -/
def State.backBad (s : State) (k n : Nat) : Option (Nat × Option Word) :=
  let ln := s.logOf k
  match s.log ln with
  | none => some (rsNotLogged, none)
  | some l =>
    if l.none0 || n < l.oldest || l.newest < n || l.subs.any (fun e => e.2.count ≠ 0 && (s.markOffset ln e.1 n e.2).isNone)
        || (s.images.find (wayKey ln n)).isNone then some (rsNoWp, none)
    else if l.hzv && n ≤ l.hzwp then some (rsHorizon, some (word l.hzcause))
    else none

/-- BACK n (R141): banks written back and dropped, the sub-logs undone, the checkpoint restored, the context replaying and still
halted. -/
def State.backTo (s : State) (ln n : Nat) : State :=
  match s.log ln with
  | none => s
  | some l =>
    let s := l.regions.foldl (fun s k => (s.writeBackRegion k).dropBanks k) s
    let s := l.subs.foldl (fun s e => State.undoSub ln e.1 n e.2.count s) s
    let s := (match s.images.find (wayKey ln n) with | some sn => s.putSnap l.regions sn | none => s).passWaypoint ln
    let mine (a : Agent) : Bool := !a.isHelm && l.regions.contains (s.regionOf a)
    let s := s.letClaims fun x => mine x.agent
    let s := { s with claims := s.claims.filter fun c => !mine c.agent }
    let s := s.resetTags l
    let s := s.modLog ln fun l => { l with replay := true, replayWp := n, target := none, diverged := false }
    s.logPointers ln

/-- BACK (R141). -/
def execBack (session : Nat) (s : State) : Host.Outcome State Fault Refusal :=
  s.onCommand session 0x20 fun s x k _ =>
    let n := field (x.datum 0) 31 0
    if !s.haltedFor k then notHalted
    else
      match s.backBad k n, s.log (s.logOf k) with
      | some (rst, d), _ => .err 7 rst d
      | none, some l => if s.writesOut l then .busy s else .ok (s.backTo (s.logOf k) n)
      | none, none => .err 7 rsNotLogged none

/-- T.FIRED in a waypoint's checkpoint: of task `t` at (x, y) of the region `rk` of a log. -/
def Snap.firedAt (sn : Snap) (i x y t : Nat) : Option Nat :=
  (sn.cells.find? fun e => e.1 == i && e.2.1 == x && e.2.2.1 == y).map fun e => (e.2.2.2.1.task t).fired

/-- The newest retained waypoint whose checkpoint holds T.FIRED at or below f (R142). -/
def State.stepWay (s : State) (ln : Nat) (l : ULog) (rk x y t f : Nat) : Option Nat :=
  let i := (l.regions.findIdx? (· == rk)).getD 0
  ((List.range (l.newest + 1 - l.oldest)).map (l.newest - ·)).find? fun n =>
    !l.none0 && optB (s.images.find (wayKey ln n)) fun sn => optB (sn.firedAt i x y t) fun g => Nat.ble g f

/-- Begin a BSTEP: BACK, then forward to the stop (R142, R423). A context without a log retains no waypoint: that is the refusal R142
comes to before BACK could answer NOTLOGGED. -/
def State.beginBstep (s : State) (session k : Nat) (r : Region) (x : Session) (n : Nat) : CmdRes :=
  let ln := s.logOf k
  match s.stepTask k r x.sel, s.log ln with
  | none, _ => .err 5 0 none
  | _, none => .err 7 rsNoWp none
  | some (rk, p, f0), some l =>
    if n = 0 || f0 < n then .err 7 rsNoWp none
    else
      let q := match s.regions.find rk with
        | some q => (p.key % 16 - q.col0, ((s.die (p.key / 256)).logRow (p.key % 256 / 16)).getD 0 - q.row0)
        | none => (0, 0)
      match s.stepWay ln l rk q.1 q.2 p.task (f0 - n) with
      | none => .err 7 rsNoWp none
      | some wp =>
        match s.backBad k wp with
        | some (rst, d) => .err 7 rst d
        | none =>
          if s.writesOut l then .busy s
          else
            let s := s.backTo ln wp
            let s := s.modTask p.agent fun t => { t with stopAt := some (f0 - n), skip := none }
            let s := s.modLog ln fun l => { l with target := some (p.agent, f0 - n) }
            .busy ((s.runGang k).modSession session fun x => { x with phase := 1 })

/-- BSTEP (R142): its forward run is a part of the command; it ends at the stop, or refused where replay diverges. -/
def execBstep (session : Nat) (s : State) : Host.Outcome State Fault Refusal :=
  s.onCommand session 0x21 fun s x k r =>
    if x.phase = 1 then
      if optB (s.log (s.logOf k)) (·.diverged) then .err 7 rsDiverge none
      else if s.haltedFor k then .ok s else .busy s
    else if !s.haltedFor k then notHalted
    else s.beginBstep session k r x (field (x.datum 0) 31 0)

/-! ## Seals and status (R414, R424) -/

/-- UNSEAL (R424). A region without a key is not sealed: nothing changes. -/
def execUnseal (session : Nat) (s : State) : Host.Outcome State Fault Refusal :=
  s.onCommand session 0x30 fun s x k r =>
    if r.cfg.keyid = 0 then .ok s
    else
      let tok := (List.range 4).flatMap fun i => leBytes (x.datum i).toNat 8
      let good := Nat.blt r.misses 8 && optB (s.keys.find r.cfg.keyid) fun e => e.digest.toNat == Config.shake256 tok % 2 ^ 256
      let all (s : State) (f : Region → Region) : State := (s.gangOf k).foldl (fun s g => s.modRegion g f) s
      if good then .ok (all s fun r => { r with unsealed := setAdd r.unsealed session })
      else .busy ((all s fun r => { r with misses := r.misses + 1 }).cmdEnd session 7 rsSealed none)

/-- A region is sealed again to a session. -/
def State.sealTo (s : State) (k n : Nat) : State :=
  (s.gangOf k).foldl (fun s g => s.modRegion g fun r => { r with unsealed := setDel r.unsealed n }) s

/-- SEAL (R424). -/
def execSeal (session : Nat) (s : State) : Host.Outcome State Fault Refusal :=
  s.onCommand session 0x31 fun s _ k _ => .ok (s.sealTo k session)

/-- Is a context replaying (R143)? -/
def State.inReplay (s : State) (k : Nat) : Bool :=
  optB (s.log (s.logOf k)) fun l => l.subs.any fun e => l.replaying e.1

/-- The status word (R414). -/
def State.statusOf (s : State) (k n : Nat) (r : Region) : Word :=
  let m := (s.regions.find (s.mailKey k)).getD r
  let low := bit m.mail.isSome * 1024 + bit m.dh * 512
  if r.sealedTo n then word (2048 + low)
  else
    let h := if m.dh then
        m.hit.kind * 2 ^ 28 + m.hit.num % 16 * 2 ^ 24 + m.hit.y % 16 * 2 ^ 20 + m.hit.x % 16 * 2 ^ 16 + m.hit.task % 8 * 2 ^ 13
      else 0
    word (h + bit (s.inReplay k) * 4096 + low)

/-- STATR (R414). -/
def execStatr (session : Nat) (s : State) : Host.Outcome State Fault Refusal :=
  s.onCommand session 0x40 fun s _ k r => .ok (s.modSession session fun x => x.putData0 (s.statusOf k session r))

/-! ## The registers of a session (R409, R410, R432) -/

/-- A write of COMMAND (R410). -/
def Session.putCommand (x : Session) (v : Word) : Session :=
  if x.busy then { x with cmderr := 1 }
  else if x.cmderr ≠ 0 then x
  else if !cmdTypes.contains (field v 63 56) || field v 55 0 ||| ctlBits (field v 63 56) ≠ ctlBits (field v 63 56) then
    { x with command := v, cmderr := 2, rstat := 0 }
  else { x with command := v, sel := x.bsel, busy := true, phase := 0, acc := none }

/-- A write of BSEL: what it unsealed is sealed again when it names another region (R424). -/
def State.putBsel (s : State) (n : Nat) (v : Word) : State :=
  let old := (s.session n).bsel
  let s := if bselHandle old = bselHandle v then s
    else match keyOfHandle (bselHandle old) with | some k => s.sealTo k n | none => s
  s.modSession n fun x => { x with bsel := v &&& bselMask }

/-- A write of a session's register: 0 BSEL, 1 to 4 DATA0 to DATA3, 5 COMMAND, 6 ABSTRACTCS. -/
def State.dbgWrite (s : State) (n reg : Nat) (v : Word) : State :=
  if reg = 0 then s.putBsel n v
  else if reg ≤ 4 then
    s.modSession n fun x => if x.busy then { x with cmderr := 1 } else { x with data := x.data.set (reg - 1) v }
  else if reg = 5 then s.modSession n fun x => x.putCommand v
  else if reg = 6 then s.modSession n fun x => { x with cmderr := field (word x.cmderr &&& ~~~(word (field v 10 8))) 2 0 }
  else s

/-- A register of a session as it is read. -/
def Session.regWord (x : Session) (reg : Nat) : Word :=
  if reg = 0 then x.bsel
  else if reg ≤ 4 then x.datum (reg - 1)
  else if reg = 5 then x.command
  else if reg = 6 then word (x.rstat * 2 ^ 16 + bit x.busy * 4096 + x.cmderr * 256 + 4)
  else 0

/-- CMDERR_CLEAR (R410). -/
def execCmderrClear (session : Nat) (v : Word) (s : State) : Host.Outcome State Fault Refusal :=
  if 16 ≤ session then .next s else .next (s.dbgWrite session 6 v)

/-- DEBUG_REGISTER_WRITE (R410): BSEL, a data register or COMMAND. -/
def execDebugRegisterWrite (session reg : Nat) (v : Word) (s : State) : Host.Outcome State Fault Refusal :=
  if 16 ≤ session || 6 ≤ reg then .next s else .next (s.dbgWrite session reg v)

/-! ## DBG frames (R425, R432) -/

/-- Run operations in order up to one that waits for BUSY to clear. What a write answers, the spec does not state: a free value (log
entry 5). -/
def State.dbgOps (s : State) (n : Nat) : List (Word × Word) → State
  | [] => s.modSession n fun x => { x with ops := [] }
  | (w, v) :: r =>
    if flag w 55 && (s.session n).busy then s.modSession n fun x => { x with ops := (w, v) :: r }
    else
      let reg := field w 7 0
      let answer (s : State) (a : Word) : State := s.modSession n fun x => { x with out := x.out ++ [a] }
      let s := if field w 63 56 = 0 then answer s ((s.session n).regWord reg)
        else if field w 63 56 = 1 then
          let s := answer (s.dbgWrite n reg v) (Config.freeWord 42 s.free)
          { s with free := s.free + 1 }
        else answer s 0
      State.dbgOps s n r

/-- The DBGRSP of the frame that is done leaves and is stored. -/
def State.dbgRespond (s : State) (n : Nat) : State :=
  let x := s.session n
  let pay := x.out.flatMap fun w => leBytes w.toNat 8
  let f := s.frameBytes 8 0 n (if n = 0 then s.host.fseqOut else x.fseqOut) pay
  let s := if n = 0 then { s with host := { s.host with fseqOut := (s.host.fseqOut + 1) % 2 ^ 32 } } else s
  let s := { s with host := { s.host with sent := s.host.sent ++ [f] } }
  s.modSession n fun x => { x with rsp := f, out := [], open0 := false, fseqOut := (x.fseqOut + 1) % 2 ^ 32 }

/-- Serve a session's frames in order while none of them waits. -/
def State.dbgServe (n : Nat) : Nat → State → State
  | 0, s => s
  | fuel + 1, s =>
    let x := s.session n
    let s := if x.open0 then s
      else match x.frames with
        | [] => s
        | (fs, ops) :: r => s.modSession n fun x => { x with fseq := fs, frames := r, ops := ops, out := [], open0 := true }
    if !(s.session n).open0 then s
    else
      let s := s.dbgOps n (s.session n).ops
      if !(s.session n).ops.isEmpty then s else State.dbgServe n fuel (s.dbgRespond n)

/-- The operations of a DBG frame. -/
def dbgPairs (bs : List Byte) : List (Word × Word) :=
  (List.range ((bs.length - 32) / 16)).map fun i => (word (byteWord bs (4 + 2 * i)), word (byteWord bs (5 + 2 * i)))

/-- DBG_FRAME (R432): one that repeats the last FSEQ of its session is answered with the stored DBGRSP. -/
def execDbgFrame (bytes : List Byte) (s : State) : Host.Outcome State Fault Refusal :=
  if !s.agentReady then .next s
  else if !frameOk bytes then .next (s.nak 3)
  else if frameKind bytes ≠ 7 then .next s
  else
    let n := fieldN (byteWord bytes 0) 3 0
    let fs := fieldN (byteWord bytes 1) 31 0
    let x := s.session n
    if ((x.frames.getLast?).map (·.1)).getD x.fseq = fs then
      .next (if x.open0 || x.rsp.isEmpty || !x.frames.isEmpty then s else { s with host := { s.host with sent := s.host.sent ++ [x.rsp] } })
    else
      let s := s.modSession n fun x => { x with frames := x.frames ++ [(fs, dbgPairs bytes)] }
      .next (State.dbgServe n (x.frames.length + 2) s)

/-- DBG_WAIT_OP (R432). -/
def execDbgWaitOp (session : Nat) (s : State) : Host.Outcome State Fault Refusal :=
  if s.agentReady && (s.session session).open0 && !(s.session session).busy then .next (State.dbgServe session ((s.session session).frames.length + 2) s)
  else .next s

/-! ## The trace (R420, R421) -/

/-- TRACE_WINDOW (R421): at the end of a window of 1,024 cycles, the counts that are not zero. -/
def execTraceWindow (region : Nat) (s : State) : Host.Outcome State Fault Refusal :=
  match s.regions.find region with
  | none => .next s
  | some r =>
    if s.cycle % 1024 ≠ 0 then .next s
    else
      let t := r.trace
      let gs := (List.range 8).filter fun g => t.kills.getD g 0 ≠ 0
      let s := s.modRegion region fun r => { r with trace := { r.trace with kills := [], elided := 0 } }
      let s := if flag t.ctl 60 && !gs.isEmpty then
          s.traceRec region 0x30 (BitVec.ofNat 8 (bitSet gs) :: gs.flatMap fun g => varint (t.kills.getD g 0))
        else s
      .next (if flag t.ctl 59 && t.elided ≠ 0 then s.traceRec region 0x40 (varint t.elided) else s)

/-- What a task does at a sample: its state and the slot of its oldest unfired instruction. -/
def State.sampleOf (s : State) (a : Agent) : Nat × Option Nat :=
  match (s.task a).st == .active, s.win a with
  | true, some w =>
    let left := (List.range w.slots.length).find? fun i => optB w.slots[i]? fun sl => sl.st == .waiting || sl.st == .pending
    if !(s.candsOf a).isEmpty then (0, left)
    else if w.slots.any (fun sl => sl.st == .pending) then (2, left)
    else (1, left)
  | _, _ => (3, none)

/-- TRACE_SAMPLE (R420, R421): once every 2^SPER cycles, a record for each of the region's tasks. -/
def execTraceSample (region : Nat) (s : State) : Host.Outcome State Fault Refusal :=
  match s.regions.find region with
  | none => .next s
  | some r =>
    let n := field r.trace.ctl 57 53
    if n = 0 || s.cycle % 2 ^ n ≠ 0 || r.trace.sampled == some s.cycle then .next s
    else
      let s := s.modRegion region fun r => { r with trace := { r.trace with sampled := some s.cycle } }
      let tasks := r.cells.flatMap fun (c : Nat × Nat) => (List.range 8).filterMap fun t =>
        let a : Agent := .task c.1 c.2 t
        if (s.task a).st != .unbound && s.regionOf a = region then some a else none
      .next (tasks.foldl (fun s a =>
        let q := s.sampleOf a
        let node := match q.2 with | some i => (s.nodeInfo a i).1 | none => 0xFFFFFFFF
        s.traceRec region (0x50 + q.1) (varint (s.posOf a) ++ varint node)) s)

/-! ## The clock -/

/-- The foreign writes that stand next in the records of contexts that replay are written again, with no access of the context behind
them as well (R143, R145). -/
def State.replayTick (s : State) : State :=
  s.logs.foldl (fun s e =>
    if !e.2.replay || e.2.regions.any (fun k => optB (s.regions.find k) (·.dh)) then s
    else e.2.subs.foldl (fun s q => match s.foreignNow e.1 q.1 with
      | .done s => s
      | .diverge ln => s.diverged ln
      | _ => s) s) s

/-- A cycle passes; a part of a SOUNDING leaves (R1, R433). -/
def State.clock (s : State) : State := s.tick.sendPart.replayTick

end Sys2Proof.Machine
end

