-- ==== Sys2Proof/Machine/Admission.lean ====
section
/-! DEFINITION. The admission decision of a scheduler (R370-R372, R374, R380): its levels, pre-emption for a blocked head, and the save of a
settled victim. -/

namespace Sys2Proof.Machine

/-- A region that may be pre-empted for a head of priority `p` on a die (R372, R388, R413): a splicing one only when its inputs have carried
the splice token (R406). -/
def State.mayVictim (s : State) (d p : Nat) (k : Nat) (r : Region) : Bool :=
  keyDie k = d && r.st == .active && r.pe && Nat.ble (r.prio + 8) p &&
  (s.gangOf k).all fun g => match s.regions.find g with
    | some x => x.st == .active && !x.frozen && !x.dh && (x.succ.isNone || s.inputsSpliced g)
    | none => false

/-- Would a head fit once a gang's cells were free (R372)? -/
def State.fitsWithout (s : State) (d : Nat) (h : LRec) (k : Nat) : Bool :=
  (((s.gangOf k).foldl (fun s g => s.leaveRegion g .saved) s).fits d h).isSome

/-- Has a helm core that ranks before the scheduler an operation on one of a gang's regions due in this cycle (R361, R374)? The scheduler
ranks as core 2 of io0. -/
def State.helmFirst (s : State) (ks : List Nat) : Bool :=
  s.helms.any fun e => e.1 < 258 && optB (s.regionOpDue (.helm e.1)) fun h => ks.any fun k => handleOf k = h

/-- The scheduler pre-empts a victim for a blocked head: the lowest priority, then the latest admitted, one at a time (R372). -/
def State.preemptFor (s : State) (d p : Nat) (h : LRec) : State :=
  if s.regions.any fun e => keyDie e.1 = d && e.2.victim && e.2.st == .gating then s
  else
    let cands := s.regions.filter fun e => s.mayVictim d p e.1 e.2 && s.fitsWithout d h e.1
    let better (a b : Region) : Bool := b.prio < a.prio || (b.prio = a.prio && a.admitted < b.admitted)
    match cands.foldl (fun (b : Option (Nat × Region)) e => match b with
        | some x => if better x.2 e.2 then some e else b
        | none => some e) none with
    | some e => if s.helmFirst (s.gangOf e.1) then s else s.startGate (s.gangOf e.1) true
    | none => s

/-- The passes of a level, with its head as it stands now: they start again when the head has left its level, not where an older record
has come before it (R370). -/
def State.levelHead (s : State) (d p : Nat) (h : LRec) : State :=
  s.modDie d fun x =>
    let old := x.pass.get (64 + p) 0
    let pass := x.pass.put (64 + p) (h.id + 1)
    if s.recs.any fun r => r.id + 1 = old && s.inLevel d p r then { x with pass := pass } else { x with pass := pass.put p 0 }

/-- The mark of a head that blocks its own level, after eight passes (R370, R380); the level's other records have none. -/
def State.markHead (s : State) (d p : Nat) (h : LRec) : State :=
  s.modDie d fun x =>
    let others := x.blocked.filter fun id => id ≠ h.id && !(s.recs.any fun r => r.id = id && s.inLevel d p r)
    { x with blocked := if 8 ≤ x.pass.get p 0 then setAdd others h.id else others }

/-- The admission loop from a level downwards (R370). -/
def State.decideLevels (s : State) (d : Nat) : List Nat → State
  | [] => s
  | p :: rest =>
    match s.recs.filter (s.inLevel d p) with
    | [] => State.decideLevels s d rest
    | h :: l =>
      let s := s.levelHead d p h
      match s.fits d h with
      | some o => (s.takeRecord d h o).modDie d fun x => { x with pass := x.pass.put p 0 }
      | none =>
        let s := if d < 64 then s.preemptFor d p h else s
        let s := s.markHead d p h
        if 8 ≤ (s.die d).pass.get p 0 then s
        else
          match l.find? fun r => (s.fits d r).isSome with
          | some r =>
            ((s.takeRecord d r ((s.fits d r).getD 0)).modDie d fun x => { x with pass := x.pass.put p (x.pass.get p 0 + 1) }).markHead d p h
          | none => s

/-- The charts of records that may share cells are asked for before a decision judges their clashes (R371). -/
def State.askCharts (s : State) (d : Nat) : State :=
  s.recs.foldl (fun s r =>
    if rShare r.words && d < 64 && s.inLevel d (rPrio r.words) r then
      match s.fetchChart { r with granted := [256 * d] } with | .wait s => s | _ => s
    else s) s

/-- A scheduler begins its decision of a cycle. -/
def State.beginDecision (s : State) (d : Nat) : State := (s.modDie d fun x => { x with lastDecision := s.cycle + 1 }).askCharts d

/-- A scheduler's CKSAVE of a victim whose form is settled, into the SAVE area of its record (R372, R402). -/
def State.saveVictim (s : State) (k : Nat) : State :=
  match s.recOf k with
  | none => s
  | some r =>
    let ks := s.gangOf k
    let va := rSave r.words
    match r.acc with
    | some id => (match s.partsBad id with
      | some e => (s.recClose r.id).failSave ks e.1
      | none => if (s.partsDone id).isSome then (s.recClose r.id).leaveSaved ks va else s)
    | none =>
      match s.writeArea ks va with
      | .done s => s.leaveSaved ks va
      | .wait s => s
      | .pod s us => (s.modRec r.id fun r => { r with acc := some s.nextAcc }).openParts noAgent us
      | .full s ln key held => s.foreignFull ln key (keyDie k) held
      | .fail s c => s.failSave ks c

/-- ADMISSION_DECISION (R370, R372, R374, R379): a settled victim is saved; else one decision every 64 cycles, none while the
scheduler's event queue is full, and none by the package scheduler while io0 is not ready (R25); dies that decide in one cycle do
so in ascending order, the package scheduler last. After a CANCEL of the cycle there is none on its die: an admission that the cycle
decides would stand. -/
def execAdmissionDecision (sched : Nat) (s : State) : Host.Outcome State Fault Refusal :=
  let x := s.die sched
  match s.regions.find? fun e => keyDie e.1 = sched && e.2.victim && e.2.st == .gating && e.2.settled with
  | some e => .next (s.saveVictim e.1)
  | none =>
    if 64 < sched || (sched = 64 && !s.hostReady) || (x.lastDecision ≠ 0 && s.cycle < x.lastDecision + 63) || 256 ≤ x.events.length || !x.evHeld.isEmpty
      || x.cancelAt = s.cycle + 1 || (List.range 65).any (fun e => sched < e && (s.die e).lastDecision = s.cycle + 1)
      || (sched = 64 && s.recs.any fun r => r.qdie = 64 && r.st == .reserved) then .next s
    else .next ((s.beginDecision sched).decideLevels sched ((List.range 64).reverse))

end Sys2Proof.Machine
end

