-- ==== Sys2Proof/Machine/Integer.lean ====
section
/-! DEFINITION. The integer instructions 10-2F (R252-R261). -/

namespace Sys2Proof.Machine

/-- `res` of R254 with the generator passed on. -/
def intRes (t : Ty) (sat : Bool) (g : Nat) (y : Int) : Res := let r := resInt t sat y; ⟨r.1, r.2, g⟩

/-- Bitwise results on PRED act on bit 0 (R252). -/
def predMask (t : Ty) (b : Nat) : Nat := if t = .pred then b % 2 else b % 2 ^ t.width

/-- Latency of DIV and REM (R253). -/
def divLatency (t : Ty) : Nat := if t.width = 8 then 6 else if t.width = 16 then 10 else if t.width = 32 then 18 else 34

/-- The integer quotient of DIV (R255). -/
def divInt (t : Ty) (sat : Bool) (g a b : Nat) : Res :=
  let x := t.intVal a
  let y := t.intVal b
  if y = 0 then ⟨2 ^ t.width - 1, fDZ, g⟩
  else if t.isSigned && x == t.lo && y == -1 then (if sat then ⟨wrapN t.hi t.width, fSAT, g⟩ else ⟨a, 0, g⟩)
  else ⟨wrapN (Int.tdiv x y) t.width, 0, g⟩

/-- The remainder of REM (R255). -/
def remInt (t : Ty) (g a b : Nat) : Res :=
  let x := t.intVal a
  let y := t.intVal b
  if y = 0 then ⟨a, fDZ, g⟩ else ⟨wrapN (Int.tmod x y) t.width, 0, g⟩

/-- SHL (R256); a saturating shift of a nonzero value by the width or more is out of range. -/
def shlInt (t : Ty) (sat : Bool) (g a b : Nat) : Res :=
  if sat then intRes t true g (t.intVal a * (2 : Int) ^ (min b 128))
  else pureRes g (if b < t.width then a * 2 ^ b % 2 ^ t.width else 0)

/-- ROT (R256). -/
def rotLeft (w a b : Nat) : Nat := let k := b % w; (a * 2 ^ k + a / 2 ^ (w - k)) % 2 ^ w

/-- Bit reversal at a width (R253). -/
def bitRev (w a : Nat) : Nat := (List.range w).foldl (fun r i => 2 * r + a / 2 ^ i % 2) 0

/-- Leading zero bits at a width (R253). -/
def leadZeros (w a : Nat) : Nat := if a = 0 then w else w - 1 - Nat.log2 a

/-- One bits of a number below 2^w (R253). -/
def popCount (w a : Nat) : Nat := (bitsOf a w).length

/-- BEXT (R257). -/
def bextInt (t : Ty) (len a b : Nat) : Nat :=
  let f := a / 2 ^ min b 64 % 2 ^ len
  if t.isSigned then wrapN (sextN f len) t.width else f

/-- BINS (R257). -/
def binsInt (t : Ty) (len a b x : Nat) : Nat :=
  let p := min x 64
  let m := ((2 ^ len - 1) * 2 ^ p) % 2 ^ t.width
  (a &&& (2 ^ t.width - 1 - m)) ||| ((b * 2 ^ p % 2 ^ t.width) &&& m)

/-- The comparison codes of CMP (R258). -/
def cmpHolds (cond : Nat) (x y : Int) : Bool :=
  match cond with | 0 => x == y | 1 => x != y | 2 => x < y | 3 => x ≤ y | 4 => y < x | _ => y ≤ x

/-- The immediate of a word of format I (R188). -/
def FmtI.value (f : FmtI) : Nat := (immediate f.ty f.imm.toNat f.ipos).getD 0

/-- ADD (R254). -/
def execAdd (f : FmtG) (s : State) : Host.Outcome State Fault Refusal :=
  lift2 s 0x10 (.g f) 1 none fun g a b => intRes f.ty f.sat g (f.ty.intVal a + f.ty.intVal b)

/-- SUB (R254). -/
def execSub (f : FmtG) (s : State) : Host.Outcome State Fault Refusal :=
  lift2 s 0x11 (.g f) 1 none fun g a b => intRes f.ty f.sat g (f.ty.intVal a - f.ty.intVal b)

/-- MUL (R254). -/
def execMul (f : FmtG) (s : State) : Host.Outcome State Fault Refusal :=
  lift2 s 0x12 (.g f) 3 none fun g a b => intRes f.ty f.sat g (f.ty.intVal a * f.ty.intVal b)

/-- MULH (R254). -/
def execMulh (f : FmtG) (s : State) : Host.Outcome State Fault Refusal :=
  lift2 s 0x13 (.g f) 3 none fun g a b =>
    pureRes g (wrapN (Int.fdiv (f.ty.intVal a * f.ty.intVal b) ((2 : Int) ^ f.ty.width)) f.ty.width)

/-- DIV (R255). -/
def execDiv (f : FmtG) (s : State) : Host.Outcome State Fault Refusal :=
  lift2 s 0x14 (.g f) (divLatency f.ty) none (divInt f.ty f.sat)

/-- REM (R255). -/
def execRem (f : FmtG) (s : State) : Host.Outcome State Fault Refusal :=
  lift2 s 0x15 (.g f) (divLatency f.ty) none (remInt f.ty)

/-- MIN (R254). -/
def execMin (f : FmtG) (s : State) : Host.Outcome State Fault Refusal :=
  lift2 s 0x16 (.g f) 1 none fun g a b => pureRes g (if f.ty.intVal a ≤ f.ty.intVal b then a else b)

/-- MAX (R254). -/
def execMax (f : FmtG) (s : State) : Host.Outcome State Fault Refusal :=
  lift2 s 0x17 (.g f) 1 none fun g a b => pureRes g (if f.ty.intVal a ≤ f.ty.intVal b then b else a)

/-- ABS (R254). -/
def execAbs (f : FmtG) (s : State) : Host.Outcome State Fault Refusal :=
  lift1 s 0x18 (.g f) 1 none none fun g a => intRes f.ty f.sat g ((f.ty.intVal a).natAbs : Int)

/-- NEG (R254). -/
def execNeg (f : FmtG) (s : State) : Host.Outcome State Fault Refusal :=
  lift1 s 0x19 (.g f) 1 none none fun g a => intRes f.ty f.sat g (-(f.ty.intVal a))

/-- AND (R252, R253). -/
def execAnd (f : FmtG) (s : State) : Host.Outcome State Fault Refusal :=
  lift2 s 0x1A (.g f) 1 none fun g a b => pureRes g (predMask f.ty (a &&& b))

/-- OR (R252, R253). -/
def execOr (f : FmtG) (s : State) : Host.Outcome State Fault Refusal :=
  lift2 s 0x1B (.g f) 1 none fun g a b => pureRes g (predMask f.ty (a ||| b))

/-- XOR (R252, R253). -/
def execXor (f : FmtG) (s : State) : Host.Outcome State Fault Refusal :=
  lift2 s 0x1C (.g f) 1 none fun g a b => pureRes g (predMask f.ty (a ^^^ b))

/-- NOT (R252, R253). -/
def execNot (f : FmtG) (s : State) : Host.Outcome State Fault Refusal :=
  lift1 s 0x1D (.g f) 1 none none fun g a => pureRes g (predMask f.ty (2 ^ f.ty.width - 1 - a))

/-- SHL (R256). -/
def execShl (f : FmtG) (s : State) : Host.Outcome State Fault Refusal :=
  lift2 s 0x1E (.g f) 1 none (shlInt f.ty f.sat)

/-- SHR (R256). -/
def execShr (f : FmtG) (s : State) : Host.Outcome State Fault Refusal :=
  lift2 s 0x1F (.g f) 1 none fun g a b => pureRes g (if b < f.ty.width then a / 2 ^ b else 0)

/-- SRA (R256). -/
def execSra (f : FmtG) (s : State) : Host.Outcome State Fault Refusal :=
  lift2 s 0x20 (.g f) 1 none fun g a b =>
    pureRes g (wrapN (Int.fdiv (sextN a f.ty.width) ((2 : Int) ^ min b (f.ty.width - 1))) f.ty.width)

/-- ROT (R256). -/
def execRot (f : FmtG) (s : State) : Host.Outcome State Fault Refusal :=
  lift2 s 0x21 (.g f) 1 none fun g a b => pureRes g (rotLeft f.ty.width a b)

/-- CLZ (R253). -/
def execClz (f : FmtG) (s : State) : Host.Outcome State Fault Refusal :=
  lift1 s 0x22 (.g f) 1 none none fun g a => pureRes g (leadZeros f.ty.width a)

/-- POPC (R253). -/
def execPopc (f : FmtG) (s : State) : Host.Outcome State Fault Refusal :=
  lift1 s 0x23 (.g f) 1 none none fun g a => pureRes g (popCount f.ty.width a)

/-- BREV (R253). -/
def execBrev (f : FmtG) (s : State) : Host.Outcome State Fault Refusal :=
  lift1 s 0x24 (.g f) 1 none none fun g a => pureRes g (bitRev f.ty.width a)

/-- BEXT (R257). -/
def execBext (f : FmtG) (s : State) : Host.Outcome State Fault Refusal :=
  lift2 s 0x25 (.g f) 1 none fun g a b => pureRes g (bextInt f.ty (f.aux.toNat % 128) a b)

/-- BINS (R257). -/
def execBins (f : FmtG) (s : State) : Host.Outcome State Fault Refusal :=
  lift3 s 0x26 (.g f) 1 fun g a b x => pureRes g (binsInt f.ty (f.aux.toNat % 128) a b x)

/-- MADD (R254). -/
def execMadd (f : FmtG) (s : State) : Host.Outcome State Fault Refusal :=
  lift3 s 0x27 (.g f) 3 fun g a b x => intRes f.ty f.sat g (f.ty.intVal a * f.ty.intVal b + f.ty.intVal x)

/-- LEA (R259). -/
def execLea (f : FmtG) (s : State) : Host.Outcome State Fault Refusal :=
  lift2 s 0x28 (.g f) 1 none fun g a b => pureRes g ((a + b * 2 ^ (f.aux.toNat % 8)) % 2 ^ 64)

/-- CMP (R258). -/
def execCmp (f : FmtG) (s : State) : Host.Outcome State Fault Refusal :=
  lift2 s 0x29 (.g f) 1 (some .pred) fun g a b =>
    pureRes g (bit (cmpHolds (f.aux.toNat % 8) (f.ty.intVal a) (f.ty.intVal b)))

/-- ADDI (R261). -/
def execAddi (f : FmtI) (s : State) : Host.Outcome State Fault Refusal :=
  lift1 s 0x2A (.i f) 1 none none fun g a => pureRes g ((a + f.value) % 2 ^ f.ty.width)

/-- ANDI (R261). -/
def execAndi (f : FmtI) (s : State) : Host.Outcome State Fault Refusal :=
  lift1 s 0x2B (.i f) 1 none none fun g a => pureRes g (predMask f.ty (a &&& f.value))

/-- ORI (R261). -/
def execOri (f : FmtI) (s : State) : Host.Outcome State Fault Refusal :=
  lift1 s 0x2C (.i f) 1 none none fun g a => pureRes g (predMask f.ty (a ||| f.value))

/-- XORI (R261). -/
def execXori (f : FmtI) (s : State) : Host.Outcome State Fault Refusal :=
  lift1 s 0x2D (.i f) 1 none none fun g a => pureRes g (predMask f.ty (a ^^^ f.value))

/-- CMPI (R261). -/
def execCmpi (f : FmtI) (s : State) : Host.Outcome State Fault Refusal :=
  lift1 s 0x2E (.i f) 1 none (some .pred) fun g a => pureRes g (bit (f.ty.intVal a < f.ty.intVal f.value))

/-- SHFL (R260): lane i is lane (rv_i mod 32) of L. -/
def execShfl (f : FmtG) (s : State) : Host.Outcome State Fault Refusal :=
  fireTok s 0x2F (.g f) 2 fun _ _ _ sl =>
    let l := (sl.tok .l).lanes f.ty
    (lanesTok f.ty (((sl.tok .r).lanes f.ty).map fun k => (l[k % 32]?).getD 0), 0)

end Sys2Proof.Machine
end

