-- ==== Sys2Proof/Machine/Lanes.lean ====
section
/-! DEFINITION. The lane instructions 41-45 (R285-R287). The spec states no latency for them; the model takes one cycle
(DESIGN CHOICE, log entry 9). -/

namespace Sys2Proof.Machine

/-- The combining operation of an op code (R285). -/
def ropOf (n : Nat) : Rop :=
  match n with | 0 => .add | 1 => .min | 2 => .max | 3 => .and | 4 => .or | _ => .xor

/-- Inclusive prefixes in a chain (R286): the prefix so far, then the lanes that follow. -/
def prefixGo (c : Nat → Nat → Nat → Res) (p : Nat) : List Nat → Nat → Nat → List Nat × Nat
  | [], _, fl => ([], fl)
  | x :: r, g, fl =>
    let y := c g p x
    let q := prefixGo c y.bits r y.gen (fl ||| y.flags)
    (y.bits :: q.1, q.2)

/-- RED (R286): the 32 lanes in the fixed tree. -/
def execRed (f : FmtG) (s : State) : Host.Outcome State Fault Refusal :=
  let rm := s.resolveRm s.here.agent f.rm
  fireTok s 0x41 (.g f) 1 fun s a i sl =>
    let r := reduceElems (ropOf (f.aux.toNat % 8)) f.ty rm f.sat (s.genOf a i) ((sl.tok .l).lanes f.ty)
    (elemTok f.ty r.bits, r.flags)

/-- PFX (R286): inclusive prefixes in a chain. -/
def execPfx (f : FmtG) (s : State) : Host.Outcome State Fault Refusal :=
  let rm := s.resolveRm s.here.agent f.rm
  fireTok s 0x42 (.g f) 1 fun s a i sl =>
    match ((sl.tok .l).lanes f.ty).map (storeElem f.ty) with
    | [] => (nullToken, 0)
    | x :: r =>
      let p := prefixGo (fun g a b => combineElem (ropOf (f.aux.toNat % 8)) f.ty rm f.sat g a b) x r (s.genOf a i) 0
      (lanesTok f.ty (x :: p.1), p.2)

/-- The lane a LANE or VINS names: its immediate, or the low bits of an operand modulo 32 (R287). -/
def laneIndex (f : FmtG) (dyn : Token) : Nat :=
  if f.aux.toNat.testBit 5 then f.aux.toNat % 32 else dyn.w64 % 32

/-- LANE (R287). -/
def execLane (f : FmtG) (s : State) : Host.Outcome State Fault Refusal :=
  fireTok s 0x43 (.g f) 1 fun _ _ _ sl =>
    (elemTok f.ty (storeElem f.ty ((((sl.tok .l).lanes f.ty)[laneIndex f (sl.tok .r)]?).getD 0)), 0)

/-- VINS (R287). -/
def execVins (f : FmtG) (s : State) : Host.Outcome State Fault Refusal :=
  fireTok s 0x44 (.g f) 1 fun _ _ _ sl =>
    (lanesTok f.ty ((listSet ((sl.tok .l).lanes f.ty) (laneIndex f (sl.tok .x)) ((sl.tok .r).elem f.ty)).map (storeElem f.ty)), 0)

/-- VIDX (R287). -/
def execVidx (f : FmtG) (s : State) : Host.Outcome State Fault Refusal :=
  fireTok s 0x45 (.g f) 1 fun _ _ _ sl =>
    let v := f.ty.intVal ((sl.tok .l).elem f.ty)
    (lanesTok f.ty ((List.range 32).map fun (i : Nat) => wrapN (v + (i : Int) * sextN f.aux.toNat 13) f.ty.width), 0)

end Sys2Proof.Machine
end

