-- ==== Sys2Proof/Machine/Dispatch.lean ====
section
/-! DEFINITION. One arm for each constructor of Instr: the meaning it calls. -/

namespace Sys2Proof.Machine

def exec (i : Instr) (s : State) : Host.Outcome State Fault Refusal :=
  match i with
  | .mov f => Sys2Proof.Machine.execMov f s
  | .movi f => Sys2Proof.Machine.execMovi f s
  | .nullTok f => Sys2Proof.Machine.execNullTok f s
  | .readReg f => Sys2Proof.Machine.execReadReg f s
  | .sel f => Sys2Proof.Machine.execSel f s
  | .inTok f => Sys2Proof.Machine.execInTok f s
  | .stopTok f => Sys2Proof.Machine.execStopTok f s
  | .tokt f => Sys2Proof.Machine.execTokt f s
  | .color f => Sys2Proof.Machine.execColor f s
  | .add f => Sys2Proof.Machine.execAdd f s
  | .sub f => Sys2Proof.Machine.execSub f s
  | .mul f => Sys2Proof.Machine.execMul f s
  | .mulh f => Sys2Proof.Machine.execMulh f s
  | .div f => Sys2Proof.Machine.execDiv f s
  | .rem f => Sys2Proof.Machine.execRem f s
  | .min f => Sys2Proof.Machine.execMin f s
  | .max f => Sys2Proof.Machine.execMax f s
  | .abs f => Sys2Proof.Machine.execAbs f s
  | .neg f => Sys2Proof.Machine.execNeg f s
  | .and f => Sys2Proof.Machine.execAnd f s
  | .or f => Sys2Proof.Machine.execOr f s
  | .xor f => Sys2Proof.Machine.execXor f s
  | .not f => Sys2Proof.Machine.execNot f s
  | .shl f => Sys2Proof.Machine.execShl f s
  | .shr f => Sys2Proof.Machine.execShr f s
  | .sra f => Sys2Proof.Machine.execSra f s
  | .rot f => Sys2Proof.Machine.execRot f s
  | .clz f => Sys2Proof.Machine.execClz f s
  | .popc f => Sys2Proof.Machine.execPopc f s
  | .brev f => Sys2Proof.Machine.execBrev f s
  | .bext f => Sys2Proof.Machine.execBext f s
  | .bins f => Sys2Proof.Machine.execBins f s
  | .madd f => Sys2Proof.Machine.execMadd f s
  | .lea f => Sys2Proof.Machine.execLea f s
  | .cmp f => Sys2Proof.Machine.execCmp f s
  | .addi f => Sys2Proof.Machine.execAddi f s
  | .andi f => Sys2Proof.Machine.execAndi f s
  | .ori f => Sys2Proof.Machine.execOri f s
  | .xori f => Sys2Proof.Machine.execXori f s
  | .cmpi f => Sys2Proof.Machine.execCmpi f s
  | .shfl f => Sys2Proof.Machine.execShfl f s
  | .fadd f => Sys2Proof.Machine.execFadd f s
  | .fsub f => Sys2Proof.Machine.execFsub f s
  | .fmul f => Sys2Proof.Machine.execFmul f s
  | .ffma f => Sys2Proof.Machine.execFfma f s
  | .fdiv f => Sys2Proof.Machine.execFdiv f s
  | .fsqrt f => Sys2Proof.Machine.execFsqrt f s
  | .fmin f => Sys2Proof.Machine.execFmin f s
  | .fmax f => Sys2Proof.Machine.execFmax f s
  | .fabs f => Sys2Proof.Machine.execFabs f s
  | .fneg f => Sys2Proof.Machine.execFneg f s
  | .fcmp f => Sys2Proof.Machine.execFcmp f s
  | .fclass f => Sys2Proof.Machine.execFclass f s
  | .cvt f => Sys2Proof.Machine.execCvt f s
  | .frint f => Sys2Proof.Machine.execFrint f s
  | .fscale f => Sys2Proof.Machine.execFscale f s
  | .faddi f => Sys2Proof.Machine.execFaddi f s
  | .fmuli f => Sys2Proof.Machine.execFmuli f s
  | .fexp2 f => Sys2Proof.Machine.execFexp2 f s
  | .red f => Sys2Proof.Machine.execRed f s
  | .pfx f => Sys2Proof.Machine.execPfx f s
  | .lane f => Sys2Proof.Machine.execLane f s
  | .vins f => Sys2Proof.Machine.execVins f s
  | .vidx f => Sys2Proof.Machine.execVidx f s
  | .dsrc f => Sys2Proof.Machine.execDsrc f s
  | .dsink f => Sys2Proof.Machine.execDsink f s
  | .dadd f => Sys2Proof.Machine.execDadd f s
  | .dsub f => Sys2Proof.Machine.execDsub f s
  | .dmul f => Sys2Proof.Machine.execDmul f s
  | .ddiv f => Sys2Proof.Machine.execDdiv f s
  | .dsqrt f => Sys2Proof.Machine.execDsqrt f s
  | .dfma f => Sys2Proof.Machine.execDfma f s
  | .drelu f => Sys2Proof.Machine.execDrelu f s
  | .dmax f => Sys2Proof.Machine.execDmax f s
  | .dmin f => Sys2Proof.Machine.execDmin f s
  | .dthr f => Sys2Proof.Machine.execDthr f s
  | .dexp2 f => Sys2Proof.Machine.execDexp2 f s
  | .dacc f => Sys2Proof.Machine.execDacc f s
  | .dred f => Sys2Proof.Machine.execDred f s
  | .dscl f => Sys2Proof.Machine.execDscl f s
  | .tload f => Sys2Proof.Machine.execTload f s
  | .tswap f => Sys2Proof.Machine.execTswap f s
  | .mmrow f => Sys2Proof.Machine.execMmrow f s
  | .mmout f => Sys2Proof.Machine.execMmout f s
  | .mmzero f => Sys2Proof.Machine.execMmzero f s
  | .tdir f => Sys2Proof.Machine.execTdir f s
  | .tclass f => Sys2Proof.Machine.execTclass f s
  | .tfill f => Sys2Proof.Machine.execTfill f s
  | .shape f => Sys2Proof.Machine.execShape f s
  | .shapeq f => Sys2Proof.Machine.execShapeq f s
  | .sbind f => Sys2Proof.Machine.execSbind f s
  | .sbar f => Sys2Proof.Machine.execSbar f s
  | .scan f => Sys2Proof.Machine.execScan f s
  | .isect f => Sys2Proof.Machine.execIsect f s
  | .unionS f => Sys2Proof.Machine.execUnionS f s
  | .repeatS f => Sys2Proof.Machine.execRepeatS f s
  | .sacc f => Sys2Proof.Machine.execSacc f s
  | .gather f => Sys2Proof.Machine.execGather f s
  | .scatter f => Sys2Proof.Machine.execScatter f s
  | .scata f => Sys2Proof.Machine.execScata f s
  | .ld f => Sys2Proof.Machine.execLd f s
  | .st f => Sys2Proof.Machine.execSt f s
  | .ldv f => Sys2Proof.Machine.execLdv f s
  | .stv f => Sys2Proof.Machine.execStv f s
  | .ldw f => Sys2Proof.Machine.execLdw f s
  | .stf f => Sys2Proof.Machine.execStf f s
  | .clr f => Sys2Proof.Machine.execClr f s
  | .aadd f => Sys2Proof.Machine.execAadd f s
  | .amin f => Sys2Proof.Machine.execAmin f s
  | .amax f => Sys2Proof.Machine.execAmax f s
  | .aand f => Sys2Proof.Machine.execAand f s
  | .aor f => Sys2Proof.Machine.execAor f s
  | .axor f => Sys2Proof.Machine.execAxor f s
  | .aswp f => Sys2Proof.Machine.execAswp f s
  | .acas f => Sys2Proof.Machine.execAcas f s
  | .afadd f => Sys2Proof.Machine.execAfadd f s
  | .fence f => Sys2Proof.Machine.execFence f s
  | .mwait f => Sys2Proof.Machine.execMwait f s
  | .pref f => Sys2Proof.Machine.execPref f s
  | .wback f => Sys2Proof.Machine.execWback f s
  | .inval f => Sys2Proof.Machine.execInval f s
  | .rput f => Sys2Proof.Machine.execRput f s
  | .rget f => Sys2Proof.Machine.execRget f s
  | .rfree f => Sys2Proof.Machine.execRfree f s
  | .rstat f => Sys2Proof.Machine.execRstat f s
  | .br f => Sys2Proof.Machine.execBr f s
  | .bri f => Sys2Proof.Machine.execBri f s
  | .call f => Sys2Proof.Machine.execCall f s
  | .calli f => Sys2Proof.Machine.execCalli f s
  | .ret f => Sys2Proof.Machine.execRet f s
  | .spawn f => Sys2Proof.Machine.execSpawn f s
  | .retc f => Sys2Proof.Machine.execRetc f s
  | .halt f => Sys2Proof.Machine.execHalt f s
  | .yield f => Sys2Proof.Machine.execYield f s
  | .waypt f => Sys2Proof.Machine.execWaypt f s
  | .trap f => Sys2Proof.Machine.execTrap f s
  | .brk f => Sys2Proof.Machine.execBrk f s
  | .barw f => Sys2Proof.Machine.execBarw f s
  | .bara f => Sys2Proof.Machine.execBara f s
  | .bart f => Sys2Proof.Machine.execBart f s
  | .semw f => Sys2Proof.Machine.execSemw f s
  | .sema f => Sys2Proof.Machine.execSema f s
  | .semr f => Sys2Proof.Machine.execSemr f s
  | .evt f => Sys2Proof.Machine.execEvt f s
  | .copy f => Sys2Proof.Machine.execCopy f s
  | .batch f => Sys2Proof.Machine.execBatch f s
  | .waitb f => Sys2Proof.Machine.execWaitb f s
  | .launch f => Sys2Proof.Machine.execLaunch f s
  | .splice f => Sys2Proof.Machine.execSplice f s
  | .cancelLaunch f => Sys2Proof.Machine.execCancelLaunch f s
  | .cancelCopies f => Sys2Proof.Machine.execCancelCopies f s
  | .qstat f => Sys2Proof.Machine.execQstat f s
  | .cstat f => Sys2Proof.Machine.execCstat f s
  | .csrr f => Sys2Proof.Machine.execCsrr f s
  | .csrw f => Sys2Proof.Machine.execCsrw f s
  | .mailr f => Sys2Proof.Machine.execMailr f s
  | .resume f => Sys2Proof.Machine.execResume f s
  | .abort f => Sys2Proof.Machine.execAbort f s
  | .chload f => Sys2Proof.Machine.execChload f s
  | .chact f => Sys2Proof.Machine.execChact f s
  | .preempt f => Sys2Proof.Machine.execPreempt f s
  | .cksave f => Sys2Proof.Machine.execCksave f s
  | .ckrest f => Sys2Proof.Machine.execCkrest f s
  | .tlbi f => Sys2Proof.Machine.execTlbi f s
  | .almr f => Sys2Proof.Machine.execAlmr f s
  | .almw f => Sys2Proof.Machine.execAlmw f s
  | .reckRdbudget f => Sys2Proof.Machine.execReckRdbudget f s
  | .reckWrbudget f => Sys2Proof.Machine.execReckWrbudget f s
  | .reckRdctr f => Sys2Proof.Machine.execReckRdctr f s
  | .sound f => Sys2Proof.Machine.execSound f s
  | .idle f => Sys2Proof.Machine.execIdle f s
  | .attest f => Sys2Proof.Machine.execAttest f s
  | .tokenArrivalActivate cell t => Sys2Proof.Machine.execTokenArrivalActivate cell t s
  | .blockCommit a => Sys2Proof.Machine.execBlockCommit a s
  | .circuitForward cell cctx cid => Sys2Proof.Machine.execCircuitForward cell cctx cid s
  | .routerSteer cell cctx cid => Sys2Proof.Machine.execRouterSteer cell cctx cid s
  | .routerMerge cell cctx cid => Sys2Proof.Machine.execRouterMerge cell cctx cid s
  | .routerNdmerge cell cctx cid right => Sys2Proof.Machine.execRouterNdmerge cell cctx cid right s
  | .routerCarry cell cctx cid => Sys2Proof.Machine.execRouterCarry cell cctx cid s
  | .digitStep a slot => Sys2Proof.Machine.execDigitStep a slot s
  | .killMessage n => Sys2Proof.Machine.execKillMessage n s
  | .streamToken a slot => Sys2Proof.Machine.execStreamToken a slot s
  | .streamCommandStart port cmd => Sys2Proof.Machine.execStreamCommandStart port cmd s
  | .streamCommandElement port cmd => Sys2Proof.Machine.execStreamCommandElement port cmd s
  | .helmSbindActivation port cmd => Sys2Proof.Machine.execHelmSbindActivation port cmd s
  | .matrixRowAdd a slot => Sys2Proof.Machine.execMatrixRowAdd a slot s
  | .tloadComplete cell => Sys2Proof.Machine.execTloadComplete cell s
  | .homeAccess acc unit => Sys2Proof.Machine.execHomeAccess acc unit s
  | .claimResolve w => Sys2Proof.Machine.execClaimResolve w s
  | .heldReadRelease acc unit => Sys2Proof.Machine.execHeldReadRelease acc unit s
  | .mwaitEvaluate acc => Sys2Proof.Machine.execMwaitEvaluate acc s
  | .sliceRetry acc unit => Sys2Proof.Machine.execSliceRetry acc unit s
  | .ringWaitResume acc => Sys2Proof.Machine.execRingWaitResume acc s
  | .logHeldWrite acc unit => Sys2Proof.Machine.execLogHeldWrite acc unit s
  | .bankFill cell tile line => Sys2Proof.Machine.execBankFill cell tile line s
  | .rdcFill die line => Sys2Proof.Machine.execRdcFill die line s
  | .walkComplete acc unit => Sys2Proof.Machine.execWalkComplete acc unit s
  | .tlbiComplete a slot => Sys2Proof.Machine.execTlbiComplete a slot s
  | .spawnGrant region => Sys2Proof.Machine.execSpawnGrant region s
  | .barrierPhaseComplete n => Sys2Proof.Machine.execBarrierPhaseComplete n s
  | .evtDeliver a => Sys2Proof.Machine.execEvtDeliver a s
  | .queueRoomCapture a => Sys2Proof.Machine.execQueueRoomCapture a s
  | .copyStart q => Sys2Proof.Machine.execCopyStart q s
  | .copyChunk q n => Sys2Proof.Machine.execCopyChunk q n s
  | .copyStamp q n => Sys2Proof.Machine.execCopyStamp q n s
  | .conditionSatisfied rec cond => Sys2Proof.Machine.execConditionSatisfied rec cond s
  | .admissionDecision sched => Sys2Proof.Machine.execAdmissionDecision sched s
  | .gangReservation die => Sys2Proof.Machine.execGangReservation die s
  | .loadCommit rec => Sys2Proof.Machine.execLoadCommit rec s
  | .regionComplete region => Sys2Proof.Machine.execRegionComplete region s
  | .regionStalled region => Sys2Proof.Machine.execRegionStalled region s
  | .energyWindow region => Sys2Proof.Machine.execEnergyWindow region s
  | .spliceSwitchover cell cctx => Sys2Proof.Machine.execSpliceSwitchover cell cctx s
  | .gatedQuiescence region => Sys2Proof.Machine.execGatedQuiescence region s
  | .qboundExpiry region => Sys2Proof.Machine.execQboundExpiry region s
  | .waypointQuiescence region => Sys2Proof.Machine.execWaypointQuiescence region s
  | .handlerNotify region => Sys2Proof.Machine.execHandlerNotify region s
  | .cellClockGate cell => Sys2Proof.Machine.execCellClockGate cell s
  | .cellWake cell => Sys2Proof.Machine.execCellWake cell s
  | .reset => Sys2Proof.Machine.execReset s
  | .functionReady fn pass => Sys2Proof.Machine.execFunctionReady fn pass s
  | .helmStart core => Sys2Proof.Machine.execHelmStart core s
  | .functionFailure fn => Sys2Proof.Machine.execFunctionFailure fn s
  | .almwDurable => Sys2Proof.Machine.execAlmwDurable s
  | .hostMsgFrame bytes => Sys2Proof.Machine.execHostMsgFrame bytes s
  | .sndreq bytes => Sys2Proof.Machine.execSndreq bytes s
  | .dbgFrame bytes => Sys2Proof.Machine.execDbgFrame bytes s
  | .dbgWaitOp session => Sys2Proof.Machine.execDbgWaitOp session s
  | .irqFrame => Sys2Proof.Machine.execIrqFrame s
  | .msgLaunch => Sys2Proof.Machine.execMsgLaunch s
  | .msgCopy => Sys2Proof.Machine.execMsgCopy s
  | .msgWaitb => Sys2Proof.Machine.execMsgWaitb s
  | .msgWrite => Sys2Proof.Machine.execMsgWrite s
  | .msgRead => Sys2Proof.Machine.execMsgRead s
  | .keyload => Sys2Proof.Machine.execKeyload s
  | .keyrel => Sys2Proof.Machine.execKeyrel s
  | .podcfg => Sys2Proof.Machine.execPodcfg s
  | .msgAttest => Sys2Proof.Machine.execMsgAttest s
  | .podAccessReceive kind pa size data => Sys2Proof.Machine.execPodAccessReceive kind pa size data s
  | .podAck acc unit data => Sys2Proof.Machine.execPodAck acc unit data s
  | .planeTimeout plane => Sys2Proof.Machine.execPlaneTimeout plane s
  | .ulcmdExtend w => Sys2Proof.Machine.execUlcmdExtend w s
  | .ulcmdDiscard w => Sys2Proof.Machine.execUlcmdDiscard w s
  | .accreg session => Sys2Proof.Machine.execAccreg session s
  | .accmem session => Sys2Proof.Machine.execAccmem session s
  | .haltr session => Sys2Proof.Machine.execHaltr session s
  | .haltrQuiescent session => Sys2Proof.Machine.execHaltrQuiescent session s
  | .fwd session => Sys2Proof.Machine.execFwd session s
  | .fstep session => Sys2Proof.Machine.execFstep session s
  | .back session => Sys2Proof.Machine.execBack session s
  | .bstep session => Sys2Proof.Machine.execBstep session s
  | .unseal session => Sys2Proof.Machine.execUnseal session s
  | .seal session => Sys2Proof.Machine.execSeal session s
  | .statr session => Sys2Proof.Machine.execStatr session s
  | .cmderrClear session v => Sys2Proof.Machine.execCmderrClear session v s
  | .debugRegisterWrite session reg v => Sys2Proof.Machine.execDebugRegisterWrite session reg v s
  | .traceWindow region => Sys2Proof.Machine.execTraceWindow region s
  | .traceSample region => Sys2Proof.Machine.execTraceSample region s
  | .cellPowerGate cell => Sys2Proof.Machine.execCellPowerGate cell s

end Sys2Proof.Machine
end

