-- ==== Sys2Proof/Machine/Fetch.lean ====
section
/-! DEFINITION. Placing one instruction word where the next step issues it: a block of one slot in a block store, its
operand fields holding tokens. It stands for the load of a block and the arrival of its operands. -/

namespace Sys2Proof.Machine

/-- Is an instruction an event of the hardware, that no word encodes? -/
def isEvent (i : Instr) : Bool := (opFields i).isNone

/-- The header of a block of one slot (R210): MAGIC, SIZE 1, EXITS 1. -/
def oneHeader (w : Word) : List Word := [0, 0xB500000000000000, w, 0]

/-- The token placed in an operand field: a predicate that matches, a head in a digit field, else a zero word. -/
def placedToken (op : Nat) (f : Fmt) (x : Fld) : Token :=
  if x == .p then wordTok (if f.pr == .onTrue then 1 else 0)
  else if digitField op f x then { kind := .head, stop := 0, color := 0, payload := 0 }
  else wordTok 0

/-- The slot of a word with every awaited field holding its token. -/
def placedSlot (op : Nat) (f : Fmt) : Slot :=
  (awaited op f false).foldl (fun sl x => sl.setFld x { got := true, q := [{ tok := placedToken op f x, at0 := 0 }], skip := 0 }) .fresh

/-- The window of the placed block. -/
def placedWin (op : Nat) (f : Fmt) (seq : Nat) : Win :=
  { baddr := 0, seq := seq, slots := [placedSlot op f], regs := [], flags := 0, outs := [], exit := none, taken := []
    kept := [], keptFl := [], ops := [], count := 0, rmode := 0, gen0 := 1, pnr := false, stopped := false, again := false }

/-- A task context that runs the placed block; its channels are circuits 0 to 15 both ways. -/
def placedTask (t : TaskCtx) (op : Nat) (f : Fmt) (seq : Nat) : TaskCtx :=
  { t with st := .active, fault := none, stopAt := none, succ := none, after := none, entry := 0
           ich := (List.range 16).map (128 + ·), och := (List.range 16).map (128 + ·), win := some (placedWin op f seq) }

/-- The region in which a placed block of cell 0 of die 0 runs: active, alone, of rank 7. -/
def placedRegion (now : Nat) : Region :=
  { Region.fresh now with st := .active, rank := 7, w := 1, h := 1, cells := [(0, 0)], sg := 1, stall := 1
                          cfg := { phys := false, asid := 0, troot := 0, dset := 0, keyid := 0, priv := true } }

/-- A state in which the next step issues the instruction of a word: on helm core 256 for the system opcodes, else on
task 0 of cell 0 of die 0. A word that does not decode is placed all the same, and the issue then finds nothing. -/
def State.placeWord (s : State) (w : Nat) : State :=
  let store := oneHeader (word w)
  match decodeSlot (word w) with
  | .error _ => { s with agenda := [.issue (.helm 256)] }
  | .ok (op, f) =>
    if 0xD0 ≤ op then
      let s := s.modHelm 256 fun h => { h with ready := true, blocks := store, task := placedTask h.task op f (h.seq + 1), seq := h.seq + 1 }
      let s := if op = 0xDF then s.modDie 64 fun d => { d with events := [(0, 0)] } else s
      { s with agenda := [.issue (.helm 256)] }
    else
      let s := { s with regions := s.regions.put 1 (placedRegion s.cycle) }
      let s := s.modCell 0 fun c =>
        let x := { c.cctx 0 with st := .active, region := 1, blocks := store }
        { c with seq := c.seq + 1, cctxs := c.cctxs.put 0 x, inCycle := 0, unitsUsed := []
                 tasks := [(0, { placedTask (c.task 0) op f (c.seq + 1) with cctx := 0 })]
                 inbox := (List.range 16).map fun j => (j, [{ tok := wordTok 0, at0 := 0 }]) }
      { s with agenda := [.issue (.task 0 0 0)] }

end Sys2Proof.Machine
end

