-- ==== Sys2Proof/Machine/Step.lean ====
section
/-! DEFINITION. One step of the package: the next thing on the agenda happens, or, when the agenda is empty, whatever
the free value says. `State.withFetchWord` places one instruction where the next step issues it. -/

namespace Sys2Proof.Machine

/-- What happens at a happening: a cycle passes, an agent issues an instruction, an event of the hardware takes place
(R1, R162), an arrival of another package reaches a barrier (R324), a helm core fills a context (R228), a bit of a home line or of a memory tile is upset (R82, log entry 97). -/
def happen (h : Happening) (s : State) : Host.Outcome State Fault Refusal :=
  match h with
  | .tick => .next s.clock
  | .issue a =>
    match s.prepare a with
    | .idle s => .next s
    | .bad => .fault .rejectedWord
    | .run s i => exec i s
  | .event i => if isEvent i then exec i s else .next s
  | .homeError pa corrected => .next (if paPkg pa ≠ s.pkgNum || (s.physCheck pa).isSome then s else s.homeError pa corrected)
  | .podArrival pkg asid bid n count val => .next (s.podArrive pkg asid bid n count val)
  | .helmFill core cell cctx blocks => .next (s.helmFill core cell cctx blocks)
  | .tileError cell tile off corrected => .next (s.tileError cell tile off corrected)

/-- One step. -/
def step (s : State) : Host.Outcome State Fault Refusal :=
  match s.agenda with
  | [] => happen (Config.freeHappening s.free) { s with free := s.free + 1 }
  | h :: r => happen h { s with agenda := r }

/-- The state in which the very next step issues the instruction of a table word. -/
def State.withFetchWord (s : State) (nbits w : Nat) : State := s.placeWord (w % 2 ^ nbits)

end Sys2Proof.Machine
end

