-- ==== Sys2Proof/Laws/Memory.lean ====
section
/-! SUPPORT. Memory as a canonical list of bytes: what a byte reads as after a write, and that every memory operation
keeps the canonical form. -/

namespace Sys2Proof.Machine

theorem memWfFrom_mono {lo lo' : Nat} {m : List Host.Cell} (h : memWfFrom lo m = true) (hl : lo' ≤ lo) : memWfFrom lo' m = true := by
  cases m with
  | nil => rfl
  | cons e r =>
    obtain ⟨k, b⟩ := e
    simp only [memWfFrom, Bool.and_eq_true, decide_eq_true_eq, bne_iff_ne] at h ⊢
    exact ⟨⟨Nat.le_trans hl h.1.1, h.1.2⟩, h.2⟩

/-- A canonical memory from a bound lists no address below it. -/
theorem memGet_below {lo a : Nat} {m : List Host.Cell} (h : memWfFrom lo m = true) (ha : a < lo) : memGet m a = memDefault := by
  cases m with
  | nil => rfl
  | cons e r =>
    obtain ⟨k, b⟩ := e
    simp only [memWfFrom, Bool.and_eq_true, decide_eq_true_eq, bne_iff_ne] at h
    simp [memGet, Nat.lt_of_lt_of_le ha h.1.1]

/-- Writing a byte keeps the canonical form. -/
theorem memPut_wfFrom {lo a : Nat} {b : Byte} {m : List Host.Cell} (h : memWfFrom lo m = true) (ha : lo ≤ a) :
    memWfFrom lo (memPut m a b) = true := by
  induction m generalizing lo with
  | nil => by_cases hb : b = memDefault <;> simp [memPut, memWfFrom, hb, ha]
  | cons e r ih =>
    obtain ⟨k, c⟩ := e
    simp only [memWfFrom, Bool.and_eq_true, decide_eq_true_eq, bne_iff_ne] at h
    obtain ⟨⟨hk, hc⟩, hr⟩ := h
    by_cases h1 : a < k
    · by_cases hb : b = memDefault
      · simp [memPut, h1, hb, memWfFrom, hk, hc, hr]
      · have : a + 1 ≤ k := h1
        simp [memPut, h1, hb, memWfFrom, ha, this, hc, hr]
    · by_cases h2 : a = k
      · subst h2
        by_cases hb : b = memDefault
        · simpa [memPut, hb] using memWfFrom_mono hr (Nat.le_succ_of_le hk)
        · simp [memPut, hb, memWfFrom, ha, hr]
      · have h3 : k + 1 ≤ a := by omega
        simp [memPut, h1, h2, memWfFrom, hk, hc, ih hr h3]

/-- What a byte reads as after one byte is written. -/
theorem memGet_memPutFrom {lo a c : Nat} {b : Byte} {m : List Host.Cell} (h : memWfFrom lo m = true) :
    memGet (memPut m a b) c = if c = a then b else memGet m c := by
  induction m generalizing lo with
  | nil =>
    by_cases hb : b = memDefault
    · by_cases hc : c = a <;> simp [memPut, memGet, hb, hc]
    · by_cases hc : c = a
      · simp [memPut, memGet, hb, hc]
      · simp [memPut, memGet, hb, hc]
  | cons e r ih =>
    obtain ⟨k, x⟩ := e
    simp only [memWfFrom, Bool.and_eq_true, decide_eq_true_eq, bne_iff_ne] at h
    obtain ⟨⟨hk, hx⟩, hr⟩ := h
    by_cases h1 : a < k
    · by_cases hb : b = memDefault
      · by_cases hc : c = a
        · subst hc; simp [memPut, memGet, h1, hb]
        · simp [memPut, h1, hb, hc]
      · by_cases hc : c = a
        · subst hc; simp [memPut, memGet, h1, hb]
        · by_cases hca : c < a
          · simp [memPut, memGet, h1, hb, hc, hca, Nat.lt_trans hca h1]
          · simp [memPut, memGet, h1, hb, hc, hca]
    · by_cases h2 : a = k
      · subst h2
        by_cases hb : b = memDefault
        · by_cases hc : c = a
          · subst hc; simp [memPut, hb, memGet_below hr (Nat.lt_succ_self c)]
          · by_cases hca : c < a
            · simp [memPut, memGet, hb, hc, hca, memGet_below hr (Nat.lt_succ_of_lt hca)]
            · simp [memPut, memGet, hb, hc, hca]
        · by_cases hc : c = a
          · simp [memPut, memGet, hb, hc]
          · by_cases hca : c < a <;> simp [memPut, memGet, hb, hc, hca]
      · by_cases hc : c < k
        · have : c ≠ a := by omega
          simp [memPut, memGet, h1, h2, hc, this]
        · by_cases hck : c = k
          · have : k ≠ a := fun e => h2 e.symm
            simp [memPut, memGet, h1, h2, hck, this]
          · simp [memPut, memGet, h1, h2, hc, hck, ih hr]

/-- Writing a byte keeps the canonical form. -/
theorem memPut_wf {m : List Host.Cell} (a : Nat) (b : Byte) (h : Memory.wf m = true) : Memory.wf (memPut m a b) = true :=
  memPut_wfFrom h (Nat.zero_le a)

/-- Reading after a byte is written: the byte at its address, every other byte as before. -/
theorem memGet_memPut {m : List Host.Cell} (a c : Nat) (b : Byte) (h : Memory.wf m = true) :
    memGet (memPut m a b) c = if c = a then b else memGet m c := memGet_memPutFrom h

/-- Writing bytes keeps the canonical form. -/
theorem memWrite_wf {m : List Host.Cell} (a : Nat) (bs : List Byte) (h : Memory.wf m = true) : Memory.wf (memWrite m a bs) = true := by
  induction bs generalizing m a with
  | nil => exact h
  | cons b r ih => exact ih (a + 1) (memPut_wf a b h)

/-- A byte outside the bytes written reads as before. -/
theorem memGet_memWrite_out {m : List Host.Cell} (a c : Nat) (bs : List Byte) (h : Memory.wf m = true)
    (ho : c < a ∨ a + bs.length ≤ c) : memGet (memWrite m a bs) c = memGet m c := by
  induction bs generalizing m a with
  | nil => rfl
  | cons b r ih =>
    have hl : (b :: r).length = r.length + 1 := rfl
    have hc : c ≠ a := by omega
    rw [memWrite, ih (a + 1) (memPut_wf a b h) (by omega), memGet_memPut a c b h, if_neg hc]

/-- A byte that was written reads as written. -/
theorem memGet_memWrite_in {m : List Host.Cell} (a : Nat) (bs : List Byte) (h : Memory.wf m = true) (i : Nat) (hi : i < bs.length) :
    memGet (memWrite m a bs) (a + i) = bs[i] := by
  induction bs generalizing m a i with
  | nil => exact absurd hi (Nat.not_lt_zero i)
  | cons b r ih =>
    cases i with
    | zero =>
      rw [memWrite, memGet_memWrite_out (a + 1) (a + 0) r (memPut_wf a b h) (Or.inl (by omega)), memGet_memPut _ _ _ h]
      simp
    | succ j =>
      have hj : j < r.length := by simpa using hi
      have := ih (a + 1) (memPut_wf a b h) j hj
      rw [memWrite, show a + (j + 1) = a + 1 + j by omega, this]
      rfl

end Sys2Proof.Machine
end

