-- ==== Sys2Proof/Safety.lean ====
section
/-! DEFINITION. What a step must not do, and the words in which statements speak of the instruction for which exec runs:
whether it fires, its operands, what a firing delivers. -/

namespace Sys2Proof.Machine

/-- The step of a state goes on. -/
def Safe (s : State) : Prop := ∃ t, step s = .next t

/-- The firing block and the slot of the instruction for which exec runs. -/
def State.slotHere (s : State) : Option (Win × Slot) :=
  match s.win s.here.agent with
  | none => none
  | some w => match w.slots[s.here.slot]? with | none => none | some sl => some (w, sl)

/-- May the slot for which exec runs still fire: it waits, its block goes on, its task is ACTIVE? -/
def State.pendingHere (s : State) : Option (Win × Slot) :=
  match s.slotHere with
  | none => none
  | some (w, sl) => if sl.st = .waiting ∧ w.stopped = false ∧ (s.task s.here.agent).st = .active then some (w, sl) else none

/-- What the operand tokens that have come make of the instruction for which exec runs (R158, R239). -/
def State.judged (s : State) (op : Nat) (f : Fmt) : Option Verdict :=
  match s.pendingHere with
  | none => none
  | some (w, sl) => some (s.verdict s.here.agent op f (lFed s s.here.agent w.baddr w.slots.length s.here.slot) sl)

/-- Every operand token has come, none of them a NULL, a mismatch or a stop that decides (R158, R239), and what else the
instruction waits for is there (`canGo`). -/
def State.ready (s : State) (op : Nat) (f : Fmt) : Bool :=
  match s.pendingHere with
  | none => false
  | some (w, _) => s.judged op f == some .go && s.canGo s.here.agent op f w s.here.slot

/-- The operand token of a field of the instruction for which exec runs. -/
def State.operand (s : State) (x : Fld) : Token :=
  match s.slotHere with
  | some (_, sl) => sl.tok x
  | none => wordTok 0

/-- The generator of the instruction for which exec runs (R185). -/
def State.genHere (s : State) : Nat := s.genOf s.here.agent s.here.slot

/-- The state in which the instruction for which exec runs has fired, with nothing delivered yet. -/
def State.fired (s : State) : State := s.countFiring s.here.agent s.here.slot .fired

/-- The state in which it has fired, raised flags, and sent one token to both its targets in `lat` cycles (R237, R241). -/
def State.delivered (s : State) (op : Nat) (f : Fmt) (lat : Nat) (r : Token × Nat) : State :=
  (s.fired.modWin s.here.agent fun w => w.raise r.2).sendBoth s.here.agent s.here.slot op f r.1 lat

/-- The elements of an operand: all lanes with SH 01, else the one element (R179, R238). -/
def State.elems (s : State) (sh : Sh) (ty : Ty) (x : Fld) : List Nat :=
  if sh = .vector then (s.operand x).lanes ty else [(s.operand x).elem ty]

/-- The token of results, with the flags of all lanes ORed (R252). -/
def resultTok (sh : Sh) (ty : Ty) (rs : List (Nat × Nat)) : Token × Nat :=
  (if sh = .vector then lanesTok ty (rs.map (·.1)) else elemTok ty ((rs.map (·.1)).headD 0),
   (rs.map (·.2)).foldr (· ||| ·) 0)

/-- An instruction of one operand, element by element. -/
def State.each1 (s : State) (sh : Sh) (it ot : Ty) (g : Nat → Nat × Nat) : Token × Nat :=
  resultTok sh ot ((s.elems sh it .l).map g)

/-- An instruction of two operands, element by element. -/
def State.each2 (s : State) (sh : Sh) (it ot : Ty) (g : Nat → Nat → Nat × Nat) : Token × Nat :=
  resultTok sh ot (List.zipWith g (s.elems sh it .l) (s.elems sh it .r))

/-- An instruction of three operands, element by element. -/
def State.each3 (s : State) (sh : Sh) (ty : Ty) (g : Nat → Nat → Nat → Nat × Nat) : Token × Nat :=
  resultTok sh ty (List.zipWith (fun (p : Nat × Nat) c => g p.1 p.2 c)
    (List.zip (s.elems sh ty .l) (s.elems sh ty .r)) (s.elems sh ty .x))

end Sys2Proof.Machine
end

