-- ==== Sys2Proof/WellFormed.lean ====
section
/-! DEFINITION. Which instructions are well formed: the fields hold what the opcode's description accepts (R213-R222,
reasons 0x08 to 0x0D of R230). What needs the whole block is in Machine/BlockCheck. -/

namespace Sys2Proof

/-- An instruction's fields are accepted by its opcode's description; an event of the hardware has no fields that a
checker judges. -/
abbrev WellFormed (i : Instr) : Prop := ruleAccepts i = true

end Sys2Proof
end

