-- ==== Sys2Proof/Certificates/Slice0/Obligations.lean ====
section
/-! DEFINITION. The statements for the provers. Each names the rules of the spec it formalises; `State.ready` says when an
instruction fires (R158); `FiringOutcomes` and `OperandsJudge` say what makes it so. -/

open Sys2Proof Sys2Proof.Machine

namespace Sys2Proof.Machine

/-- res(y) of R254 at a type, with the flag it raises: y itself in range, else the nearer bound with SAT, else y wrapped. -/
def resAt (t : Ty) (sat : Bool) (y : Int) : Nat × Nat :=
  if t.lo ≤ y ∧ y ≤ t.hi then (wrapN y t.width, 0)
  else if sat then (if y < t.lo then (wrapN t.lo t.width, fSAT) else (wrapN t.hi t.width, fSAT))
  else (wrapN y t.width, 0)

/-- An encoding with no flag. -/
def plain (e : Nat) : Nat × Nat := (e, 0)

/-- Results of elements that may draw, with the flags of all lanes ORed (R185, R252). -/
def drawnTok (sh : Sh) (ty : Ty) (r : List Nat × Nat × Nat) : Token × Nat :=
  (if sh = .vector then lanesTok ty r.1 else elemTok ty (r.1.headD 0), r.2.1)

/-- An instruction of one operand that rounds: one draw an element, in lane order (R185). -/
def State.round1 (s : State) (sh : Sh) (it ot : Ty) (g : Nat → Nat → Res) : Token × Nat :=
  drawnTok sh ot (mapRes g (s.elems sh it .l) s.genHere)

/-- An instruction of two operands that rounds. -/
def State.round2 (s : State) (sh : Sh) (ty : Ty) (g : Nat → Nat → Nat → Res) : Token × Nat :=
  drawnTok sh ty (zipRes g (s.elems sh ty .l) (s.elems sh ty .r) s.genHere)

/-- An instruction of three operands that rounds. -/
def State.round3 (s : State) (sh : Sh) (ty : Ty) (g : Nat → Nat → Nat → Nat → Res) : Token × Nat :=
  drawnTok sh ty (zip3Res g (s.elems sh ty .l) (s.elems sh ty .r) (s.elems sh ty .x) s.genHere)

/-- round(x, TY, RM, SAT) of R181, with the flags that forming x raised. -/
def rounded (t : Ty) (rm : Rm) (sat : Bool) (gen : Nat) (x : NumF) : Res :=
  ⟨(roundNum t rm sat gen x.num).bits, (roundNum t rm sat gen x.num).flags ||| x.flags, (roundNum t rm sat gen x.num).gen⟩

/-- The effect of an instruction whose result stays performed: in a later attempt it delivers what it kept (R108, R327, R335). -/
def State.unlessKept (s : State) (op : Nat) (f : Fmt) (t : State) : State :=
  match s.fired.keptAt s.here.agent s.here.slot with
  | some k => s.fired.deliverKept s.here.agent s.here.slot op f k.1 k.2
  | none => t

/-- What the digit operand in a field offers when the instruction fires. -/
def State.offersDigit (s : State) (op : Nat) (f : Fmt) (x : Fld) : Option Arrival :=
  match s.fired.slotHere with
  | some (_, sl) => s.fired.peekDigit s.here.agent op f sl x 0 none
  | none => none

/-- How a digit operator fires (R289); the fault that the agent may hold already is ruled out, since it would hide a new one. -/
def State.fires (s : State) (op : Nat) (g : FmtG) (i : Instr) (wordFld : Option Fld) : Prop :=
  s.ready op (.g g) = true → (s.fired.task s.here.agent).fault = none →
  ((∀ x ∈ digitFields op (.g g), ∃ y, s.offersDigit op (.g g) x = some y ∧ y.tok.kind = .head ∧ y.tok.stop = 0) →
    ∃ t w sl e, exec i s = .next t ∧ t.win s.here.agent = some w ∧ w.slots[s.here.slot]? = some sl ∧ sl.st = .running ∧
      sl.eng = .digit e ∧ e.word = wordFld.map s.operand ∧
      (op ≠ 0x5D → op ≠ 0x5E → ∀ x ∈ digitFields op (.g g), ∀ y, s.offersDigit op (.g g) x = some y →
        e.heads[x.idx]? = some (some y.tok.payload))) ∧
  (∀ x y, digitFields op (.g g) = [x] → s.offersDigit op (.g g) x = some y → notDigit y.tok = true ∨ y.tok.isDigit = true →
    ∃ t r, exec i s = .next t ∧ (t.task s.here.agent).fault = some r ∧ r.fclass = 0x07 ∧ r.detail = 9)

/-- What a barrier instruction that may deliver leaves outside a logged context: its acquire, its flags, its slot fired, its tokens
sent, its region moved (R325, R326). -/
def State.synced (s : State) (a : Agent) (i op : Nat) (f : FmtS) (tok : Token) (fl : Nat) (acq : Bool) : State :=
  let t := if acq then s.acquireAt a f.sc else s
  let u := (t.modWin a fun w => w.raise fl).setSlot a i fun sl => { sl with st := .fired }
  (u.sendBoth a i op (.s f) tok 1).moved (u.regionOf a)

/-- The one access in flight, of one part, whose home is a ready channel of the agent's own die: readable, unpinned, within a line, and
outside any logged context. -/
def State.aloneAtHome (s : State) (x : Access) (u : AUnit) : Prop :=
  s.logs = [] ∧ s.accs = [x] ∧ x.units = [u] ∧ x.loc = false ∧ isDir x.op = false ∧ x.agent.die = paDie u.pa ∧ x.agent.die < 64 ∧
  paPkg u.pa = s.pkgNum ∧ s.homeReady u.pa = true ∧ s.pinPa (paDie u.pa) u.pa = none ∧ s.ueAt u.pa u.size = none ∧ 0 < u.size ∧
  u.pa / 128 = (u.pa + u.size - 1) / 128 ∧ (s.srcOf x.agent).lognum = 0

/-- A state in which an access has been answered with a token: it is in flight no more, its slot has fired and keeps the token. -/
def State.answered (t : State) (x : Access) (tok : Token) : Prop :=
  t.accs = [] ∧ ∃ w sl, t.win x.agent = some w ∧ w.kept.find x.slot = some [tok] ∧ w.slots[x.slot]? = some sl ∧ sl.st = .fired

/-- The bytes of a part at its home, as one number. -/
def State.homeNat (s : State) (u : AUnit) : Nat := leNat ((List.range u.size).map fun i => s.byteAs u.attr.conf (u.pa + i))

/-- A part in another state. -/
def AUnit.withSt (u : AUnit) (st : UnitSt) : AUnit := { u with st := st }

/-- An access with a part in another state. -/
def Access.withUnit (x : Access) (j : Nat) (st : UnitSt) : Access := { x with units := listModify x.units j fun u => u.withSt st }

end Sys2Proof.Machine

/-! ## Dataflow instructions -/

/-- R242, R244-R247, R249, R251: MOVI sends its immediate, NULL a NULL token, READ the register's value, SEL the L token when
X is true and the R token when it is false, STOP a stop token, COLOR the task's colour; each to both targets, one cycle later,
with no flag. -/
def Obligations.DataflowTokens : Prop := ∀ s : State,
  (∀ f, s.ready 0x02 (.i f) = true → exec (.movi f) s = .next (s.delivered 0x02 (.i f) 1
    (resultTok f.sh f.ty (List.replicate 32 (plain ((immediate f.ty f.imm.toNat f.ipos).getD 0)))))) ∧
  (∀ f, s.ready 0x03 (.g f) = true → exec (.nullTok f) s = .next (s.delivered 0x03 (.g f) 1 (nullToken, 0))) ∧
  (∀ f, s.ready 0x04 (.g f) = true → exec (.readReg f) s = .next (s.delivered 0x04 (.g f) 1
    (if f.aux.toNat < 32 then wordTok ((s.task s.here.agent).getS f.aux.toNat).toNat
     else vecTok ((s.task s.here.agent).getV (f.aux.toNat - 32)).toNat, 0))) ∧
  (∀ f, s.ready 0x05 (.g f) = true → exec (.sel f) s = .next (s.delivered 0x05 (.g f) 1
    (if (s.operand .x).payload.getLsbD 0 then s.operand .l else s.operand .r, 0))) ∧
  (∀ f, s.ready 0x07 (.g f) = true → exec (.stopTok f) s = .next (s.delivered 0x07 (.g f) 1 (stopToken (f.aux.toNat % 8), 0))) ∧
  (∀ f, s.ready 0x09 (.g f) = true → exec (.color f) s = .next (s.delivered 0x09 (.g f) 1
    (resultTok f.sh .i64 (List.replicate 32 (plain (s.task s.here.agent).color)))))

/-- R242, R243, R250: MOV outside a group of digits sends the L token unchanged to both targets; TOKT sends to TA the test of
L's kind and to TB the L token unchanged. R248: IN takes the token kept from an attempt that faulted, or the oldest of the
task's colour on its channel, and sends it to both targets; a NULL makes it fire as a null. -/
def Obligations.TokensAndInputs : Prop :=
  (∀ s : State,
  (∀ f, s.ready 0x01 (.g f) = true → (f.sh ≠ .digit ∨ (s.operand .l).kind ≠ .head ∨ (s.operand .l).stop ≠ 0) →
    exec (.mov f) s = .next (s.fired.sendBoth s.here.agent s.here.slot 0x01 (.g f) (s.operand .l) 1)) ∧
  (∀ f, s.ready 0x08 (.g f) = true → exec (.tokt f) s = .next
    ((s.fired.send s.here.agent s.here.slot 0x08 (.g f) f.ta
      (wordTok (if (if f.aux.toNat % 8 = 0 then (s.operand .l).stop = 0 else f.aux.toNat % 8 ≤ (s.operand .l).stop) then 1 else 0)) 1).send
        s.here.agent s.here.slot 0x08 (.g f) f.tb (s.operand .l) 1))) ∧
  (∀ (s : State) (f : FmtG) (tok : Token),
  let a := s.here.agent
  let i := s.here.slot
  let j := f.aux.toNat % 16
  s.ready 0x06 (.g f) = true → s.fired.inToken a i j = some tok →
    (tok.isNull = false → exec (.inTok f) s = .next ((s.fired.inTake a i j tok).sendBoth a i 0x06 (.g f) tok 1)) ∧
    (tok.isNull = true → exec (.inTok f) s = .next
      (((s.fired.inTake a i j tok).setSlot a i fun sl => { sl with st := .nulled }).sendBoth a i 0x06 (.g f) tok 1)))

/-! ## Integer instructions -/

/-- R253, R254: ADD, SUB, MUL, MADD, ABS and NEG deliver res(y) of the exact result; MULH the high half; MIN and MAX the smaller
and the larger operand, compared as the type reads them. Elements are read at TY, one with SH 00 and 32 with SH 01. R188, R261:
ADDI, ANDI, ORI, XORI and CMPI take L and the immediate m of the word, and have no SAT. -/
def Obligations.IntegerArithmetic : Prop :=
  (∀ (s : State) (f : FmtG),
  let v := f.ty.intVal
  (s.ready 0x10 (.g f) = true → exec (.add f) s = .next (s.delivered 0x10 (.g f) 1
    (s.each2 f.sh f.ty f.ty fun a b => resAt f.ty f.sat (v a + v b)))) ∧
  (s.ready 0x11 (.g f) = true → exec (.sub f) s = .next (s.delivered 0x11 (.g f) 1
    (s.each2 f.sh f.ty f.ty fun a b => resAt f.ty f.sat (v a - v b)))) ∧
  (s.ready 0x12 (.g f) = true → exec (.mul f) s = .next (s.delivered 0x12 (.g f) 3
    (s.each2 f.sh f.ty f.ty fun a b => resAt f.ty f.sat (v a * v b)))) ∧
  (s.ready 0x13 (.g f) = true → exec (.mulh f) s = .next (s.delivered 0x13 (.g f) 3
    (s.each2 f.sh f.ty f.ty fun a b => plain (wrapN ((v a * v b).fdiv (2 ^ f.ty.width)) f.ty.width)))) ∧
  (s.ready 0x16 (.g f) = true → exec (.min f) s = .next (s.delivered 0x16 (.g f) 1
    (s.each2 f.sh f.ty f.ty fun a b => plain (if v b < v a then b else a)))) ∧
  (s.ready 0x17 (.g f) = true → exec (.max f) s = .next (s.delivered 0x17 (.g f) 1
    (s.each2 f.sh f.ty f.ty fun a b => plain (if v b < v a then a else b)))) ∧
  (s.ready 0x18 (.g f) = true → exec (.abs f) s = .next (s.delivered 0x18 (.g f) 1
    (s.each1 f.sh f.ty f.ty fun a => resAt f.ty f.sat (if v a < 0 then - v a else v a)))) ∧
  (s.ready 0x19 (.g f) = true → exec (.neg f) s = .next (s.delivered 0x19 (.g f) 1
    (s.each1 f.sh f.ty f.ty fun a => resAt f.ty f.sat (- v a)))) ∧
  (s.ready 0x27 (.g f) = true → exec (.madd f) s = .next (s.delivered 0x27 (.g f) 3
    (s.each3 f.sh f.ty fun a b c => resAt f.ty f.sat (v a * v b + v c))))) ∧
  (∀ (s : State) (f : FmtI),
  let w := f.ty.width
  let m := (immediate f.ty f.imm.toNat f.ipos).getD 0
  let k := if f.ty = .pred then 1 else w
  (s.ready 0x2A (.i f) = true → exec (.addi f) s = .next (s.delivered 0x2A (.i f) 1
    (s.each1 f.sh f.ty f.ty fun a => plain ((a + m) % 2 ^ w)))) ∧
  (s.ready 0x2B (.i f) = true → exec (.andi f) s = .next (s.delivered 0x2B (.i f) 1
    (s.each1 f.sh f.ty f.ty fun a => plain ((a &&& m) % 2 ^ k)))) ∧
  (s.ready 0x2C (.i f) = true → exec (.ori f) s = .next (s.delivered 0x2C (.i f) 1
    (s.each1 f.sh f.ty f.ty fun a => plain ((a ||| m) % 2 ^ k)))) ∧
  (s.ready 0x2D (.i f) = true → exec (.xori f) s = .next (s.delivered 0x2D (.i f) 1
    (s.each1 f.sh f.ty f.ty fun a => plain ((a ^^^ m) % 2 ^ k)))) ∧
  (s.ready 0x2E (.i f) = true → exec (.cmpi f) s = .next (s.delivered 0x2E (.i f) 1
    (s.each1 f.sh f.ty .pred fun a => plain (if f.ty.intVal a < f.ty.intVal m then 1 else 0)))))

/-- R183, R253, R255: DIV and REM: by zero a quotient of all ones, a remainder equal to the dividend, and DZ; the signed minimum
by -1 by SAT; else truncation toward zero, the remainder with the sign of the dividend. -/
def Obligations.IntegerDivision : Prop := ∀ (s : State) (f : FmtG),
  let v := f.ty.intVal
  let w := f.ty.width
  let lat := if w = 8 then 6 else if w = 16 then 10 else if w = 32 then 18 else 34
  let special (a b : Nat) : Prop := f.ty.isSigned = true ∧ v a = -(2 ^ (w - 1)) ∧ v b = -1
  (s.ready 0x14 (.g f) = true → exec (.div f) s = .next (s.delivered 0x14 (.g f) lat
    (s.each2 f.sh f.ty f.ty fun a b =>
      if v b = 0 then (2 ^ w - 1, fDZ)
      else if special a b then (if f.sat then (2 ^ (w - 1) - 1, fSAT) else (a, 0))
      else (wrapN ((v a).tdiv (v b)) w, 0)))) ∧
  (s.ready 0x15 (.g f) = true → exec (.rem f) s = .next (s.delivered 0x15 (.g f) lat
    (s.each2 f.sh f.ty f.ty fun a b =>
      if v b = 0 then (a, fDZ)
      else if special a b then (0, 0)
      else (wrapN (v a - (v a).tdiv (v b) * v b) w, 0))))

/-- R252, R253: AND, OR, XOR and NOT act on the w bits of each element, and on bit 0 alone for PRED. R253, R256: the shift
amount is R read as unsigned at width w; SHL without SAT drops the bits above w, with SAT delivers res(lv · 2^a); SHR fills with
zeros; SRA reads L as signed whatever TY is; ROT turns left by a mod w. -/
def Obligations.LogicAndShifts : Prop :=
  (∀ (s : State) (f : FmtG),
  let w := if f.ty = .pred then 1 else f.ty.width
  (s.ready 0x1A (.g f) = true → exec (.and f) s = .next (s.delivered 0x1A (.g f) 1
    (s.each2 f.sh f.ty f.ty fun a b => plain ((a &&& b) % 2 ^ w)))) ∧
  (s.ready 0x1B (.g f) = true → exec (.or f) s = .next (s.delivered 0x1B (.g f) 1
    (s.each2 f.sh f.ty f.ty fun a b => plain ((a ||| b) % 2 ^ w)))) ∧
  (s.ready 0x1C (.g f) = true → exec (.xor f) s = .next (s.delivered 0x1C (.g f) 1
    (s.each2 f.sh f.ty f.ty fun a b => plain ((a ^^^ b) % 2 ^ w)))) ∧
  (s.ready 0x1D (.g f) = true → exec (.not f) s = .next (s.delivered 0x1D (.g f) 1
    (s.each1 f.sh f.ty f.ty fun a => plain ((2 ^ f.ty.width - 1 - a) % 2 ^ w))))) ∧
  (∀ (s : State) (f : FmtG),
  let w := f.ty.width
  (s.ready 0x1E (.g f) = true → f.sat = false → exec (.shl f) s = .next (s.delivered 0x1E (.g f) 1
    (s.each2 f.sh f.ty f.ty fun a b => plain (if b < w then a * 2 ^ b % 2 ^ w else 0)))) ∧
  (s.ready 0x1E (.g f) = true → f.sat = true → exec (.shl f) s = .next (s.delivered 0x1E (.g f) 1
    (s.each2 f.sh f.ty f.ty fun a b => resAt f.ty true (f.ty.intVal a * 2 ^ b)))) ∧
  (s.ready 0x1F (.g f) = true → exec (.shr f) s = .next (s.delivered 0x1F (.g f) 1
    (s.each2 f.sh f.ty f.ty fun a b => plain (if b < w then a / 2 ^ b else 0)))) ∧
  (s.ready 0x20 (.g f) = true → exec (.sra f) s = .next (s.delivered 0x20 (.g f) 1
    (s.each2 f.sh f.ty f.ty fun a b => plain (wrapN ((sextN a w).fdiv (2 ^ min b (w - 1))) w)))) ∧
  (s.ready 0x21 (.g f) = true → exec (.rot f) s = .next (s.delivered 0x21 (.g f) 1
    (s.each2 f.sh f.ty f.ty fun a b => plain ((a * 2 ^ (b % w) + a / 2 ^ (w - b % w)) % 2 ^ w)))))

/-- R253, R257-R260: CLZ counts the leading zero bits, POPC the one bits, BREV reverses the w bits; BEXT takes a field of len bits
at position R, sign-extended for I types, BINS puts one at position X; LEA scales and adds modulo 2^64; CMP delivers PRED; SHFL
takes lane (rv mod 32) of L for each lane. -/
def Obligations.BitFields : Prop := ∀ (s : State) (f : FmtG),
  let w := f.ty.width
  let v := f.ty.intVal
  let len := f.aux.toNat % 128
  (s.ready 0x22 (.g f) = true → exec (.clz f) s = .next (s.delivered 0x22 (.g f) 1
    (s.each1 f.sh f.ty f.ty fun a => plain ((List.range w).takeWhile fun i => !a.testBit (w - 1 - i)).length))) ∧
  (s.ready 0x23 (.g f) = true → exec (.popc f) s = .next (s.delivered 0x23 (.g f) 1
    (s.each1 f.sh f.ty f.ty fun a => plain ((List.range w).filter fun i => a.testBit i).length))) ∧
  (s.ready 0x24 (.g f) = true → exec (.brev f) s = .next (s.delivered 0x24 (.g f) 1
    (s.each1 f.sh f.ty f.ty fun a => plain ((List.range w).map fun i => if a.testBit i then 2 ^ (w - 1 - i) else 0).sum))) ∧
  (s.ready 0x25 (.g f) = true → exec (.bext f) s = .next (s.delivered 0x25 (.g f) 1
    (s.each2 f.sh f.ty f.ty fun a b =>
      let e := a / 2 ^ b % 2 ^ len
      plain (if f.ty.isSigned then wrapN (sextN e len) w else e)))) ∧
  (s.ready 0x26 (.g f) = true → exec (.bins f) s = .next (s.delivered 0x26 (.g f) 1
    (s.each3 f.sh f.ty fun a b c =>
      let m := ((2 ^ len - 1) * 2 ^ c) % 2 ^ w
      plain ((a &&& (2 ^ w - 1 - m)) ||| ((b * 2 ^ c % 2 ^ w) &&& m))))) ∧
  (s.ready 0x28 (.g f) = true → exec (.lea f) s = .next (s.delivered 0x28 (.g f) 1
    (s.each2 f.sh f.ty f.ty fun a b => plain ((a + b * 2 ^ (f.aux.toNat % 8)) % 2 ^ 64)))) ∧
  (s.ready 0x29 (.g f) = true → f.aux.toNat % 8 < 6 → exec (.cmp f) s = .next (s.delivered 0x29 (.g f) 1
    (s.each2 f.sh f.ty .pred fun a b =>
      plain (if (match f.aux.toNat % 8 with
        | 0 => decide (v a = v b) | 1 => decide (v a ≠ v b) | 2 => decide (v a < v b) | 3 => decide (v a ≤ v b)
        | 4 => decide (v b < v a) | _ => decide (v b ≤ v a)) then 1 else 0)))) ∧
  (s.ready 0x2F (.g f) = true → exec (.shfl f) s = .next (s.delivered 0x2F (.g f) 2
    (lanesTok f.ty (((s.operand .r).lanes f.ty).map fun k => (((s.operand .l).lanes f.ty)[k % 32]?).getD 0), 0)))

/-! ## Float instructions -/

/-- R275-R277, R283: FADD, FSUB, FMUL, FFMA, FDIV, FSQRT, FADDI and FMULI round the exact result once at TY under the mode that
RM resolves to (DYN takes RMODE), FADDI and FMULI under DYN with SAT 0; FDIV and FSQRT take 14 cycles at FP32 and 8 otherwise. -/
def Obligations.FloatArithmetic : Prop := ∀ s : State,
  (∀ f : FmtG,
    let rm := s.resolveRm s.here.agent f.rm
    let v := Num.decode f.ty
    let lat := if f.ty = .f32 then 14 else 8
    (s.ready 0x30 (.g f) = true → exec (.fadd f) s = .next (s.delivered 0x30 (.g f) 3
      (s.round2 f.sh f.ty fun gen a b => rounded f.ty rm f.sat gen (addNum rm (v a) (v b))))) ∧
    (s.ready 0x31 (.g f) = true → exec (.fsub f) s = .next (s.delivered 0x31 (.g f) 3
      (s.round2 f.sh f.ty fun gen a b => rounded f.ty rm f.sat gen (addNum rm (v a) (v b).negate)))) ∧
    (s.ready 0x32 (.g f) = true → exec (.fmul f) s = .next (s.delivered 0x32 (.g f) 3
      (s.round2 f.sh f.ty fun gen a b => rounded f.ty rm f.sat gen (mulNum (v a) (v b))))) ∧
    (s.ready 0x33 (.g f) = true → exec (.ffma f) s = .next (s.delivered 0x33 (.g f) 4
      (s.round3 f.sh f.ty fun gen a b c => rounded f.ty rm f.sat gen
        (if (v a).isNan || (v b).isNan || (v c).isNan then ⟨.nan, 0⟩
         else ⟨(addNum rm (mulNum (v a) (v b)).num (v c)).num,
           (mulNum (v a) (v b)).flags ||| (addNum rm (mulNum (v a) (v b)).num (v c)).flags⟩)))) ∧
    (s.ready 0x34 (.g f) = true → exec (.fdiv f) s = .next (s.delivered 0x34 (.g f) lat
      (s.round2 f.sh f.ty fun gen a b => rounded f.ty rm f.sat gen (divNum (v a) (v b))))) ∧
    (s.ready 0x35 (.g f) = true → exec (.fsqrt f) s = .next (s.delivered 0x35 (.g f) lat
      (s.round1 f.sh f.ty f.ty fun gen a => rounded f.ty rm f.sat gen (sqrtNum (v a)))))) ∧
  (∀ f : FmtI,
    let rm := s.resolveRm s.here.agent .dyn
    let v := Num.decode f.ty
    let m := v ((immediate f.ty f.imm.toNat f.ipos).getD 0)
    (s.ready 0x3F (.i f) = true → exec (.faddi f) s = .next (s.delivered 0x3F (.i f) 3
      (s.round1 f.sh f.ty f.ty fun gen a => rounded f.ty rm false gen (addNum rm (v a) m)))) ∧
    (s.ready 0x40 (.i f) = true → exec (.fmuli f) s = .next (s.delivered 0x40 (.i f) 3
      (s.round1 f.sh f.ty f.ty fun gen a => rounded f.ty rm false gen (mulNum (v a) m)))))

/-- R278-R280: FMIN and FMAX deliver the smaller and the larger operand, FABS and FNEG clear and invert the sign bit, a NaN giving
the type's NaN; FCMP delivers PRED, a NaN making every code but 1 and 6 false; FCLASS one bit of a class word of type N16. -/
def Obligations.FloatSelection : Prop := ∀ (s : State) (f : FmtG),
  let v := Num.decode f.ty
  let sign := 2 ^ (f.ty.width - 1)
  let less (a b : Nat) : Bool := decide (cmpNum (v a) (v b) < 0) || (decide (cmpNum (v a) (v b) = 0) && (v a).neg && !(v b).neg)
  (s.ready 0x36 (.g f) = true → exec (.fmin f) s = .next (s.delivered 0x36 (.g f) 1
    (s.each2 f.sh f.ty f.ty fun a b =>
      plain (if (v a).isNan || (v b).isNan then f.ty.nanEnc else if less a b then a else b)))) ∧
  (s.ready 0x37 (.g f) = true → exec (.fmax f) s = .next (s.delivered 0x37 (.g f) 1
    (s.each2 f.sh f.ty f.ty fun a b =>
      plain (if (v a).isNan || (v b).isNan then f.ty.nanEnc else if less a b then b else a)))) ∧
  (s.ready 0x38 (.g f) = true → exec (.fabs f) s = .next (s.delivered 0x38 (.g f) 1
    (s.each1 f.sh f.ty f.ty fun a => plain (if (v a).isNan then f.ty.nanEnc else a % sign)))) ∧
  (s.ready 0x39 (.g f) = true → exec (.fneg f) s = .next (s.delivered 0x39 (.g f) 1
    (s.each1 f.sh f.ty f.ty fun a => plain (if (v a).isNan then f.ty.nanEnc else a ^^^ sign)))) ∧
  (s.ready 0x3A (.g f) = true → exec (.fcmp f) s = .next (s.delivered 0x3A (.g f) 1
    (s.each2 f.sh f.ty .pred fun a b =>
      let un := (v a).isNan || (v b).isNan
      let c := cmpNum (v a) (v b)
      plain (if (match f.aux.toNat % 8 with
        | 0 => !un && decide (c = 0) | 1 => un || decide (c ≠ 0) | 2 => !un && decide (c < 0) | 3 => !un && decide (c ≤ 0)
        | 4 => !un && decide (0 < c) | 5 => !un && decide (0 ≤ c) | _ => un) then 1 else 0)))) ∧
  (s.ready 0x3B (.g f) = true → exec (.fclass f) s = .next (s.delivered 0x3B (.g f) 1
    (s.each1 f.sh f.ty .n16 fun a => plain (2 ^ fclassBit f.ty a))))

/-- R281, R282, R284: CVT converts from the type its AUX names, FRINT rounds to an integral value, FSCALE multiplies by 2^R, FEXP2
gives 2^L; each under the mode RM resolves to. -/
def Obligations.FloatConversion : Prop := ∀ (s : State) (f : FmtG),
  let rm := s.resolveRm s.here.agent f.rm
  (s.ready 0x3C (.g f) = true → exec (.cvt f) s = .next (s.delivered 0x3C (.g f) 2
    (s.round1 f.sh (Ty.ofCode f.aux.toNat) f.ty fun gen a => convertElem (Ty.ofCode f.aux.toNat) f.ty rm f.sat gen a))) ∧
  (s.ready 0x3D (.g f) = true → exec (.frint f) s = .next (s.delivered 0x3D (.g f) 2
    (s.round1 f.sh f.ty f.ty fun gen a => frintElem f.ty rm gen a))) ∧
  (s.ready 0x3E (.g f) = true → f.sh ≠ .vector → exec (.fscale f) s = .next (s.delivered 0x3E (.g f) 2
    (s.round1 f.sh f.ty f.ty fun gen a =>
      roundNum f.ty rm f.sat gen (scaleNum (Num.decode f.ty a) (sextN (s.operand .r).w64 64))))) ∧
  (s.ready 0x3E (.g f) = true → f.sh = .vector → (s.operand .r).kind ≠ .word → exec (.fscale f) s = .next (s.delivered 0x3E (.g f) 2
    (s.round2 f.sh f.ty fun gen a n => roundNum f.ty rm f.sat gen (scaleNum (Num.decode f.ty a) (sextN n f.ty.width))))) ∧
  (s.ready 0x3E (.g f) = true → f.sh = .vector → (s.operand .r).kind = .word → exec (.fscale f) s = .next (s.delivered 0x3E (.g f) 2
    (s.round1 f.sh f.ty f.ty fun gen a =>
      roundNum f.ty rm f.sat gen (scaleNum (Num.decode f.ty a) (sextN (s.operand .r).w64 64))))) ∧
  (s.ready 0x46 (.g f) = true → exec (.fexp2 f) s = .next (s.delivered 0x46 (.g f) (if f.ty = .f32 then 24 else 16)
    (s.round1 f.sh f.ty f.ty fun gen a => fexp2Elem f.ty rm f.sat gen a)))

/-- R285-R287: RED combines the 32 lanes in the fixed tree of R208, PFX delivers the inclusive prefixes in a chain, LANE one lane,
VINS the vector with one lane replaced, VIDX v + i · step in lane i; a PRED counts by its bit 0. The latency of one cycle is the model's choice (log entry
9). -/
def Obligations.LaneInstructions : Prop := ∀ (s : State) (f : FmtG),
  let rm := s.resolveRm s.here.agent f.rm
  let l := (s.operand .l).lanes f.ty
  let lane (x : Fld) : Nat := if f.aux.toNat.testBit 5 then f.aux.toNat % 32 else (s.operand x).w64 % 32
  let low (e : Nat) : Nat := if f.ty = .pred then e % 2 else e
  (s.ready 0x41 (.g f) = true → exec (.red f) s = .next (s.delivered 0x41 (.g f) 1
    (elemTok f.ty (reduceElems (ropOf (f.aux.toNat % 8)) f.ty rm f.sat s.genHere l).bits,
     (reduceElems (ropOf (f.aux.toNat % 8)) f.ty rm f.sat s.genHere l).flags))) ∧
  (s.ready 0x42 (.g f) = true → ∃ x r, l.map low = x :: r ∧ exec (.pfx f) s = .next (s.delivered 0x42 (.g f) 1
    (lanesTok f.ty (x :: (prefixGo (fun g a b => combineElem (ropOf (f.aux.toNat % 8)) f.ty rm f.sat g a b) x r s.genHere 0).1),
     (prefixGo (fun g a b => combineElem (ropOf (f.aux.toNat % 8)) f.ty rm f.sat g a b) x r s.genHere 0).2))) ∧
  (s.ready 0x43 (.g f) = true → exec (.lane f) s = .next (s.delivered 0x43 (.g f) 1 (elemTok f.ty (low ((l[lane .r]?).getD 0)), 0))) ∧
  (s.ready 0x44 (.g f) = true → exec (.vins f) s = .next (s.delivered 0x44 (.g f) 1
    (lanesTok f.ty ((l.set (lane .x) ((s.operand .r).elem f.ty)).map low), 0))) ∧
  (s.ready 0x45 (.g f) = true → exec (.vidx f) s = .next (s.delivered 0x45 (.g f) 1
    (lanesTok f.ty ((List.range 32).map fun (i : Nat) =>
      wrapN (f.ty.intVal ((s.operand .l).elem f.ty) + i * sextN f.aux.toNat 13) f.ty.width), 0)))

/-- R208, R286: RED with the op ADD on an integer type without SAT delivers the sum of all 32 lanes, wrapped at the type's width,
whatever the tree, and raises no flag. The latency is the model's choice (log entry 9). -/
def Obligations.RedSum : Prop := ∀ (s : State) (f : FmtG), f.ty.isInt = true → f.sat = false → f.aux.toNat % 8 = 0 →
  s.ready 0x41 (.g f) = true → exec (.red f) s = .next (s.delivered 0x41 (.g f) 1
    (elemTok f.ty (wrapN (((s.operand .l).lanes f.ty).map f.ty.intVal).sum f.ty.width), 0))

/-! ## Digit operators -/

/-- R289, R293-R299: a digit operator that fires while every digit operand offers a head, and none a stop token, runs in its slot
until its step events end it: it has taken its word operand and, but for DACC and DRED, which may have added a whole group
already, keeps the heads by field. A word, vector, scale or splice token in a digit operand, or a digit token with no head before
it, faults with KIND. -/
def Obligations.DigitOperatorsFire : Prop := ∀ (s : State) (f : FmtG),
  s.fires 0x50 f (.dsrc f) (some .l) ∧ s.fires 0x51 f (.dsink f) none ∧ s.fires 0x52 f (.dadd f) none ∧
  s.fires 0x53 f (.dsub f) none ∧ s.fires 0x54 f (.dmul f) none ∧ s.fires 0x55 f (.ddiv f) (some .r) ∧
  s.fires 0x56 f (.dsqrt f) none ∧ s.fires 0x57 f (.dfma f) none ∧ s.fires 0x58 f (.drelu f) none ∧
  s.fires 0x59 f (.dmax f) none ∧ s.fires 0x5A f (.dmin f) none ∧ s.fires 0x5B f (.dthr f) (some .r) ∧
  s.fires 0x5C f (.dexp2 f) none ∧ s.fires 0x5D f (.dacc f) none ∧ s.fires 0x5E f (.dred f) none ∧ s.fires 0x5F f (.dscl f) none

/-! ## Matrix, shape and directory instructions -/

/-- R335, R339, R341, R342: TSWAP exchanges T0 and T1, MMZERO clears the accumulators of its mask; each delivers I64 0 once, and
what it delivered before in a later attempt. MMOUT delivers columns 0 to 31 of its accumulator to TA and 32 to 63 to TB, each
record rounded at TY under its mode, in the order of the columns. R332, R336, R338, R340: TLOAD checks its record when it fires,
and its fetch then stands at the matrix unit; a record of another rank or size is SHAPE_MISMATCH with TSIZE. MMROW passes a stop
token on; else it holds the matrix unit's row, when N0 + 1 is K of T0, and KDIM otherwise. A record that cannot be used is
SHAPE_MISMATCH with its cause. R95-R97, R338: a TLOAD whose elements and scale bytes have all been read loads T1, with K rows,
their scales and the tag that the reads give; the matrix unit is free for the next, the slot has fired and its token of value 0
leaves. With no fetch, or one whose link is down, nothing happens. The latencies are the model's choice (log entry 9), and so is a fetch in one step (log
entry 39). -/
def Obligations.MatrixInstructions : Prop :=
  (∀ (s : State) (f : FmtT),
  let a := s.here.agent
  let i := s.here.slot
  let t := s.fired
  (s.ready 0x61 (.t f) = true → exec (.tswap f) s = .next (s.unlessKept 0x61 (.t f)
    (((t.modMat a fun m => { m with t0 := m.t1, t1 := m.t0 }).keep a i [wordTok 0]).sendBoth a i 0x61 (.t f) (wordTok 0) 1))) ∧
  (s.ready 0x64 (.t f) = true → exec (.mmzero f) s = .next (s.unlessKept 0x64 (.t f)
    (((t.modMat a fun m => { m with acc := m.acc.filter fun e => !f.aux.toNat.testBit (e.1 / 64) }).keep a i [wordTok 0]).sendBoth
      a i 0x64 (.t f) (wordTok 0) 1))) ∧
  (s.ready 0x63 (.t f) = true →
    let aux := f.aux.toNat
    let r := mapRes (fun gen c => accOut f.ty (t.resolveRm a (Rm.ofCode (aux / 4 % 8))) (aux.testBit 5) gen
      ((t.matOf a).acc.get (64 * (aux % 4) + c) 0)) (List.range 64) (t.genOf a i)
    exec (.mmout f) s = .next
      (((t.modWin a fun w => w.raise r.2.1).send a i 0x63 (.t f) f.ta (lanesTok f.ty (r.1.take 32)) 8).send
        a i 0x63 (.t f) f.tb (lanesTok f.ty (r.1.drop 32)) 8))) ∧
  (∀ (s : State) (f : FmtT),
  let a := s.here.agent
  let i := s.here.slot
  let t := s.fired
  let bad (c : Nat) : State := t.blockFault a (some i) 0x08 c 0
  let task := match a with | .task _ _ k => k | .helm _ => 0
  (s.ready 0x60 (.t f) = true → t.keptAt a i = none → ∀ p, t.patternOf a f.sr.toNat 0 = .ok p →
    let q : TloadRec := ⟨task, i, (match t.win a with | some w => w.seq | none => 0), f, p, (s.operand .l).w64, none, false⟩
    exec (.tload f) s = .next
      (if pRank p = 2 ∧ pN0 p + 1 ≤ 64 ∧ (pN1 p + 1 = 32 ∨ pN1 p + 1 = 64) then
        (t.setSlot a i fun sl => { sl with st := .pending }).modMat a fun m => { m with load := some q }
      else bad scTsize)) ∧
  (s.ready 0x60 (.t f) = true → t.keptAt a i = none → ∀ c, t.patternOf a f.sr.toNat 0 = .error c → exec (.tload f) s = .next (bad c)) ∧
  (s.ready 0x62 (.t f) = true → (s.operand .l).stop ≠ 0 → exec (.mmrow f) s = .next
    ((t.setSlot a i fun sl => { sl with st := .passed, l := sl.l.pop }).sendBoth a i 0x62 (.t f) (stopToken (s.operand .l).stop) 1)) ∧
  (s.ready 0x62 (.t f) = true → (s.operand .l).stop = 0 → ∀ p, t.patternOf a f.sr.toNat 0 = .ok p →
    let e : Engine := .row (DigEng.fresh f.ta f.tb) { StrEng.fresh p with again := (t.keptAt a i).isSome }
    exec (.mmrow f) s = .next
      (if t.keptAt a i = none ∧ pN0 p + 1 ≠ (t.matOf a).t0.k then bad scKdim
       else (t.setSlot a i fun sl => { sl with st := .running, eng := e }).modMat a fun m => { m with row := some task })) ∧
  (s.ready 0x62 (.t f) = true → (s.operand .l).stop = 0 → ∀ c, t.patternOf a f.sr.toNat 0 = .error c → exec (.mmrow f) s = .next (bad c))) ∧
  (∀ (s : State) (c : Nat),
  ((s.cell c).mat.load = none → exec (.tloadComplete c) s = .next s) ∧
  (∀ l, (s.cell c).mat.load = some l → l.down = true → exec (.tloadComplete c) s = .next s) ∧
  (∀ l, (s.cell c).mat.load = some l → l.acc = none → l.down = false →
    let a := Agent.task (c / 256) (c % 256) l.task
    let v := s.viaPort a l.f.pt.toNat accPortRd false
    let q := s.loadElems a v (pAs l.pat) l.f.ty [] (loadAddrs l).1
    ∀ s1 n1, q.res = .ok s1 n1 →
    let q2 := s1.loadElems a v (pAs l.pat) .n8 [] (loadAddrs l).2
    ∀ s2 n2, q2.res = .ok s2 n2 → q.need = [] → q2.need = [] →
    let n := pN0 l.pat + 1
    let mx := decide (pSoff l.pat ≠ 0)
    let scale (j : Nat) : Nat := if j % 64 < n then ((q2.elems[j / 64 * n + j % 64]?).map (·.enc)).getD 127 else 127
    let tag := if pAs l.pat then tagGeneral else loadTag l.f.ty n (pSt1 l.pat) q.elems (mx && q2.elems.any fun e => e.enc = 255)
    let reg := loadedReg l.f.ty (pN1 l.pat + 1) n mx q.elems ((List.range 128).map scale) tag
    exec (.tloadComplete c) s = .next
      (((((s2.unholdReads a l.slot).modMat a fun m => { m with t1 := reg, load := none }).keep a l.slot [wordTok 0]).setSlot a l.slot fun sl =>
        { sl with st := .fired }).sendBoth a l.slot 0x60 (.t l.f) (wordTok 0) 1)))

/-- R220, R332-R334: the record of SHAPE and SHAPEQ is the one of index SR + CTX.SHAPEB.BASE modulo 256 in the cell's table. SHAPEQ sends
its word AUX[1:0] to both targets; SHAPE fires, and its write waits for the commit; a record that the chart does not own is
SHAPE_MISMATCH with NOREC. At commit SHAPE replaces that word of the record by L, and its token is I64 0. The latency is the model's choice (log
entry 9). -/
def Obligations.ShapeRecords : Prop := ∀ (s : State) (f : FmtT),
  let a := s.here.agent
  let i := s.here.slot
  let t := s.fired
  let q := s.actsFor a
  let n := (f.sr.toNat + ((s.cell q.1).task q.2.1).shapeb) % 256
  let owned : Bool := ((s.cell q.1).cctx q.2.2).shapes.contains n
  let p := (s.cell q.1).shapes.get n [0, 0, 0, 0]
  (s.ready 0x69 (.t f) = true → owned = true →
    exec (.shapeq f) s = .next (t.sendBoth a i 0x69 (.t f) (wordTok (pw p (f.aux.toNat % 4)).toNat) 1)) ∧
  (s.ready 0x69 (.t f) = true → owned = false → exec (.shapeq f) s = .next (t.blockFault a (some i) 0x08 scNorec 0)) ∧
  (s.ready 0x68 (.t f) = true → owned = true → exec (.shape f) s = .next t ∧ (t.cell q.1).shapes = (s.cell q.1).shapes ∧
    ∃ w sl, t.win a = some w ∧ w.slots[i]? = some sl ∧ sl.st = .fired) ∧
  (s.ready 0x68 (.t f) = true → owned = false → exec (.shape f) s = .next (t.blockFault a (some i) 0x08 scNorec 0)) ∧
  (∀ sl : Slot, owned = true → s.commitOp a i 0x68 (.t f) sl = .done
    (s.modCell q.1 fun c => { c with shapes := c.shapes.put n (listSet p (f.aux.toNat % 4) (word (sl.tok .l).w64)) }) (some (wordTok 0)))

/-! ## Stream instructions -/

/-- R344-R346, R349-R351: a stream instruction that fires holds its engine with the record its SR names, read then; a record
that cannot be used is SHAPE_MISMATCH with its cause. ISECT, UNION and REPEAT take no record. R347, R348, R471: SBIND and SBAR
put a command into the scoreboard of their memory port, behind those already there, or behind those that wait when its 16 places
are taken. SBIND's is bound to its record; a helm core's for a context without an active chart waits at the port. An instruction
with a slot target waits for its command's token. That a slot target waits for the command, and where a helm core's command is
parked, is the model's reading (log entry 46). -/
def Obligations.StreamInstructions : Prop :=
  (∀ (s : State) (f : FmtT),
  let a := s.here.agent
  let i := s.here.slot
  let t := s.fired
  let go (op : Nat) (o : Host.Outcome State Fault Refusal) : Prop := s.ready op (.t f) = true →
    (∀ p, t.strRecord a op f = .ok p →
      let e : Engine := .stream { StrEng.fresh p with ref := t.genOf a i }
      o = .next (t.setSlot a i fun sl => { sl with st := .running, eng := e })) ∧
    (∀ c, t.strRecord a op f = .error c → o = .next (t.blockFault a (some i) 0x08 c 0))
  go 0x72 (exec (.scan f) s) ∧ go 0x73 (exec (.isect f) s) ∧ go 0x74 (exec (.unionS f) s) ∧ go 0x75 (exec (.repeatS f) s) ∧
  go 0x76 (exec (.sacc f) s) ∧ go 0x77 (exec (.gather f) s) ∧ go 0x78 (exec (.scatter f) s) ∧ go 0x79 (exec (.scata f) s) ∧
  (∀ op, 0x73 ≤ op → op ≤ 0x75 → t.strRecord a op f = .ok [])) ∧
  (∀ (s : State) (f : FmtT),
  let a := s.here.agent
  let i := s.here.slot
  let t := s.fired
  let put (c : StreamCmd) : State :=
    let u := ({ t with nextAcc := t.nextAcc + 1 }).modPort (t.cmdPort a f) fun p =>
      if p.cmds.length < 16 ∧ p.waiting = [] then { p with cmds := p.cmds ++ [c] } else { p with waiting := p.waiting ++ [c] }
    if f.ta.isSlot then u.setSlot a i fun sl => { sl with st := .pending } else u
  let c := t.newCmd a i false f (s.operand .l).w64
  let idle := a.isHelm && ((t.cell c.cell).cctx c.cctx).st != .active
  (s.ready 0x70 (.t f) = true → idle = true → exec (.sbind f) s = .next (put { c with st := 3 })) ∧
  (s.ready 0x70 (.t f) = true → idle = false → ∀ p, t.patternOf a f.sr.toNat 0 = .ok p →
    exec (.sbind f) s = .next (put (t.bindCmd c p))) ∧
  (s.ready 0x70 (.t f) = true → idle = false → ∀ k, t.patternOf a f.sr.toNat 0 = .error k →
    exec (.sbind f) s = .next (t.blockFault a (some i) 0x08 k 0)) ∧
  (s.ready 0x71 (.t f) = true →
    let b := t.newCmd a i true f 0
    let k := ((t.cell b.cell).cctx b.cctx).region
    exec (.sbar f) s = .next (put { b with region := k })))

/-! ## Memory instructions -/

/-- R302, R303, R305: a memory instruction that fires opens its access at L plus its signed offset, modulo 2^64, in its wave,
and waits for it; in an attempt after the one in which it performed it delivers what it kept. R328: SEMW, SEMA and SEMR open an
access of eight bytes at L's address at the start of their block, relaxed in the word, and deliver what they kept in a later
attempt. R92-R94, R343: TDIR, TCLASS and TFILL open a relaxed access to the directory tile of L's address; in a later attempt
they deliver what they delivered before. -/
def Obligations.AccessInstructions : Prop :=
  (∀ (s : State) (f : FmtM),
  let a := s.here.agent
  let i := s.here.slot
  let addr := (((s.operand .l).w64 : Int) + sextN f.off.toNat 14) % 2 ^ 64
  let go (op : Nat) (o : Host.Outcome State Fault Refusal) : Prop := s.ready op (.m f) = true → o = .next (s.unlessKept op (.m f)
    (s.fired.openAccess a i op f.ty (f.sh == .vector) f.sc.code f.ord f.loc addr.toNat (s.operand .r) (s.operand .x) (some f.wv.toNat)))
  go 0x80 (exec (.ld f) s) ∧ go 0x81 (exec (.st f) s) ∧ go 0x82 (exec (.ldv f) s) ∧ go 0x83 (exec (.stv f) s) ∧
  go 0x84 (exec (.ldw f) s) ∧ go 0x85 (exec (.stf f) s) ∧ go 0x86 (exec (.clr f) s) ∧ go 0x87 (exec (.aadd f) s) ∧
  go 0x88 (exec (.amin f) s) ∧ go 0x89 (exec (.amax f) s) ∧ go 0x8A (exec (.aand f) s) ∧ go 0x8B (exec (.aor f) s) ∧
  go 0x8C (exec (.axor f) s) ∧ go 0x8D (exec (.aswp f) s) ∧ go 0x8E (exec (.acas f) s) ∧ go 0x8F (exec (.afadd f) s) ∧
  go 0x91 (exec (.mwait f) s) ∧ go 0x93 (exec (.wback f) s) ∧ go 0x94 (exec (.inval f) s) ∧ go 0x95 (exec (.rput f) s) ∧
  go 0x96 (exec (.rget f) s) ∧ go 0x97 (exec (.rfree f) s) ∧ go 0x98 (exec (.rstat f) s)) ∧
  (∀ (s : State) (f : FmtS),
  let a := s.here.agent
  let i := s.here.slot
  let go (op : Nat) : State := s.unlessKept op (.s f)
    (s.fired.openAccess a i op .i64 false f.sc .rlx false (s.operand .l).w64 (s.operand .r) (s.operand .x) none)
  (s.ready 0xB3 (.s f) = true → exec (.semw f) s = .next (go 0xB3)) ∧
  (s.ready 0xB4 (.s f) = true → exec (.sema f) s = .next (go 0xB4)) ∧
  (s.ready 0xB5 (.s f) = true → exec (.semr f) s = .next (go 0xB5))) ∧
  (∀ (s : State) (f : FmtT),
  let a := s.here.agent
  let i := s.here.slot
  let go (op : Nat) : State := s.unlessKept op (.t f)
    (s.fired.openAccess a i op f.ty false 3 .rlx false (s.operand .l).w64 (s.operand .r) (wordTok 0) none)
  (s.ready 0x65 (.t f) = true → exec (.tdir f) s = .next (go 0x65)) ∧
  (s.ready 0x66 (.t f) = true → exec (.tclass f) s = .next (go 0x66)) ∧
  (s.ready 0x67 (.t f) = true → exec (.tfill f) s = .next (go 0x67)))

/-- R302, R304-R306: what opening an access leaves: one access more, behind those in flight, of the block and wave it was opened
in, its parts not issued; the slot waits for it; memory, presence bits and every register are as before. R108, R309: an access
that is answered is in flight no more; its slot has fired and keeps the result. What stays performed is kept by slot (log entry
94). -/
def Obligations.AccessOpenedAndAnswered : Prop :=
  (∀ (s : State) (a : Agent) (i op : Nat) (ty : Ty) (vec : Bool) (sc : Nat) (ord : Ord) (loc : Bool)
    (addr : Nat) (r x : Token) (wave : Option Nat) (w : Win) (sl : Slot), s.win a = some w → w.slots[i]? = some sl →
  let t := s.openAccess a i op ty vec sc ord loc addr r x wave
  (∃ acc, t.accs = s.accs ++ [acc] ∧ acc.id = s.nextAcc ∧ acc.agent = a ∧ acc.seq = w.seq ∧ acc.slot = i ∧ acc.op = op ∧ acc.wave = wave ∧
      acc.addr = addr ∧ acc.ty = ty ∧ acc.ord = ord ∧ acc.committed = false ∧ ∀ u ∈ acc.units, u.st = .waiting) ∧
  t.nextAcc = s.nextAcc + 1 ∧ t.mem = s.mem ∧ t.presence = s.presence ∧
  (∃ w', t.win a = some w' ∧ w'.slots = listModify w.slots i (fun sl => { sl with st := .pending })) ∧
  (∀ b, (t.task b).regs = (s.task b).regs ∧ (t.task b).vregs = (s.task b).vregs ∧ (t.task b).fflags = (s.task b).fflags)) ∧
  (∀ (s : State) (x : Access) (tok : Token) (fl : Nat) (w : Win),
  s.win x.agent = some w → (s.task x.agent).st = .active →
  (∀ y ∈ (s.answer x tok fl).accs, y.id ≠ x.id) ∧
  ∃ w', (s.answer x tok fl).win x.agent = some w' ∧ w'.kept.find x.slot = some [tok] ∧ (w.pnr = true ∨ x.isRmw = true → w'.pnr = true))

/-- R113, R315, R317: FENCE takes its acquire part at once; its release part stands as an access of its own while an earlier access is
outstanding: a slot or register target then waits for it, a register's behind stores of the own block through the commit; else L
goes to TA. PREF changes nothing when its address has no translation.
The latency of the token is the model's choice (log entry 9). -/
def Obligations.FenceAndPrefetch : Prop := ∀ (s : State) (f : FmtM),
  let a := s.here.agent
  let i := s.here.slot
  let acq := f.ord = .acq ∨ f.ord = .ar ∨ f.ord = .sc
  let rel := f.ord = .rel ∨ f.ord = .ar ∨ f.ord = .sc
  let t := if acq then s.fired.acquireAt a f.sc.code else s.fired
  let u := if rel then t.openFence a i f (s.operand .l) else t
  let stores : Bool := optB (u.win a) fun w =>
    u.accs.any fun x => decide (x.agent = a ∧ x.seq = w.seq ∧ (x.kind = .write ∨ x.kind = .presence))
  (s.ready 0x90 (.m f) = true → exec (.fence f) s = .next
    (if t.accs.length < u.accs.length ∧ f.ta.isReg = true ∧ stores = true then u
     else if t.accs.length < u.accs.length ∧ (f.ta.isSlot = true ∨ f.ta.isReg = true) then
       u.setSlot a i fun sl => { sl with st := .pending }
     else u.send a i 0x90 (.m f) f.ta (s.operand .l) 1)) ∧
  (s.ready 0x92 (.m f) = true → ∃ v, exec (.pref f) s = .next v ∧
    ((∀ pa attr, (s.fired.translate a accPref (memAddr f (s.operand .l)) true).1 ≠ .hit pa attr) →
      v = (s.fired.translate a accPref (memAddr f (s.operand .l)) true).2))

/-- R313, R314, R328: the new value of an atomic from the old one and its operand, both read at TY: add modulo 2^w, minimum, maximum,
and, or, exclusive or, swap, and compare-and-swap, which writes only where the old value equals X. -/
def Obligations.AtomicResults : Prop := ∀ (s : State) (x : Access) (old : Nat),
  let w := x.ty.width
  let v := x.data.toNat % 2 ^ w
  let le (a b : Nat) : Prop := x.ty.intVal a ≤ x.ty.intVal b
  (x.op = 0x87 → s.rmwValue x old = (some ((old + v) % 2 ^ w), 0)) ∧
  (x.op = 0x88 → s.rmwValue x old = (some (if le old v then old else v), 0)) ∧
  (x.op = 0x89 → s.rmwValue x old = (some (if le v old then old else v), 0)) ∧
  (x.op = 0x8A → s.rmwValue x old = (some (old &&& v), 0)) ∧
  (x.op = 0x8B → s.rmwValue x old = (some (old ||| v), 0)) ∧
  (x.op = 0x8C → s.rmwValue x old = (some (old ^^^ v), 0)) ∧
  (x.op = 0x8D → s.rmwValue x old = (some v, 0)) ∧
  (x.op = 0x8E → s.rmwValue x old = (if old = x.exp then some v else none, 0)) ∧
  (x.op = 0x8F →
    let rm := s.resolveRm x.agent .dyn
    let r := rounded x.ty rm false (s.genOf x.agent x.slot) (addNum rm (Num.decode x.ty old) (Num.decode x.ty v))
    s.rmwValue x old = (some r.bits, r.flags))

/-! ## Control instructions -/

/-- The exit that an instruction takes when it fires, the first of its attempt: the successor it names, and none for HALT.
R262-R270: BR, YIELD, WAYPT, TRAP and HALT take their exit with the successor OFF units of 16 bytes from their own block; CALL
also sends its return word; BRI, RET and CALLI take it with the block address in L, and trap with code 0x100 when that is no
block's. R266: the return word of a call is the address of the block behind its own: 16 bytes of header and 8 bytes a slot, in
units of 16 bytes, rounded up. The latency of the return word is the model's choice (log entry 9). -/
def Obligations.ControlInstructions : Prop :=
  (∀ (s : State) (a : Agent) (i op next code : Nat) (w : Win), s.win a = some w →
  (w.exit = none → ∃ w', (s.takeExit a i op next code).win a = some w' ∧ w'.exit = some ⟨i, op, next, code⟩ ∧
    ((s.takeExit a i op next code).task a).succ = (if op = 0xA7 then none else some next) ∧
    w'.slots = w.slots ∧ w'.regs = w.regs ∧ (s.takeExit a i op next code).mem = s.mem) ∧
  (w.exit ≠ none → s.takeExit a i op next code = s.blockFault a (some i) 0x06 2 0)) ∧
  (∀ (s : State) (f : FmtC),
  let a := s.here.agent
  let i := s.here.slot
  let t := s.fired
  let rel := ((t.baddrOf a : Int) + sextN f.off.toNat 32).toNat
  let code := f.ck.toNat * 32 + f.aux.toNat
  let w := (s.operand .l)
  let starts := blockStarts (t.blockStore a)
  let good : Prop := w.kind = .word ∧ w.stop = 0 ∧ w.w64 < 4096 ∧ w.w64 ∈ starts
  (s.ready 0xA0 (.c f) = true → exec (.br f) s = .next (t.takeExit a i 0xA0 rel code)) ∧
  (s.ready 0xA8 (.c f) = true → exec (.yield f) s = .next (t.takeExit a i 0xA8 rel code)) ∧
  (s.ready 0xA9 (.c f) = true → exec (.waypt f) s = .next (t.takeExit a i 0xA9 rel code)) ∧
  (s.ready 0xAA (.c f) = true → exec (.trap f) s = .next (t.takeExit a i 0xAA rel code)) ∧
  (s.ready 0xA7 (.c f) = true → exec (.halt f) s = .next (t.takeExit a i 0xA7 rel code)) ∧
  (s.ready 0xA2 (.c f) = true → exec (.call f) s = .next
    ((t.takeExit a i 0xA2 rel 0).send a i 0xA2 (.c f) f.ta (t.returnWord a) 1)) ∧
  (s.ready 0xA1 (.c f) = true → good → exec (.bri f) s = .next (t.takeExit a i 0xA1 w.w64 0)) ∧
  (s.ready 0xA1 (.c f) = true → ¬ good → exec (.bri f) s = .next (t.blockFault a (some i) 0x0A 0x100 0)) ∧
  (s.ready 0xA4 (.c f) = true → good → exec (.ret f) s = .next (t.takeExit a i 0xA4 w.w64 0)) ∧
  (s.ready 0xA4 (.c f) = true → ¬ good → exec (.ret f) s = .next (t.blockFault a (some i) 0x0A 0x100 0)) ∧
  (s.ready 0xA3 (.c f) = true → good → exec (.calli f) s = .next
    ((t.takeExit a i 0xA3 w.w64 0).send a i 0xA3 (.c f) f.ta ((t.takeExit a i 0xA3 w.w64 0).returnWord a) 1)) ∧
  (s.ready 0xA3 (.c f) = true → ¬ good → exec (.calli f) s = .next (t.blockFault a (some i) 0x0A 0x100 0))) ∧
  (∀ (s : State) (a : Agent) (w : Win), s.win a = some w →
  s.returnWord a = wordTok (w.baddr + (16 + 8 * hdrSize (blockHeader (s.blockStore a) w.baddr) + 15) / 16))

/-- R270-R272: SPAWN waits with a request for a colour behind those of its region; RETC sends L to its channel; BRK stops the
task with its code. R163, R271: outside replay and a logged context the pool grants its lowest free colour to the first request:
the colour is held, the request is gone, the SPAWN has fired and its token has left. With no free colour nothing changes. The
latencies are the model's choice (log entry 9). -/
def Obligations.ColoursAndBreak : Prop :=
  (∀ (s : State) (f : FmtC),
  let a := s.here.agent
  let i := s.here.slot
  let t := s.fired
  (s.ready 0xA5 (.c f) = true → exec (.spawn f) s = .next
    ((t.setSlot a i fun sl => { sl with st := .pending }).modRegion (t.regionOf a) fun r =>
      { r with spawnQ := r.spawnQ ++ [(a, i, t.cycle)] })) ∧
  (s.ready 0xA6 (.c f) = true → exec (.retc f) s = .next (t.send a i 0xA6 (.c f) f.ta (s.operand .l) 1)) ∧
  (s.ready 0xAB (.c f) = true → ∃ u, exec (.brk f) s = .next u ∧ (u.task a).st = .halted ∧
    ∃ r, (u.task a).fault = some r ∧ r.fclass = 0x0B ∧ r.detail = f.ck.toNat * 32 + f.aux.toNat ∧ r.slot = i)) ∧
  (∀ (s : State) (k : Nat) (r : Region) (a : Agent) (i c n : Nat) (op : Nat) (f : Fmt),
  s.regions.find k = some r → s.firstSpawn r.spawnQ = some (a, i, c) → s.recorded a 1 i = none →
  (∀ x ∈ r.spawnQ, s.choiceDue x.1 1 x.2.1 = false) →
  let free := (bitsOf r.pool 64).filter fun n => !r.poolHeld.testBit n
  let held (r : Region) : Region :=
    { r with spawnQ := r.spawnQ.filter (· != (a, i, c)), poolHeld := r.poolHeld ||| 2 ^ n, moved := s.cycle, spawnAt := s.cycle + 1 }
  let t := ((s.modRegion k held).modWin a fun w => { w with kept := w.kept.put i [wordTok n] }).setSlot a i fun sl => { sl with st := .fired }
  (free = [] → exec (.spawnGrant k) s = .next s) ∧
  (c < s.cycle → r.spawnAt ≤ s.cycle → free.head? = some n → (s.choice a 1 i n = .done s) → t.fieldsAt a (t.baddrOf a) i = some (op, f) →
    exec (.spawnGrant k) s = .next (t.send a i op f f.ta (wordTok n) 1)))

/-! ## Synchronisation instructions -/

/-- R324-R327: BARW and BARA arrive when they fire, outside replay and when no arrival of an earlier attempt stands: the
instance gains their arrival, BARW with a value when ROP is not 0, and the phase they arrived in is kept. BART reads its ticket
from L. All three then deliver if they can. R324-R326: a phase that has its N arrivals completes: the counter advances modulo
2^32 and the arrivals are gone; one that has fewer is as it was. Its value is none for arrivals without values. Outside a logged
context BARW then waits for its phase, BARA delivers the number of its phase at once, and BART delivers 1 where the phase of
its ticket is complete, 0 where it is not and NOWAIT is set, and else waits; a BARW that waits delivers
the value of its phase when that completes. Which arrivals a phase of this package counts is the model's choice (log entries 50 to
52). -/
def Obligations.Barriers : Prop :=
  (∀ (s : State) (f : FmtS),
  let a := s.here.agent
  let i := s.here.slot
  let t := s.fired.setSlot a i fun sl => { sl with st := .pending }
  let p := (t.barrierOf a f).ctr
  let mark (u : State) : State := (u.modWin a fun w => { w with kept := w.kept.put i [wordTok p] }).setSync a i p 1
  t.replays a = false → (∀ x, t.keptAt a i = some x → x.1 = []) →
  (s.ready 0xB0 (.s f) = true → exec (.barw f) s = .next
    ((mark (t.arrive a f (if f.rop ≠ 0 then some (s.operand .l) else none))).syncTry a i)) ∧
  (s.ready 0xB1 (.s f) = true → exec (.bara f) s = .next ((mark (t.arrive a f none)).syncTry a i)) ∧
  (s.ready 0xB2 (.s f) = true → exec (.bart f) s = .next ((t.setSync a i ((s.operand .l).w64 % 2 ^ 32) 1).syncTry a i))) ∧
  (∀ (s : State) (n : Nat) (b : Barrier), s.barriers[n]? = some b →
  (∃ t, exec (.barrierPhaseComplete n) s = .next t) ∧
  ((s.completePhase b).ctr = (b.ctr + 1) % 2 ^ 32 ∧ (s.completePhase b).arrivals = [] ∧ (s.completePhase b).others = [] ∧
   ((∀ e ∈ b.arrivals, e.2 = none) → (∀ o ∈ b.others, o.val = none) →
     (s.completePhase b).lastVal = none ∧ (s.completePhase b).lastFlags = 0)) ∧
  (b.count < b.n → s.agents = [] → exec (.barrierPhaseComplete n) s = .next s) ∧
  (b.count ≠ 0 → b.n ≤ b.count → s.agents = [] → exec (.barrierPhaseComplete n) s = .next
    { s with barriers := listModify s.barriers n s.completePhase })) ∧
  (∀ (s : State) (f : FmtS) (w : Win),
  let a := s.here.agent
  let i := s.here.slot
  let t := s.fired.setSlot a i fun sl => { sl with st := .pending }
  let b := t.barrierOf a f
  let v := if f.rop ≠ 0 then some (s.operand .l) else none
  let mark (u : State) : State := (u.modWin a fun w => { w with kept := w.kept.put i [wordTok b.ctr] }).setSync a i b.ctr 1
  s.logs = [] → s.win a = some w → t.keptAt a i = none →
  (s.ready 0xB0 (.s f) = true → s.fieldsAt a w.baddr i = some (0xB0, .s f) →
    exec (.barw f) s = .next (mark (t.arrive a f v)) ∧ ((t.arrive a f v).barrierOf a f).arrivals = b.arrivals ++ [(a, v)]) ∧
  (s.ready 0xB1 (.s f) = true → s.fieldsAt a w.baddr i = some (0xB1, .s f) →
    exec (.bara f) s = .next ((mark (t.arrive a f none)).synced a i 0xB1 f (wordTok b.ctr) 0 false)) ∧
  (s.ready 0xB2 (.s f) = true → s.fieldsAt a w.baddr i = some (0xB2, .s f) →
    let p := (s.operand .l).w64 % 2 ^ 32
    let d := (b.ctr + 2 ^ 32 - p) % 2 ^ 32
    let r := t.setSync a i p 1
    exec (.bart f) s = .next
      (if 1 ≤ d ∧ d ≤ 2 ^ 31 then r.synced a i 0xB2 f (wordTok 1) 0 true
       else if f.nowait = true then r.synced a i 0xB2 f (wordTok 0) 0 false else r))) ∧
  (∀ (s : State) (b : Barrier) (a : Agent) (i : Nat) (f : FmtS) (w : Win) (sl : Slot),
  s.logs = [] → s.barriers = [b] → s.barIs a f b = true → b.ctr < 2 ^ 32 →
  b.count ≠ 0 → b.n ≤ b.count → s.agents = [a] → s.win a = some w → w.slots.length ≤ 128 →
  w.slots[i]? = some sl → sl.st = .pending → w.stopped = false → (s.task a).st = .active → w.ops.find i = some (.begun b.ctr 1) →
  s.fieldsAt a w.baddr i = some (0xB0, .s f) → (∀ j y, w.slots[j]? = some y → j ≠ i → y.st ≠ .pending) →
  let c := s.completePhase b
  exec (.barrierPhaseComplete 0) s = .next
    (({ s with barriers := [c] } : State).synced a i 0xB0 f (wordTok (c.lastVal.getD 0)) c.lastFlags true))

/-! ## Operations that act at commit -/

/-- R329, R334, R356, R359, R360, R362, R363, R366, R377, R383, R433, R443, R453: an instruction that takes effect at its block's commit
fires, and changes nothing else. -/
def Obligations.LateOperationsFire : Prop := ∀ s : State,
  (∀ f : FmtT,
    (s.ready 0xC0 (.t f) = true → exec (.copy f) s = .next s.fired) ∧
    (s.ready 0xC1 (.t f) = true → exec (.batch f) s = .next s.fired) ∧
    (s.ready 0xC3 (.t f) = true → exec (.launch f) s = .next s.fired) ∧
    (s.ready 0xC4 (.t f) = true → exec (.splice f) s = .next s.fired) ∧
    (s.ready 0xC5 (.t f) = true → exec (.cancelLaunch f) s = .next s.fired) ∧
    (s.ready 0xC5 (.t f) = true → exec (.cancelCopies f) s = .next s.fired)) ∧
  (∀ f : FmtS,
    (s.ready 0xB6 (.s f) = true → exec (.evt f) s = .next s.fired) ∧
    (s.ready 0xD1 (.s f) = true → exec (.csrw f) s = .next s.fired) ∧
    (s.ready 0xD3 (.s f) = true → exec (.resume f) s = .next s.fired) ∧
    (s.ready 0xD4 (.s f) = true → exec (.abort f) s = .next s.fired) ∧
    (s.ready 0xD5 (.s f) = true → exec (.chload f) s = .next s.fired) ∧
    (s.ready 0xD6 (.s f) = true → exec (.chact f) s = .next s.fired) ∧
    (s.ready 0xD7 (.s f) = true → exec (.preempt f) s = .next s.fired) ∧
    (s.ready 0xD8 (.s f) = true → exec (.cksave f) s = .next s.fired) ∧
    (s.ready 0xD9 (.s f) = true → exec (.ckrest f) s = .next s.fired) ∧
    (s.ready 0xDC (.s f) = true → exec (.almw f) s = .next s.fired) ∧
    (s.ready 0xDD (.s f) = true → exec (.reckWrbudget f) s = .next s.fired) ∧
    (s.ready 0xDE (.s f) = true → exec (.sound f) s = .next s.fired) ∧
    (s.ready 0xE0 (.s f) = true → exec (.attest f) s = .next s.fired))

/-- R359, R360, R383: at commit BATCH closes its queue's open batch and delivers the number closed; CANCEL of copies marks every
copy that has not started, and delivers how many; RECK wrbudget sets BUDGET from the next cycle on. R361, R396, R397: at commit RESUME
of a frozen region that is ACTIVE or GATING retries its faults and answers DONE, ABORT of an ACTIVE, GATING, LOADED or SAVED one
without an operation under way ends its gang, once no write-back of its banks is outstanding; each answers BUSY while an operation of
another agent on the gang is under way, NOREGION for a handle that names none, and STATE for a region in another state. The order of
the tests is the model's reading (log entry 63). -/
def Obligations.CommitOperations : Prop :=
  (∀ (s : State) (a : Agent) (i : Nat) (sl : Slot),
  (∀ g : FmtT,
    let q := g.aux.toNat % 64
    let n := ((s.copyq q).copies.filter fun c => c.st = 0).length
    let drop (c : Copy) : Copy := if c.st = 0 then { c with st := 2, fail := some 0, cancelled := true } else c
    s.commitOp a i 0xC1 (.t g) sl = .done (s.modCopyq q fun x => { x with batch := x.batch + 1 })
      (some (wordTok ((s.copyq q).batch % 2 ^ 32))) ∧
    (g.aux.toNat.testBit 6 = true → s.commitOp a i 0xC5 (.t g) sl = .done
      (s.modCopyq q fun x => { x with copies := x.copies.map drop }) (some (wordTok n)))) ∧
  (∀ g : FmtS, (sl.tok .r).w64 < 2 ^ 32 → s.commitOp a i 0xDD (.s g) sl = .done
    { s with budgetDue := some (sl.tok .r).w64 } (some (wordTok 0)))) ∧
  (∀ (s : State) (a : Agent) (i : Nat) (g : FmtS) (sl : Slot),
  let h := (sl.tok .l).asWord
  let answer (u : State) (n : Nat) : CommitRes := .done u (some (wordTok n))
  (∀ k, keyOfHandle h = some k → s.opUnderWay a k = true →
    s.commitOp a i 0xD3 (.s g) sl = answer s 3 ∧ s.commitOp a i 0xD4 (.s g) sl = answer s 3) ∧
  (s.regionAt h = none → (∀ k, keyOfHandle h = some k → s.opUnderWay a k = false) →
    s.commitOp a i 0xD3 (.s g) sl = answer s 1 ∧ s.commitOp a i 0xD4 (.s g) sl = answer s 1) ∧
  (∀ k r, s.regionAt h = some (k, r) → s.opUnderWay a k = false →
    (r.mail.isSome = true ∧ (r.st = .active ∨ r.st = .gating) →
      s.commitOp a i 0xD3 (.s g) sl = answer ((s.resumeRegion k).traceEvent k 4 0) 0) ∧
    (r.mail = none ∨ (r.st ≠ .active ∧ r.st ≠ .gating) → s.commitOp a i 0xD3 (.s g) sl = answer s 2) ∧
    (r.busy = false → r.st = .active ∨ r.st = .gating ∨ r.st = .loaded ∨ r.st = .saved →
      (s.abortWaits (s.gangOf k) = none → s.commitOp a i 0xD4 (.s g) sl = answer (s.abortGang (s.gangOf k)) 0) ∧
      (∀ u, s.abortWaits (s.gangOf k) = some u → s.commitOp a i 0xD4 (.s g) sl = .wait (u.holdOp a i k))) ∧
    (r.busy = true → s.commitOp a i 0xD4 (.s g) sl = answer s 3) ∧
    (r.busy = false → r.st ≠ .active → r.st ≠ .gating → r.st ≠ .loaded → r.st ≠ .saved →
      s.commitOp a i 0xD4 (.s g) sl = answer s 2)))

/-- R3, R34, R184, R186, R226, R227, R362: a CSR write at commit: the register's own bits, reserved bits read back as zero, and a
reserved field value leaves the register as it was. A reserved rounding mode leaves RMODE as it was (log entry 72). -/
def Obligations.CsrWrites : Prop := ∀ (s : State) (d p t i : Nat) (g : FmtS) (sl : Slot),
  let a := Agent.task d p t
  let n := (s.task a).cctx
  let v := (sl.tok .l).asWord
  let cfg (f : CfgCtx → CfgCtx) : CommitRes := .done (s.modCell (cellKey d p) fun c => c.modCctx n f) none
  let ctx (f : TaskCtx → TaskCtx) : CommitRes := .done (s.modTask a f) none
  (g.sel.toNat = 0x400 → s.commitOp a i 0xD1 (.s g) sl = cfg fun x => { x with asid := v.toNat % 2 ^ 16 }) ∧
  (g.sel.toNat = 0x401 → s.commitOp a i 0xD1 (.s g) sl = cfg fun x => { x with troot := v &&& 0xF80FFFFFFFFFF000 }) ∧
  (g.sel.toNat = 0x402 → s.commitOp a i 0xD1 (.s g) sl = cfg fun x => { x with dset := v }) ∧
  (g.sel.toNat = 0x403 → s.commitOp a i 0xD1 (.s g) sl = cfg fun x => { x with keyid := v.toNat % 2 ^ 8 }) ∧
  (g.sel.toNat = 0x000 → s.commitOp a i 0xD1 (.s g) sl = ctx fun t =>
    if v.toNat % 8 = 7 then t else { t with rmode := v.toNat % 8 }) ∧
  (g.sel.toNat = 0x001 → s.commitOp a i 0xD1 (.s g) sl = ctx fun t => { t with fflags := v.toNat % 2 ^ 6 }) ∧
  (g.sel.toNat = 0x004 → s.commitOp a i 0xD1 (.s g) sl = ctx fun t => { t with shapeb := v.toNat % 2 ^ 8 })

/-! ## Reads when an instruction fires -/

/-- R362, R380, R383, R391, R453: CSRR, MAILR, ALMR and RECK rdbudget deliver what they read to both targets, RECK rdctr the
counter to TA and the region's level and ERATE to TB; QSTAT delivers its queue's status word. R52, R359, R379: CSTAT delivers
its queue's status word and clears ERR; WAITB closes the open batch if it holds a copy and waits for the copies of the batches L
covers; IDLE delivers the oldest event of its die and its payload, and a held event moves up; TLBI fires, drops what it selects
and waits. The latencies are the model's choice (log entry 9); RECK and IDLE act when they fire (log entry 71), WAITB compares as
log entry 56 says; the two free values that a read passes over are the model's own field (log entry 1). -/
def Obligations.ReadsAndWaits : Prop :=
  (∀ s : State,
  let a := s.here.agent
  let i := s.here.slot
  let t := { s.fired with free := s.fired.free + 2 }
  let go (op : Nat) (f : FmtS) (u v : Word) : State :=
    (t.send a i op (.s f) f.ta (wordTok u.toNat) 1).send a i op (.s f) f.tb (wordTok v.toNat) 1
  (∀ f : FmtS,
    (s.ready 0xD0 (.s f) = true → exec (.csrr f) s = .next (go 0xD0 f (s.csrRead a f.sel.toNat) (s.csrRead a f.sel.toNat))) ∧
    (s.ready 0xD2 (.s f) = true →
      let v := s.mailRead a (s.operand .l).asWord (f.aux.toNat % 16)
      exec (.mailr f) s = .next (go 0xD2 f v v)) ∧
    (s.ready 0xDB (.s f) = true →
      let v := match s.almanac[(s.operand .l).w64]? with
        | some e => if f.aux.toNat % 2 = 0 then e.1 else e.2
        | none => BitVec.allOnes 64
      exec (.almr f) s = .next (go 0xDB f v v)) ∧
    (s.ready 0xDD (.s f) = true →
      let v := word (s.committed % 2 ^ 32 * 2 ^ 32 + s.budget % 2 ^ 32)
      exec (.reckRdbudget f) s = .next (go 0xDD f v v)) ∧
    (s.ready 0xDD (.s f) = true →
      let v := s.readCounter (s.operand .l).asWord
      exec (.reckRdctr f) s = .next (go 0xDD f v.1 v.2))) ∧
  (∀ f : FmtT, s.ready 0xC6 (.t f) = true →
    exec (.qstat f) s = .next (s.fired.sendBoth a i 0xC6 (.t f) (wordTok (s.fired.qstat (s.operand .l).asWord)) 1))) ∧
  (∀ s : State,
  let a := s.here.agent
  let i := s.here.slot
  let t := s.fired
  (∀ f : FmtT,
    let q := f.aux.toNat % 64
    (s.ready 0xC7 (.t f) = true → exec (.cstat f) s = .next
      ((t.modCopyq q fun x => { x with err := false }).sendBoth a i 0xC7 (.t f) (wordTok (t.copyq q).status) 1)) ∧
    (s.ready 0xC2 (.t f) = true →
      let x := t.copyq q
      let u := if x.copies.any fun c => c.batch = x.batch then t.modCopyq q fun x => { x with batch := x.batch + 1 } else t
      let b := waitbBound (u.copyq q).batch (s.operand .l).w64
      exec (.waitb f) s = .next (((u.modWin a fun w => { w with ops := w.ops.put i (.begun b 0) }).setSlot a i fun sl =>
        { sl with st := .pending }).waitbTry a i))) ∧
  (∀ f : FmtS,
    (s.ready 0xDF (.s f) = true → ∀ ev pl r, (t.die a.die).events = (ev, pl) :: r →
      let u := t.modDie a.die fun d => { d with events := r ++ d.evHeld.take 1, evHeld := d.evHeld.drop 1 }
      exec (.idle f) s = .next
        ((u.send a i 0xDF (.s f) f.ta (wordTok ev.toNat) 1).send a i 0xDF (.s f) f.tb (wordTok pl.toNat) 1)) ∧
    (s.ready 0xDA (.s f) = true → exec (.tlbi f) s = .next
      (t.tlbi a i f.sc (f.sel.toNat / 512 % 4) (s.operand .l).w64 ((s.operand .r).w64 % 65536)))))

/-- R51, R52: a TLBI drops from every TLB in its scope the entries it selects, keeps every other entry, and waits in its slot.
Mode 0 selects the pages that hold VA, of its ASID or global, mode 1 the pages of an ASID that are not global, mode 2 the pages
that hold VA, mode 3 all. R52: a TLBI whose parts have all performed or failed has fired: its token of value 0 leaves. The
latency is the model's choice (log entry 9), the numbering of ports the model's own. -/
def Obligations.TlbInvalidation : Prop :=
  (∀ (s : State) (a : Agent) (i sc mode va asid n : Nat) (p : Port),
  (n, p) ∈ s.ports →
  let sel (e : TlbEntry) : Bool :=
    let hit := decide (va % 2 ^ 52 / 65536 * 65536 / 2 ^ e.size = e.vpage)
    let g := e.leaf.getLsbD 9
    if mode = 0 then hit && (g || decide (e.asid = asid)) else if mode = 1 then !g && decide (e.asid = asid)
    else if mode = 2 then hit else true
  let within := if sc = 3 then n / 64 = a.die ∧ n < 4096 else n < 4096 ∨ 8192 ≤ n
  (n, if within then { p with tlb := p.tlb.filter fun e => !sel e } else p) ∈ (s.tlbi a i sc mode va asid).ports) ∧
  (∀ (s : State) (a : Agent) (i : Nat) (w : Win) (sl : Slot) (f : Fmt),
  s.win a = some w → w.slots[i]? = some sl → s.fieldsAt a w.baddr i = some (0xDA, f) → sl.st = .pending → w.stopped = false →
  (s.task a).st = .active → s.tlbiDone a i = true →
  exec (.tlbiComplete a i) s = .next
    (((s.modWin a fun w => { w with kept := w.kept.drop (256 + i) }).setSlot a i fun sl => { sl with st := .fired }).send
      a i 0xDA f f.ta (wordTok 0) 1))

/-! ## Blocks and tasks -/

/-- R156, R157, R177: a token that waits for an IDLE task activates it with its colour on its entry block, and a ready helm core that has
not started begins on its entry block with registers of zero. The block becomes the firing block with empty slots, and takes the next
block number. -/
def Obligations.Activation : Prop := ∀ s : State,
  (∀ d p t col, p < 256 → (s.task (.task d p t)).st = .idle → s.wakingColour (cellKey d p) t = some col →
    ∃ u w, exec (.tokenArrivalActivate (cellKey d p) t) s = .next u ∧ (u.task (.task d p t)).st = .active ∧
      (u.task (.task d p t)).color = col ∧ (u.task (.task d p t)).win = some w ∧ w.baddr = (s.task (.task d p t)).entry ∧
      w.seq = (s.cell (cellKey d p)).seq + 1 ∧ (u.task (.task d p t)).regs = (s.task (.task d p t)).regs ∧ (∀ sl ∈ w.slots, sl = Slot.fresh)) ∧
  (∀ n, (s.helm n).ready = true → (s.helm n).task.st = .unbound →
    ∃ u w, exec (.helmStart n) s = .next u ∧ (u.task (.helm n)).st = .active ∧ (u.task (.helm n)).regs = zeroRegs ∧
      (u.task (.helm n)).vregs = zeroVregs ∧ (u.task (.helm n)).color = 0 ∧ (u.task (.helm n)).win = some w ∧
      w.baddr = (s.helm n).entry ∧ w.seq = (s.helm n).seq + 1)

/-- R159, R329, R356: BLOCK_COMMIT makes one attempt to commit the agent's firing block; EVT_DELIVER and QUEUE_ROOM_CAPTURE make it for a
commit that waits with such an operation. R159, R187, R240, R262, R272, R334: a quiescent block that is judged to commit, outside a
logged context and with no FENCE standing, commits: its flags are merged, its registers, window and channel tokens take effect,
its exit is taken. With one operation that acts at commit, whose record has been judged, and none of its accesses outstanding, that
operation acts first, and its token reaches its target. R329, R431: an EVT for the host joins the interrupts that wait, where there are fewer than 1,024,
one for a helm core the events of its die. -/
def Obligations.CommitSteps : Prop :=
  (∀ (s : State) (a : Agent),
  exec (.blockCommit a) s = .next (s.tryCommit a) ∧
  (s.commitWaits a (· = 0xB6) = true → exec (.evtDeliver a) s = .next (s.tryCommit a)) ∧
  (s.commitWaits a (fun op => op = 0xC0 || op = 0xC3) = true → exec (.queueRoomCapture a) s = .next (s.tryCommit a)) ∧
  (∀ w, s.win a = some w → w.stopped = true ∨ s.mayCommit a = false ∨ s.quiescent a w = false → s.tryCommit a = s)) ∧
  (∀ (s : State) (a : Agent) (w : Win) (e : ExitRec),
  s.win a = some w → w.stopped = false → s.mayCommit a = true → s.quiescent a w = true → s.judgeBlock a w = none → w.exit = some e →
  (s.task a).spillBad e.op = none → s.retPoison a e.op = none → s.logs = [] → s.fenceRegs a w = [] →
  s.outsMapped a w.outs (s.lateOps a w) = true →
  let open0 := (w.ops.find opsOpen).isSome
  let s1 := if open0 then s else s.settleTask a w
  let w1 := if open0 then w else { w with ops := w.ops.put opsOpen (.done 0) }
  (s.lateOps a w = [] → exec (.blockCommit a) s = .next (s1.commitBlock a w1 e) ∧
    (open0 = false → ((s1.commitBlock a w1 e).task a).fflags = (s.task a).fflags ||| w.flags) ∧
    (e.op = 0xA0 → ∃ v, (s1.commitBlock a w1 e).win a = some v ∧ v.baddr = e.next ∧ ∀ sl ∈ v.slots, sl = Slot.fresh) ∧
    (e.op = 0xA7 → ((s1.commitBlock a w1 e).task a).st = .idle ∧ (s1.commitBlock a w1 e).win a = none)) ∧
  (∀ i op f sl u tok v, s.lateOps a w = [(i, op, f, sl)] → i < 128 → w.opDone i = false → (∀ x ∈ s.accs, x.agent ≠ a) →
    s.judgeLate a w (s.lateOps a w) = .go s → s1.lowerFirst a (s.lateOps a w) = false → s1.commitOp a i op f sl = .done u tok →
    ((u.opReports a op).opFinish a i f sl tok).win a = some v →
    let t := ((u.opReports a op).opFinish a i f sl tok).commitBlock a v e
    exec (.blockCommit a) s = .next t ∧ (open0 = true → op = 0xB6 → exec (.evtDeliver a) s = .next t) ∧
    (open0 = true → op = 0xC0 ∨ op = 0xC3 → exec (.queueRoomCapture a) s = .next t))) ∧
  (∀ (s : State) (a : Agent) (i : Nat) (sl : Slot) (g : FmtS), s.logs = [] →
  let code := g.aux.toNat % 256
  let dest := fieldN g.sel.toNat 13 12
  let d := if dest = 1 then a.die else 64
  let v := (sl.tok .l).asWord
  (dest = 0 → s.hostReady = true → s.host.irqs.length < 1024 → s.commitOp a i 0xB6 (.s g) sl = .done
    { s with host := { s.host with irqs := s.host.irqs ++ [[word (code * 2 ^ 56 + handleOf (s.regionOf a)), v]] } } none) ∧
  (dest ≠ 0 → (s.die d).events.length < 256 → (s.die d).evHeld = [] → s.commitOp a i 0xB6 (.s g) sl = .done
    (s.modDie d fun x => { x with events := x.events ++ [(eventWord 8 code (s.regionOf a), v)] }) none)) ∧
  (∀ (s t : State) (a : Agent) (i : Nat) (sl : Slot) (g : FmtT) (ws : List Word),
  let q := g.aux.toNat % 64
  (s.copyq q).open < 256 → s.readRecord a i (sl.tok .l).w64 64 = .ok t ws → s.commitOp a i 0xC0 (.t g) sl = .done
    (t.addCopy q (t.cfgFor a) (t.agentLog a) (t.replays a) (.ok ws) (t.regionOf a)) (some (wordTok ((s.copyq q).batch % 2 ^ 32))))

/-- R159, R240: when a block commits whose exit is neither a call nor a return nor HALT, each register that received a value
takes it, a scalar its low 64 bits, and every other register keeps its value. R169, R266: where fewer than six groups are
resident below, a CALL moves the window by one group: the upper sixteen registers of the caller are the lower sixteen of the
callee, and no register changes its value. -/
def Obligations.RegistersCommit : Prop :=
  (∀ (s : State) (a : Agent) (w : Win) (e : ExitRec),
  s.win a = some w → (w.regs.map (·.1)).Nodup → e.op ≠ 0xA2 → e.op ≠ 0xA3 → e.op ≠ 0xA4 → e.op ≠ 0xA7 →
  let t := s.commitBlock a w e
  (∀ n v, n < 32 → w.regs.find n = some (some v) → (t.task a).getS n = v.setWidth 64) ∧
  (∀ n v, n < 8 → w.regs.find (32 + n) = some (some v) → (t.task a).getV n = v) ∧
  (∀ n, n < 32 → w.regs.find n = none ∨ w.regs.find n = some none → (t.task a).getS n = (s.task a).getS n) ∧
  (∀ n, n < 8 → w.regs.find (32 + n) = none ∨ w.regs.find (32 + n) = some none → (t.task a).getV n = (s.task a).getV n)) ∧
  (∀ (s : State) (a : Agent), (s.task a).depth < 6 →
  let t := s.windowCall a
  (t.task a).depth = (s.task a).depth + 1 ∧ (t.task a).regs = (s.task a).regs ∧ (t.task a).vregs = (s.task a).vregs ∧ t.mem = s.mem ∧
  ∀ n, n < 16 → (t.task a).getS n = (s.task a).getS (16 + n))

/-! ## Routers (R166) -/

/-- R165, R166: with no splice token at an input, CIRCUIT_FORWARD takes the head of its circuit to every port of its mask; a
steer sends data to the arm its predicate names and an equal stop to both; a merge takes its predicate and the head of the arm
it names. A token that may not leave stays. R145, R166: a non-deterministic merge passes the data of the arm whose head came
first, the only one that has a head where one has none, and records the arm; a carry in INIT passes the head of its first input
and goes to LOOP unless that is a stop token; in LOOP a false control takes it back to INIT and a true one passes the head of
the second input. Colours, held pairings and the recording are read as log entries 17 and 18 say. -/
def Obligations.RouterOperators : Prop :=
  (∀ (s : State) (key c cid : Nat) (e : Word),
  ((s.cell key).cctx c).entryOf cid = some e → s.takeSplices key c e = none →
  let d := key / 256
  let p := key % 256
  let k := s.cctxRegion key c
  let in0 := s.headAt key c (rIn e 0)
  let in1 := s.headAt key c (rIn e 1)
  let in2 := s.headAt key c (rIn e 2)
  (∀ x, rOpk e = 0 → in0 = some x → exec (.circuitForward key c cid) s = .next
    (if s.mayLeave d p (rOutA e) cid x then ((s.latchPop key (rIn e 0)).emit k d p (rOutA e) cid x).routed key c else s)) ∧
  (∀ x y, rOpk e = 1 → in0 = some x → in1 = some y → x.stop = 0 → y.stop = 0 →
    let pop := (s.latchPop key (rIn e 0)).latchPop key (rIn e 1)
    exec (.routerSteer key c cid) s = .next
      (if y.isTrue then (if s.mayLeave d p (rOutA e) cid x then (pop.emit k d p (rOutA e) cid x).routed key c else s)
       else if s.mayLeave d p (rOutB e) (rFalse e) x then (pop.emit k d p (rOutB e) (rFalse e) x).routed key c else s)) ∧
  (∀ x y, rOpk e = 1 → in0 = some x → in1 = some y → x.stop ≠ 0 → y.stop = x.stop →
    let pop := (s.latchPop key (rIn e 0)).latchPop key (rIn e 1)
    exec (.routerSteer key c cid) s = .next
      (if s.mayLeave d p (rOutA e) cid x ∧ s.mayLeave d p (rOutB e) (rFalse e) x then
        ((pop.emit k d p (rOutA e) cid x).emit k d p (rOutB e) (rFalse e) x).routed key c else s)) ∧
  (∀ y, rOpk e = 2 → in2 = some y → y.stop = 0 →
    let arm := rIn e (if y.isTrue then 0 else 1)
    ∀ x, s.headAt key c arm = some x → x.stop = 0 → exec (.routerMerge key c cid) s = .next
      (if s.mayLeave d p (rOutA e) cid x then (((s.latchPop key (rIn e 2)).latchPop key arm).emit k d p (rOutA e) cid x).routed key c
       else s))) ∧
  (∀ (s : State) (key c cid : Nat) (e : Word) (right : Bool),
  ((s.cell key).cctx c).entryOf cid = some e → s.takeSplices key c e = none →
  let d := key / 256
  let p := key % 256
  let k := s.cctxRegion key c
  let in0 := s.headAt key c (rIn e 0)
  let in1 := s.headAt key c (rIn e 1)
  let in2 := s.headAt key c (rIn e 2)
  let out (n : Nat) (x : Token) : State := (s.latchPop key (rIn e n)).emit k d p (rOutA e) cid x
  let state (u : State) (v : Nat) : State := u.modCell key fun y => y.modCctx c fun z => { z with opst := z.opst.put cid v }
  (∀ x, rOpk e = 3 → ((s.cell key).ndm.get (64 * c + cid) []).length < 64 → in0 = some x → in1 = none → x.stop = 0 →
    s.ndmRecorded key c cid = none → s.mayLeave d p (rOutA e) cid x = true →
    exec (.routerNdmerge key c cid right) s = .next (((out 0 x).ndmRecord key c cid false).routed key c)) ∧
  (∀ x y, rOpk e = 3 → ((s.cell key).ndm.get (64 * c + cid) []).length < 64 → in0 = some x → in1 = some y → x.stop = 0 → y.stop = 0 →
    s.ndmRecorded key c cid = none → right = decide ((s.cell key).headTime (rIn e 1) < (s.cell key).headTime (rIn e 0)) →
    s.mayLeave d p (rOutA e) cid (if right then y else x) = true →
    exec (.routerNdmerge key c cid right) s = .next
      (((out (if right then 1 else 0) (if right then y else x)).ndmRecord key c cid right).routed key c)) ∧
  (∀ x, rOpk e = 4 → ((s.cell key).cctx c).opst.get cid 0 = 0 → in0 = some x → s.mayLeave d p (rOutA e) cid x = true →
    exec (.routerCarry key c cid) s = .next (if x.stop = 0 then state ((out 0 x).routed key c) 1 else (out 0 x).routed key c)) ∧
  (∀ y, rOpk e = 4 → ((s.cell key).cctx c).opst.get cid 0 ≠ 0 → in2 = some y → y.stop = 0 → y.isTrue = false →
    exec (.routerCarry key c cid) s = .next ((state (s.latchPop key (rIn e 2)) 0).routed key c)) ∧
  (∀ x y, rOpk e = 4 → ((s.cell key).cctx c).opst.get cid 0 ≠ 0 → in2 = some y → y.stop = 0 → y.isTrue = true → in1 = some x →
    x.stop = 0 → s.mayLeave d p (rOutA e) cid x = true →
    exec (.routerCarry key c cid) s = .next
      (((((s.latchPop key (rIn e 2)).latchPop key (rIn e 1)).emit k d p (rOutA e) cid x)).routed key c)))

/-! ## Steps of engines -/

/-- R191, R201, R301, R340, R345: the step of a running digit operator, whose task stands at no fault but a BRK or a watchpoint, of a
matrix row or of a stream instruction in a slot counts as movement and is that of its kind; a kill of a group that has ended is discarded. R201: a kill from a slot of the same block ends the
lanes it names, of the target it travels for, that have not ended, and kills them for that target when the operator's own KG
sent it; the message is gone. R193, R198, R205, R294, R345, R346: a DSINK whose lanes have their digits rounds each, has fired
and sends the result; a DSRC that has sent its head sends its next digit token, 100 in the lanes that have ended; a message
that ends the last lanes of a DSRC ends it. A row of MMROW adds the block of a vector token, and is done with the last of T0's
K, where no further token waits. ISECT with equal coordinates at its heads takes both tokens and sends both; with unequal ones it drops the lower. Groups are
told apart as log entry 16 says. -/
def Obligations.DigitEngines : Prop :=
  (∀ (s : State) (a : Agent) (i : Nat) (w : Win) (sl : Slot), s.win a = some w → w.slots[i]? = some sl →
  sl.st = .running →
  let t := s.moved (s.regionOf a)
  (∀ op g e, s.fieldsAt a w.baddr i = some (op, .g g) → sl.eng = .digit e → (s.task a).fault = none ∨ s.paused a = true →
    exec (.digitStep a i) s = .next
    (if op = 0x51 then t.stepSink a i g e else if op = 0x5D ∨ op = 0x5E then t.stepAcc a i op g e else t.stepPlain a i op g e)) ∧
  (∀ op f d e y, s.fieldsAt a w.baddr i = some (op, .t f) → sl.eng = .row d e → sl.l.q.find? (rowFits f d) = some y → y.at0 ≤ s.cycle →
    exec (.matrixRowAdd a i) s = .next (t.rowToken a i f d e y)) ∧
  (∀ op f e, s.fieldsAt a w.baddr i = some (op, .t f) → sl.eng = .stream e → e.held = false → (s.task a).st = .active →
    exec (.streamToken a i) s = .next (s.stepStream a i op f sl e)) ∧
  (∀ n m, s.kills[n]? = some m → m.agent = a → m.slot = i → w.seq ≠ m.seq → ∀ op g e, s.fieldsAt a w.baddr i = some (op, .g g) →
    sl.eng = .digit e → exec (.killMessage n) s = .next { s with kills := s.kills.eraseIdx n })) ∧
  (∀ (s : State) (n i : Nat) (m : KillMsg) (w : Win) (sl : Slot) (op : Nat) (g : FmtG) (e : DigEng),
  s.kills[n]? = some m → m.rcv = none → m.slot = i → s.win m.agent = some w → w.seq = m.seq → w.slots[i]? = some sl →
  s.fieldsAt m.agent w.baddr i = some (op, .g g) → sl.st = .running → sl.eng = .digit e →
  let old := (e.endOut[m.target]?).getD 0
  let new := m.lanes &&& (2 ^ 32 - 1 - old)
  let own := if m.kg = some g.kg.toNat then m.lanes else 0
  exec (.killMessage n) s = .next (({ s with kills := s.kills.eraseIdx n } : State).settleDigit m.agent i op g
    { e with endOut := listSet e.endOut m.target (old ||| new), killOut := listModify e.killOut m.target (· ||| (new &&& own)) })) ∧
  (∀ (s : State) (a : Agent) (i : Nat) (w : Win) (sl : Slot) (g : FmtG) (e : DigEng),
  s.win a = some w → w.slots[i]? = some sl → sl.st = .running → sl.eng = .digit e → (s.task a).fault = none →
  let t := s.moved (s.regionOf a)
  let ended := (e.endOut[0]?).getD 0 &&& (e.endOut[1]?).getD 0
  let pd := if g.pd = 0 then defaultPd g.ty else g.pd.toNat
  let vec := g.aux.toNat.testBit 0
  let r := mapRes (fun gen n => roundNum g.ty (t.resolveRm a g.rm) g.sat gen (sinkNum (e.lane .l n) pd))
    (List.range (if vec then 32 else 1)) (t.genOf a i)
  (s.fieldsAt a w.baddr i = some (0x51, .g g) → chlOf 0x51 (.g g) = none → sl.l.q = [] → e.endIn[0]? = some allLanes →
    pd ≤ e.nIn .l → exec (.digitStep a i) s = .next
      (((t.setSlot a i fun sl => { sl with st := .fired, eng := .none }).modWin a fun w => w.raise r.2.1).sendBoth a i 0x51 (.g g)
        (if vec then lanesTok g.ty r.1 else elemTok g.ty (r.1.headD 0)) 1)) ∧
  (s.fieldsAt a w.baddr i = some (0x50, .g g) → e.outHead.isSome = true → g.ta.isSlot = false → g.tb.isSlot = false → ended ≠ allLanes →
    let j := e.sent + 1
    let digit (n : Nat) : Int := if (e.out n).cls = 1 then srcDigit (Num.decode g.ty (e.wordLane g.ty n)) j else 0
    let ds := (List.range 32).map fun n => if ended.testBit n then 4 else wrapN (digit n) 3
    let tok : Token := { kind := .digit, stop := 0, color := 0, payload := BitVec.ofNat 2048 (packLanes 3 ds) }
    exec (.digitStep a i) s = .next (((t.spend (t.regionOf a) 1 1).sendBoth a i 0x50 (.g g) tok 1).setDig a i { e with sent := j })) ∧
  (∀ n m, s.kills[n]? = some m → m.rcv = none → m.agent = a → m.slot = i → m.seq = w.seq → m.target < 2 →
    s.fieldsAt a w.baddr i = some (0x50, .g g) → g.ta.isSlot = false → g.tb.isSlot = false →
    let old := (e.endOut[m.target]?).getD 0
    let new := m.lanes &&& (2 ^ 32 - 1 - old)
    let own := if m.kg = some g.kg.toNat then m.lanes else 0
    let e' : DigEng := { e with endOut := listSet e.endOut m.target (old ||| new)
                                killOut := listModify e.killOut m.target (· ||| (new &&& own)) }
    let u : State := { s with kills := s.kills.eraseIdx n }
    exec (.killMessage n) s = .next
      (if (e'.endOut[0]?).getD 0 &&& (e'.endOut[1]?).getD 0 = allLanes ∧ e.outHead.isSome = true then
        u.setSlot a i fun sl => { sl with st := .fired, eng := .none }
       else u.setDig a i e'))) ∧
  (∀ (s : State) (d p k i : Nat) (w : Win) (sl : Slot) (f : FmtT) (de : DigEng) (e : StrEng) (y : Arrival) (r : List Arrival),
  let a := Agent.task d p k
  s.win a = some w → w.slots[i]? = some sl → sl.st = .running → s.fieldsAt a w.baddr i = some (0x62, .t f) →
  sl.eng = .row de e → e.again = false → f.sh = .vector → sl.l.q = y :: r → y.at0 ≤ s.cycle → y.tok.kind = .vector → y.tok.stop = 0 →
  let m := s.matOf a
  let b := wordBlock f.ty (decide (pSoff e.pat ≠ 0)) e.cur y.tok
  (32 * (e.i + 1) = m.t0.k → r = []) →
  ∃ u w' sl', exec (.matrixRowAdd a i) s = .next u ∧ (u.matOf a).acc = (m.addBlock (f.aux.toNat % 4) e.i b).acc ∧
    u.win a = some w' ∧ w'.slots[i]? = some sl' ∧ sl'.l.q = r ∧
    (32 * (e.i + 1) ≠ m.t0.k → (u.matOf a).row = m.row ∧ sl'.st = .running ∧ ∃ e2, sl'.eng = .row de e2 ∧ e2.i = e.i + 1 ∧ e2.cur = none) ∧
    (32 * (e.i + 1) = m.t0.k → (u.matOf a).row = none ∧ sl'.st = .fired ∧ w'.kept.find i = some [wordTok 0])) ∧
  (∀ (s : State) (a : Agent) (i : Nat) (w : Win) (sl : Slot) (f : FmtT) (e : StrEng) (x y : Arrival) (xs ys : List Arrival),
  s.win a = some w → w.slots[i]? = some sl → sl.st = .running → s.fieldsAt a w.baddr i = some (0x73, .t f) → sl.eng = .stream e →
  e.held = false → (s.task a).st = .active → sl.l.q = x :: xs → sl.r.q = y :: ys → x.at0 ≤ s.cycle → y.at0 ≤ s.cycle →
  x.tok.stop = 0 → y.tok.stop = 0 →
  let t := s.moved (s.regionOf a)
  let popL (u : State) : State := u.setSlot a i fun sl => { sl with l := sl.l.pop }
  let popR (u : State) : State := u.setSlot a i fun sl => { sl with r := sl.r.pop }
  let cx := x.tok.w64 % 2 ^ 32
  let cy := y.tok.w64 % 2 ^ 32
  exec (.streamToken a i) s = .next
    (if cx = cy then (popR ((popL t).moved (t.regionOf a))).strSend a i 0x73 (.t f) (wordTok x.tok.w64) (wordTok y.tok.w64)
     else if cx < cy then popL t else popR t))

/-- R168, R347, R348, R399, R471: the command that waits longest takes a free place of its port; a separator that nothing earlier stands
against completes; a running command takes its next read or write step; one stopped at a gate goes on when the gate is open; one that
waits for a chart stays while its context has none. R165, R347, R353: a read command that has the elements of its next token
sends it into the mesh at its port, where there is room, and goes on behind it; a write command discards a stop token; a
separator of a word without a target leaves its place free. A helm core's command is parked as log entry 46 says. -/
def Obligations.StreamCommandSteps : Prop := ∀ (s : State) (port id : Nat) (c : StreamCmd),
  (∀ r, (s.port port).waiting = c :: r → c.id = id → (s.port port).cmds.length < 16 →
    exec (.streamCommandStart port id) s = .next (s.modPort port fun p => { p with cmds := p.cmds ++ [c], waiting := r })) ∧
  (s.cmd? port id = some c →
    (c.st = 2 → s.gatedAt c.region = false →
      exec (.streamCommandElement port id) s = .next (s.modCmd port id fun c => { c with st := 1 })) ∧
    (c.st = 1 → c.fault = none → s.cmdFree c = true → exec (.streamCommandElement port id) s = .next
      (if c.isBar then (s.moved c.region).endCmd port c else if c.write then s.writeCmd port c else s.readCmd port c)) ∧
    (((s.cell c.cell).cctx c.cctx).st ≠ .active → exec (.helmSbindActivation port id) s = .next s) ∧
    (∀ p, c.st = 3 → ((s.cell c.cell).cctx c.cctx).st = .active → c.fault = none →
      (let i := (match s.fieldsAt c.agent c.baddr c.slot with
        | some (_, .t f) => (f.sr.toNat + ((s.cell c.cell).task c.task).shapeb) % 256
        | _ => 0)
       ((s.cell c.cell).cctx c.cctx).shapes.contains i = true ∧ (s.cell c.cell).shapes.get i [0, 0, 0, 0] = p) →
      badRecord p = false → pPk p = 0 → exec (.helmSbindActivation port id) s = .next (s.modPort port fun q =>
        { q with cmds := (q.cmds.filter fun e => e.id != id) ++ [{ s.bindCmd c p with st := 0 }] }))) ∧
  (s.cmd? port id = some c → c.st = 1 → c.fault = none → s.cmdFree c = true →
    (∀ p side, c.isBar = false → c.write = false → c.pendStop = 0 → s.haltedAt c.region = false → c.buf.length = c.lanes → c.tag = none →
      s.portEnd (port / 64) (port % 64) = some (p, side) →
      (s.cell (cellKey (port / 64) p)).latchRoom (64 * side + c.circ) c.token = true →
      exec (.streamCommandElement port id) s = .next
        (((s.latchPut (cellKey (port / 64) p) (64 * side + c.circ) c.token).entered c.region).modCmd port id fun e => e.advance.1)) ∧
    (∀ x r, c.isBar = false → c.write = true → (s.port port).inq.get c.circ [] = x :: r → x.stop ≠ 0 →
      exec (.streamCommandElement port id) s = .next ((s.modPort port fun p => { p with inq := p.inq.put c.circ r }).moved c.region)) ∧
    (∀ w f, c.isBar = true → s.win c.agent = some w → w.seq = c.seq → s.fieldsAt c.agent c.baddr c.slot = some (0x71, .t f) →
      f.ta = .none → exec (.streamCommandElement port id) s = .next
        ((s.moved c.region).modPort port fun p => { p with cmds := p.cmds.filter fun e => e.id != id })))

/-! ## Steps of memory accesses -/

/-- R43, R66, R70, R305-R307, R315, R318: HOME_ACCESS takes a part of an access on: one that has not issued issues when its
lower waves are resolved and its block's start is passed; one that has issued performs when the order of its task lets it; the
release part of a FENCE answers when every earlier access has performed; an access of no parts comes to its end. R39, R74, R76,
R316, R321: a held read goes on once its word is full, a held MWAIT is evaluated again unless it compares a value of its own
block, a held ring operation is tried again, a request that a full table returned is sent again after 64 cycles, and a part
whose walk has ended goes on with the leaf. R73, R125, R138: with a claim on its word still held CLAIM_RESOLVE changes nothing,
and with nothing waiting on the word neither; the only write that waits for the word claims it again. A held write whose sub-log
is still full makes the policy act again; one that finds room is appended and performed in the same step, and the log's gate
opens when it was the last that waited. R387: under TRAP a held write waits for the RESUME of its LOG_FULL. One order of performing points is the model's choice (log entry 12). -/
def Obligations.MemorySteps : Prop :=
  (∀ (s : State) (id j : Nat) (x : Access), s.acc? id = some x →
  (x.kind = .fence → exec (.homeAccess id j) s = .next (s.fenceStep x)) ∧
  (x.kind ≠ .fence → x.kind ≠ .elem → x.units = [] → exec (.homeAccess id j) s = .next (s.emptyStep x)) ∧
  (∀ u, x.kind ≠ .fence → x.kind ≠ .elem → x.units[j]? = some u →
    (u.st = .waiting → exec (.homeAccess id j) s = .next (if s.mayIssue x then s.issueUnit x j u false else s)) ∧
    (u.st = .issued → exec (.homeAccess id j) s = .next
      (if x.mayPerform && s.turnCome x u && (x.loc || s.homeReady u.pa) then s.performUnit x j u else s)))) ∧
  (∀ (s : State) (id j : Nat) (x : Access) (u : AUnit), s.acc? id = some x → x.units[j]? = some u →
  (x.kind = .read → u.st = .held → s.mustHold x u = false → exec (.heldReadRelease id j) s = .next (s.tryPerform x j u)) ∧
  (x.kind = .read → u.st = .held → s.mustHold x u = true → exec (.heldReadRelease id j) s = .next s) ∧
  (j = 0 → x.kind = .mwait → u.st = .held → (∀ b ∈ s.ownBytes x u, b = none) → exec (.mwaitEvaluate id) s = .next (s.tryPerform x 0 u)) ∧
  (j = 0 → x.kind = .ring → u.st = .held → exec (.ringWaitResume id) s = .next (s.tryPerform x 0 u)) ∧
  (∀ t, u.st = .retry t → s.cycle < t → exec (.sliceRetry id j) s = .next s) ∧
  (∀ t, u.st = .retry t → t ≤ s.cycle → x.kind = .write → exec (.sliceRetry id j) s = .next ((s.claimUnit x j u).settleIssue x.id)) ∧
  (u.st = .walking → exec (.walkComplete id j) s = .next (s.issueUnit x j u true))) ∧
  (∀ (s : State) (w id j : Nat),
  ((∃ c ∈ s.claims, c.word = w) → exec (.claimResolve w) s = .next s) ∧
  ((∀ c ∈ s.claims, c.word ≠ w) → (∀ x ∈ s.accs, ∀ u ∈ x.units, u.st ≠ .held) → exec (.claimResolve w) s = .next s) ∧
  (s.logHeldAt id j = false → exec (.logHeldWrite id j) s = .next s) ∧
  (s.unitTrapped id j = true → exec (.logHeldWrite id j) s = .next s) ∧
  (∀ x u l r, (∀ c ∈ s.claims, c.word ≠ w) → s.accs = l ++ x :: r → (∀ y ∈ l ++ r, y.id ≠ x.id ∧ ∀ u ∈ y.units, u.st ≠ .held) →
    x.kind = .write → x.loc = false → x.units = [u] → u.st = .held → u.pa / 8 = w →
    exec (.claimResolve w) s = .next ((s.claimUnit x 0 u).settleIssue x.id)) ∧
  (∀ x u, s.acc? id = some x → x.units[j]? = some u → u.st = .logHeld → s.writeTrapped x u.pa = false →
    let t := (s.setUnit id j fun u => { u with st := .issued }).tryPerform (x.withUnit j .issued) j (u.withSt .issued)
    let ln := (s.srcOf x.agent).lognum
    let waits := t.accs.any fun y => decide ((t.srcOf y.agent).lognum = ln) && y.units.any fun u => u.st == .logHeld
    exec (.logHeldWrite id j) s = .next
      (if t.logHeldAt id j = true then t else if waits = true then t else t.openLogGate ln)))

/-- R66, R70, R76, R107, R309, R316, R321, R398: the steps of an access that stands alone at a ready home of its own die, outside a logged
context: a read, a held read whose word is full, and one that goes on after a full table returned it are answered with the bytes at
home; a committed store and one that was held for log room write exactly theirs, and the presence bits of the words that they
fill; an MWAIT is answered once the value satisfies it, and else stays as it is; a walk leaves the leaf's address and
attributes with its part; on an ONCE page a store whose word is free claims it, after 64 cycles or once the claim before it has
been resolved; a local RPUT or RGET goes on, in a cycle after its own, once its ring has room or data. One order of performing points is the model's choice
(log entry 12). -/
def Obligations.AccessesComplete : Prop :=
  (∀ (s : State) (x : Access) (u : AUnit) (w : Win) (sl : Slot), s.aloneAtHome x u → s.win x.agent = some w → w.slots[x.slot]? = some sl →
  let v := s.homeNat u
  let reads : Prop := x.kind = .read ∧ s.mustHold x u = false ∧ u.va = x.addr
  (u.st = .issued → reads → ∃ t, exec (.homeAccess x.id 0) s = .next t ∧ t.answered x (x.tokenOf v)) ∧
  (u.st = .held → reads → ∃ t, exec (.heldReadRelease x.id 0) s = .next t ∧ t.answered x (x.tokenOf v)) ∧
  (∀ n, u.st = .retry n → n ≤ s.cycle → reads → ∃ t, exec (.sliceRetry x.id 0) s = .next t ∧ t.answered x (x.tokenOf v)) ∧
  (u.st = .held → x.kind = .mwait → s.mustHold x u = false → x.satisfied v = true →
    ∃ t, exec (.mwaitEvaluate x.id) s = .next t ∧ t.answered x (x.tokenOf v)) ∧
  (u.st = .held → x.kind = .mwait → s.mustHold x u = false → x.satisfied v = false → exec (.mwaitEvaluate x.id) s = .next s)) ∧
  (∀ (s : State) (x : Access) (u : AUnit), s.aloneAtHome x u → x.kind = .write → x.committed = true →
  (∀ l ∈ linesOf u.pa u.size, s.ktag.get l 0 = u.attr.conf) →
  let fills := u.attr.kind = 1 ∨ (u.attr.kind = 2 ∧ x.op = 0x85 ∧ u.size = 8 ∧ u.pa % 8 = 0)
  let done (o : Host.Outcome State Fault Refusal) : Prop := ∃ t, o = .next t ∧ t.accs = [] ∧
    t.mem = memWrite s.mem u.pa (leBytes u.val u.size) ∧
    t.presence = (if fills then (wholeWords u.pa u.size).foldl setAdd s.presence else s.presence) ∧
    t.claims = (if u.attr.kind = 1 then s.claims.filter fun c => c.word != u.pa / 8 else s.claims)
  (u.st = .issued → done (exec (.homeAccess x.id 0) s)) ∧ (u.st = .logHeld → done (exec (.logHeldWrite x.id 0) s))) ∧
  (∀ (s : State) (x : Access) (u : AUnit), s.accs = [x] → x.units = [u] → x.loc = false → isDir x.op = false →
  (∀ pa attr, u.st = .walking → s.earlyBad x = none → (s.translate x.agent (accCode x.op) u.va true).1 = .hit pa attr → x.kind = .read →
    kindBad x { u with pa := pa, attr := attr } attr pa = none →
    (paPkg pa = s.pkgNum → ∀ l ∈ linesOf pa u.size, s.chanFailed (128 * l) = false) →
    ∃ t y v, exec (.walkComplete x.id 0) s = .next t ∧ t.accs = [y] ∧ y.units = [v] ∧ v.st = .issued ∧ v.pa = pa ∧ v.attr = attr) ∧
  (x.kind = .write → u.attr.kind = 1 → paPkg u.pa = s.pkgNum → (∀ c ∈ s.claims, c.word ≠ u.pa / 8) → u.pa / 8 ∉ s.presence →
    s.claimsAt (s.sliceOf (8 * (u.pa / 8))) < 512 → (∀ r, s.regions.find (s.regionOf x.agent) = some r → r.wps = []) →
    let done (o : Host.Outcome State Fault Refusal) : Prop := ∃ t, o = .next t ∧ t.accs = [x.withUnit 0 .issued] ∧
      t.claims = s.claims ++ [⟨u.pa / 8, x.agent, x.seq, x.id⟩]
    (∀ n, u.st = .retry n → n ≤ s.cycle → done (exec (.sliceRetry x.id 0) s)) ∧
    (u.st = .held → done (exec (.claimResolve (u.pa / 8)) s)))) ∧
  (∀ (s : State) (x : Access) (u : AUnit) (w : Win) (sl : Slot) (key n : Nat), s.logs = [] → s.accs = [x] → x.units = [u] →
  x.loc = true → x.kind = .ring → u.st = .held → s.win x.agent = some w → w.slots[x.slot]? = some sl →
  s.ringTile x = some (key, n) → ((s.cell key).tile n).poison = [] → x.born < s.cycle →
  let t := (s.cell key).tile n
  let sz := 2 ^ field t.desc 59 56
  let cnt := field t.desc 55 41 + 1
  let tail := (t.head + t.filled) % max 1 cnt
  (x.op = 0x95 → t.held + t.filled < cnt → ∃ v, exec (.ringWaitResume x.id) s = .next v ∧ v.answered x (wordTok tail) ∧
    (v.cell key).tile n = { t with filled := t.filled + 1, mem := memWrite t.mem (tail * sz) (leBytes x.data.toNat sz) }) ∧
  (x.op = 0x96 → t.filled ≠ 0 → ∃ v, exec (.ringWaitResume x.id) s = .next v ∧
    v.answered x (x.tokenOf (leNat ((List.range sz).map fun i => memGet t.mem (t.head * sz + i)))) ∧
    (v.cell key).tile n = { t with filled := t.filled - 1, held := t.held + 1, head := (t.head + 1) % max 1 cnt }))

/-- R67, R69, R71, R123: BANK_FILL completes in every state in which a fill of the line is due and its home, in this package, can be
reached: the line then has the home's bytes in every place that was not valid, and the fill has ended. RDC_FILL completes in every
state in which a copy in the remote-data cache waits for its line: the copy then has the line's bytes as they are now, but for those
that the die has stored since the request. A fill whose home has no route yet, or no ready channel, is due still. That a fill
brings the bytes of its own step is the model's choice (log entry 12). -/
def Obligations.FillsArrive : Prop :=
  (∀ (s : State) (c t n : Nat) (l : BankLine) (pa : Nat) (attr : Attr), ((s.cell c).tile t).lines.find n = some l →
    s.bankHome c t n = some (pa, attr) → l.filling = true → l.bad = none → paPkg pa = s.pkgNum →
    s.crossing (c / 256) (paDie pa) = none → s.homeReady pa = true →
    exec (.bankFill c t n) s = .next (s.fillBank c t n l pa attr.conf) ∧
    (s.fillBank c t n l pa attr.conf).mem = s.mem ∧
    ∃ l', (((s.fillBank c t n l pa attr.conf).cell c).tile t).lines.find n = some l' ∧ l'.filling = false ∧ l'.dirty = l.dirty ∧
      ∀ i, i < 128 → l'.valid.getLsbD i = true ∧ l'.byte i = if l.valid.getLsbD i then l.byte i else s.byteAs attr.conf (pa + i)) ∧
  (∀ (s : State) (c t n : Nat) (l : BankLine) (pa : Nat) (attr : Attr), ((s.cell c).tile t).lines.find n = some l →
    s.bankHome c t n = some (pa, attr) → l.filling = true → l.bad = none → paPkg pa = s.pkgNum →
    s.crossing (c / 256) (paDie pa) ≠ none ∨ s.homeReady pa = false → exec (.bankFill c t n) s = .next s) ∧
  (∀ (s : State) (d n : Nat) (r : RdcLine), (s.die d).rdc.find n = some r → r.filling = true →
    exec (.rdcFill d n) s = .next (s.fillCopy d n r) ∧
    (s.fillCopy d n r).mem = s.mem ∧
    ∃ r', ((s.fillCopy d n r).die d).rdc.find n = some r' ∧ r'.filling = false ∧ r'.gen = r.gen ∧
      ∀ i, i < 128 → (r'.data >>> (8 * i)).setWidth 8 =
        if r.laid.getLsbD i then (r.data >>> (8 * i)).setWidth 8 else memGet s.mem (n * 128 + i))

/-- R70, R131, R132: a write from outside any logged context, to a tile that no active log owns, performs at its home: memory takes its
bytes and keeps every other byte, when the lines hold the write's key already and no write held for log room stands before it. The canonical form is the model's (log entry 2). -/
def Obligations.HomeWrite : Prop := ∀ (s : State) (src : Src) (attr : Attr) (pres : Bool) (pa : Nat) (bs : List Byte),
  Memory.wf s.mem = true → s.logs = [] → src.lognum = 0 → s.logBlocked src pa bs.length = false → (∀ l ∈ linesOf pa bs.length, s.ktag.get l 0 = attr.conf) →
  ∃ t, s.homeWrite src attr pres pa bs = .done t ∧
    (∀ a, (a < pa ∨ pa + bs.length ≤ a) → memGet t.mem a = memGet s.mem a) ∧
    (∀ a, pa ≤ a → a < pa + bs.length → memGet t.mem a = (bs[a - pa]?).getD 0)

/-! ## Barriers, copies -/

/-- R356-R358, R360: COPY_START gives the first waiting copy of a queue a free engine; a descriptor that is refused fails it, a copy that
replay stands for goes to its end, any other runs with the first state of its generator. COPY_STAMP ends a copy whose stamp address is
not aligned, or of one that has none, and COPY_CHUNK leaves a copy alone that does not run. R127, R358, R360: a chunk of COPY, of at
most 4 KiB, whose source can be read and whose writes all perform leaves the copy that much further on, at its end with the
last byte; a stamp that performs ends it, with its result. When a descriptor is judged is the model's reading (log entry 53). -/
def Obligations.CopySteps : Prop := ∀ (s : State) (q : Nat) (c : Copy),
  (∀ e, (s.copyq q).copies.find? (fun c => c.st = 0) = some c → s.freeEngine (q / 16) = some e →
    let t := s.modCopy q c.num fun c => { c with eng := e }
    exec (.copyStart q) s = .next
      (if c.ghost then t.modCopy q c.num fun c => { c with st := 2 }
       else if badDescriptor c.words then t.failCopy q c.num 0
       else t.modCopy q c.num fun c => { c with st := 1, gen := copyGen (dSeq c.words) })) ∧
  (s.copy? q c.num = some c → c.st ≠ 1 → exec (.copyChunk q c.num) s = .next s) ∧
  (s.copy? q c.num = some c → c.st = 1 → c.stage = 0 → c.acc = none → dMode c.words ≠ 3 → ∀ t todo size gen, s.computeChunk q c [] = .ok t todo size gen →
    s.copyStage q c.num = t.modCopy q c.num fun c => { c with stage := 1, todo := todo, size := size, gen := gen }) ∧
  (s.copy? q c.num = some c → c.st = 1 → c.stage = 0 → (∀ d, (s.copyStage q c.num).copy? q c.num = some d → d.stage = 0) →
    exec (.copyChunk q c.num) s = .next (s.copyStage q c.num)) ∧
  (s.copy? q c.num = some c → c.st = 2 → c.ghost = true ∨ (pw c.words 3).toNat % 8 ≠ 0 ∨ (pw c.words 3 = 0 ∧ c.stage = 0) →
    exec (.copyStamp q c.num) s = .next (s.endCopy q c.num)) ∧
  (s.copy? q c.num = some c → c.st ≠ 2 → exec (.copyStamp q c.num) s = .next s) ∧
  (s.copy? q c.num = some c → c.acc = none → c.held = 0 →
    let w := c.words
    let n := min 4096 (dTotal w - c.pos)
    let todo (bs : List Byte) : List (Nat × Nat × Nat) := writesOf ((pw w 1).toNat + c.pos) bs
    (∀ t bs u, c.st = 1 → c.stage = 0 → dMode w = 0 → pw w 7 = 0 →
      s.readBytes (copyVia q c accCopyRd) [] (wordParts (((pw w 0).toNat + c.pos) % 2 ^ 64) n) = .ok t bs → t.copyqs = s.copyqs →
      (t.modCopy q c.num fun c => { c with stage := 1, todo := todo bs, size := n, gen := c.gen }).runWrites (copyVia q c accCopyWr)
        (todo bs) = ⟨u, [], [], none, none⟩ →
      exec (.copyChunk q c.num) s = .next
        ((u.modCopy q c.num fun c => { c with todo := [] }).modCopy q c.num fun c =>
          { c with pos := c.pos + c.size, due := c.due + c.size, stage := 0, st := if dTotal w ≤ c.pos + c.size then 2 else 1 })) ∧
    (∀ u, c.st = 2 → c.ghost = false → (pw w 3).toNat % 8 = 0 → pw w 3 ≠ 0 → c.stage = 0 → c.todo = [] →
      let x := [((pw w 3).toNat, 8, c.value.toNat)]
      (s.modCopy q c.num fun _ => { c with stage := 1, todo := x, acc := none }).runWrites (copyVia q c accCopyWr) x
        = ⟨u, [], [], none, none⟩ → u.copyqs = (s.modCopy q c.num fun _ => { c with stage := 1, todo := x, acc := none }).copyqs →
      ∃ t, exec (.copyStamp q c.num) s = .next t ∧ (∀ y ∈ (t.copyq q).copies, y.num = c.num → y.st = 3 ∧ y.result = c.value)))

/-! ## Launch, regions and scheduling -/

/-- R369, R370, R372-R374: a condition whose word cannot be read, or lies on an ONCE page, refuses its record with CONDFAULT, one whose
word has reached its value is held from then on, and the last one makes the record READY; a scheduler whose event queue is full decides nothing,
one that is due, in a cycle without a CANCEL, judges its levels from the highest; the package scheduler asks a die for its part of a gang when no die is being
asked, and forgets a request whose record is gone. R375, R377: the load of an admitted record: a refusal of phase 1 refuses it;
phase 1 of a splice leaves it LOADED; any other is activated in the same step, once its bank ranges are pinned. The cycle of a
decision and the order of dies are the model's reading (log entry 65), the splice's phase 1 that of log entry 62. -/
def Obligations.LaunchSteps : Prop :=
  (∀ s : State,
  (∀ id n r c a d, s.rec? id = some r → r.st = .waiting → n < rNcond r.words → r.held.contains n = false →
    let v := fetchVia (min 64 r.qdie) r.cfg accRead
    ((∀ pa attr, (s.elemLook v (rCva r.words n)).1 = .hit pa attr → attr.kind ≠ 1) → s.fetchBytes id v (rCva r.words n) 8 = .bad c a d →
      exec (.conditionSatisfied id n) s = .next
        (((s.recClose id).noteFetch id d).refuseRec id lsCondfault (regionKey r.homeDie 0) none)) ∧
    (∀ pa attr, (s.elemLook v (rCva r.words n)).1 = .hit pa attr → attr.kind = 1 → exec (.conditionSatisfied id n) s = .next
      (((s.recClose id).noteFetch id (memDetail accRead 2)).refuseRec id lsCondfault (regionKey r.homeDie 0) none))) ∧
  (∀ id n r t bs, s.rec? id = some r → r.st = .waiting → n < rNcond r.words → r.held.contains n = false →
    (∀ pa attr, (s.elemLook (fetchVia (min 64 r.qdie) r.cfg accRead) (rCva r.words n)).1 = .hit pa attr → attr.kind ≠ 1) →
    s.fetchBytes id (fetchVia (min 64 r.qdie) r.cfg accRead) (rCva r.words n) 8 = .ok t bs →
    let u := (t.recClose id).modRec id fun x =>
      { x with held := n :: r.held, st := if rNcond x.words ≤ (n :: r.held).length then .ready else .waiting }
    exec (.conditionSatisfied id n) s = .next
      (if (word (leNat bs)).toInt < rCval r.words n then t.recClose id else if r.qdie < 64 then u.advanceGen r.qdie else u)) ∧
  (∀ d, (s.regions.find? fun e => keyDie e.1 = d && e.2.victim && e.2.st == .gating && e.2.settled) = none →
    256 ≤ (s.die d).events.length → exec (.admissionDecision d) s = .next s) ∧
  (∀ d e, (s.regions.find? fun e => keyDie e.1 = d && e.2.victim && e.2.st == .gating && e.2.settled) = some e →
    exec (.admissionDecision d) s = .next (s.saveVictim e.1)) ∧
  (∀ d, d < 64 → (s.regions.find? fun e => keyDie e.1 = d && e.2.victim && e.2.st == .gating && e.2.settled) = none →
    (s.die d).lastDecision = 0 ∨ (s.die d).lastDecision + 63 ≤ s.cycle → (s.die d).events.length < 256 → (s.die d).evHeld = [] →
    (∀ e, d < e → e < 65 → (s.die e).lastDecision ≠ s.cycle + 1) → (s.die d).cancelAt ≠ s.cycle + 1 →
    exec (.admissionDecision d) s = .next ((s.beginDecision d).decideLevels d (List.range 64).reverse)) ∧
  (∀ d r, s.hostReady = true → (s.die d).request = none →
    (s.recs.find? fun r => r.qdie = 64 && r.st == .reserved && (rDies r.words)[r.granted.length]? = some d) = some r →
    (∀ e ∈ s.dies, e.2.request ≠ some r.id) → exec (.gangReservation d) s = .next (s.modDie d fun x => { x with request := some r.id })) ∧
  (∀ d id, s.hostReady = true → (s.die d).request = some id → s.rec? id = none →
    exec (.gangReservation d) s = .next (s.modDie d fun x => { x with request := none }))) ∧
  (∀ (s : State) (id : Nat) (r : LRec), s.rec? id = some r → r.st = .loading → r.qdie ≤ 64 →
  (r.fromSave = true → exec (.loadCommit id) s = .next (s.loadSaved r)) ∧
  (r.fromSave = false →
    let ph := s.phase1 r (match r.pred with | some k => [k + 2 ^ 23] | none => []) none
    (∀ t, ph = .wait t → exec (.loadCommit id) s = .next t) ∧
    (∀ t c a d, ph = .refuse t c a d → exec (.loadCommit id) s = .next (t.refuseLoad r c a d)) ∧
    (∀ t ks, ph = .ok t ks → r.pred.isSome = true → exec (.loadCommit id) s = .next (t.modRec id fun r => { r with st := .loaded })) ∧
    (∀ t ks ps, ph = .ok t ks → r.pred = none → t.pinGang ks = .ok ps → exec (.loadCommit id) s = .next (t.activate ks ps false))))

/-- R175, R378, R382: a region whose gang is not complete is not ended; a complete gang's banks are written back, its record's
add performs, its account is frozen, its cells are released and DONE is posted; one that has tokens and has not moved for STALL
times 1,024 cycles, neither frozen nor halted, takes the record of REGION_STALLED; at the end of an energy window the level
rises above ERATE and falls at half of it or less. R136, R171, R400: the save form of a gang is settled when no token is present
in any rectangle before its bound, and in full when the bound has passed; a waypoint is taken when no token is present in its
context, or in full when the bound has passed; a cell switches over when its region is not frozen, its inputs have delivered
their splice tokens, its outputs have room and its banks are written back. R145: a replay with a recorded choice that nothing claims
diverges instead of ending or stalling. R393, R394: a region that has taken a record notifies its handler's entry, or
rank 7, unless another region's record of the same cycle goes first; without a notification due the oldest one of a handler goes
to its origin cell. THROTTLE, notifications and the splice are read as log entries 66 and 67 say. -/
def Obligations.RegionLifecycle : Prop :=
  (∀ (s : State) (k : Nat) (r : Region), s.regions.find k = some r →
  ((∃ g ∈ s.gangOf k, s.complete g = false) → exec (.regionComplete k) s = .next s) ∧
  (∀ ln, (∀ g ∈ s.gangOf k, s.complete g = true) → s.unclaimed k = some ln → exec (.regionComplete k) s = .next (s.diverged ln)) ∧
  (∀ g0 x t, (∀ g ∈ s.gangOf k, s.complete g = true) → s.unclaimed k = none → (s.gangOf k).head? = some g0 → s.recOf k = some x →
    (s.gangOf k).any ((s.gangOf k).foldl State.writeBackRegion s).regionBackDue = false →
    ((s.gangOf k).foldl State.writeBackRegion s).doneAdd x (keyDie g0) = .done t →
    let u := (s.gangOf k).foldl State.endPhase t
    exec (.regionComplete k) s = .next ((u.endGang (s.gangOf k) .done).postFor g0 1 0 (u.lidOf g0))) ∧
  (exec (.regionStalled k) s = .next
    (if (r.st = .active ∨ r.st = .gating) ∧ r.mail = none ∧ r.dh = false ∧ s.tokensPresent k = true ∧ r.moved + r.stall * 1024 ≤ s.cycle
     then (match s.unclaimed k with | some ln => s.diverged ln | none => s.takeHeld k (s.stallRecord r k)) else s)) ∧
  ((r.st ≠ .active ∧ r.st ≠ .gating) ∨ s.cycle < r.windowAt + windowCycles → exec (.energyWindow k) s = .next s) ∧
  (r.st = .active ∨ r.st = .gating → r.windowAt + windowCycles ≤ s.cycle →
    let level := if r.erate * 10 ^ 9 < r.windowE then min 4 (r.level + 1)
      else if 2 * r.windowE ≤ r.erate * 10 ^ 9 then r.level - 1 else r.level
    let t := s.modRegion k fun r => { r with level := level, windowE := 0, windowAt := r.windowAt + windowCycles }
    exec (.energyWindow k) s = .next (if level = r.level then t else t.postFor k 5 0 (word level)))) ∧
  (∀ (s : State) (k : Nat),
  let ks := s.gangOf k
  let calm (x : Nat) : Bool := !s.tokensPresent x && optB (s.regions.find x) fun r => !r.full && !s.boundPassed r && !r.frozen && !r.dh
  let late (x : Nat) : Bool := optB (s.regions.find x) s.boundPassed
  (exec (.gatedQuiescence k) s = .next (if s.gating ks = true ∧ ks.all calm = true then s.settle ks false else s)) ∧
  (s.gating ks = true → exec (.qboundExpiry k) s = .next (if ks.all late then s.fullSave ks else s)) ∧
  (∀ l, s.log (s.logOf k) = some l → exec (.waypointQuiescence k) s = .next
    (if l.wayWait ≠ [] ∧ (l.regions.all fun x => !s.tokensPresent x && optB (s.regions.find x) fun r =>
        !r.full && !s.boundPassed r && !r.frozen && !r.dh) = true
     then s.doWaypoint (s.logOf k) false else s)) ∧
  (∀ cell c r k2 n, s.regions.find ((s.cell cell).cctx c).region = some r → r.succ = some k2 → s.cctxOn cell k2 = some n →
    let x := (s.cell cell).cctx c
    let b := s.clearBanks cell x.region
    exec (.spliceSwitchover cell c) s = .next
      (if r.frozen = true ∨ s.mayCross cell c x.region = false ∨ s.crossRoom cell c = false then s
       else if b.2 = true then b.1 else s.cross cell c n x.region k2))) ∧
  (∀ (s : State) (k : Nat) (r : Region), s.regions.find k = some r →
  (∀ f, r.mail = some f → r.notifyWait = true →
    exec (.handlerNotify k) s = .next (if s.notifyLater k r f then s else s.notifyHandler k r f)) ∧
  (r.mail = none ∨ r.notifyWait = false → exec (.handlerNotify k) s = .next (s.deliverNotice k)))

/-- R408: a cell in which nothing arrives or can issue for 16 cycles is clock-gated; a token that waits wakes it; a powered cell
of no region and no chart loses its power, its tiles' bytes and their tags. R440, R449, R450, R453: RESET keeps the image, the
almanac and the leaves already used, and leaves everything else at its value at reset, every die with its retirements; a
function that may report ready and passes is ready; a ready function that fails is ready no more; io0 takes the first ALMW once
its cycle is over, and appends it when it is in order. What RESET keeps is the model's choice (log entries 2 and 6); failures are
read as log entries 75 and 82 say. -/
def Obligations.PowerAndBringUp : Prop :=
  (∀ (s : State) (k : Nat),
  let c := s.cell k
  (c.gated = false → c.powered = true → c.lastBusy + 16 ≤ s.cycle → (∀ e ∈ c.inbox, ∀ y ∈ e.2, y.at0 + 16 ≤ s.cycle) →
    s.cellCanIssue k = false → exec (.cellClockGate k) s = .next (s.modCell k fun c => { c with gated := true })) ∧
  (c.gated = true → s.tokenWaits k = true → ∃ t, exec (.cellWake k) s = .next t ∧ (t.cell k).gated = false ∧ (t.cell k).lastBusy = s.cycle) ∧
  (c.powered = true → (∀ e ∈ s.regions, (e.2.st = .active ∨ e.2.st = .gating ∨ e.2.st = .loaded) → e.2.keys.contains k = false) →
    (∀ e ∈ c.cctxs, e.2.st = .free) → ∃ t, exec (.cellPowerGate k) s = .next t ∧ (t.cell k).powered = false ∧ (t.cell k).shapes = [] ∧
      (t.cell k).tasks = [] ∧ ∀ e ∈ (t.cell k).tiles, e.2.mem = [] ∧ e.2.tagged = false)) ∧
  (∀ s : State,
  (∃ t, exec .reset s = .next t ∧ t.image = s.image ∧ t.almanac = s.almanac ∧ t.leaf = s.leaf ∧ t.readyBits = [] ∧ t.regions = [] ∧
    t.cells = [] ∧ t.helms = [] ∧ t.accs = [] ∧ t.presence = [] ∧ t.keys = [] ∧ t.budget = 11000 ∧ t.entries = [] ∧
    ∀ d, d < 64 → t.die d = almDie s.almanac d) ∧
  (∀ n, n < 2276 → s.canReady n = true → exec (.functionReady n true) s = .next { s with readyBits := setAdd s.readyBits n }) ∧
  (∀ n, s.canReady n = true → exec (.functionReady n false) s = .next (s.retireFn n)) ∧
  (∀ n ok, s.canReady n = false → exec (.functionReady n ok) s = .next s) ∧
  (∀ n, s.readyBits.contains n = true → ∃ t, exec (.functionFailure n) s = .next t ∧ t.readyBits = setDel s.readyBits n ∧
    t.failedBits = setAdd s.failedBits n) ∧
  (∀ n, s.readyBits.contains n = false → exec (.functionFailure n) s = .next s) ∧
  (∀ a n w0 w1, s.firstAlmw = some (a, n, w0, w1) → n / 128 < s.cycle → ∃ t, exec .almwDurable s = .next t ∧
    t.almPend = s.almPend.filter (· != (a, n, w0, w1)) ∧
    t.almanac = if s.almReason w0 = none then s.almanac ++ [(w0, w1)] else s.almanac))

/-! ## Host, pod and debug -/

/-- R16, R425, R429, R431-R433: with the host port ready and its ring's home reached from the I/O die, a frame that breaks its table is answered with NAK FORMAT; a message frame goes into
the ring, SNDREQ starts a SOUNDING, a debug frame is served in its session; an interrupt leaves as one frame with the next ISEQ.
Which frames are NAKed and counted is the model's reading (log entry 80). -/
def Obligations.HostFrames : Prop := ∀ (s : State) (bs : List Byte), s.agentReady = true →
  (frameOk bs = false → exec (.hostMsgFrame bs) s = .next (s.nak 3) ∧ exec (.sndreq bs) s = .next (s.nak 3) ∧
    exec (.dbgFrame bs) s = .next (s.nak 3)) ∧
  (frameOk bs = true → frameKind bs = 1 → exec (.hostMsgFrame bs) s = .next (s.takeMsg bs)) ∧
  (frameOk bs = true → frameKind bs = 5 → exec (.sndreq bs) s = .next s.startSounding) ∧
  (frameOk bs = true → frameKind bs = 7 →
    let n := fieldN (byteWord bs 0) 3 0
    let fs := fieldN (byteWord bs 1) 31 0
    let x := s.session n
    (x.frames = [] → x.fseq ≠ fs → exec (.dbgFrame bs) s = .next
      (State.dbgServe n 2 (s.modSession n fun x => { x with frames := x.frames ++ [(fs, dbgPairs bs)] }))) ∧
    (x.frames = [] → x.fseq = fs → x.open0 = false → x.rsp ≠ [] →
      exec (.dbgFrame bs) s = .next { s with host := { s.host with sent := s.host.sent ++ [x.rsp] } })) ∧
  (∀ n, (s.session n).open0 = true → (s.session n).busy = false →
    exec (.dbgWaitOp n) s = .next (State.dbgServe n ((s.session n).frames.length + 2) s)) ∧
  (s.host.irqs = [] → exec .irqFrame s = .next s) ∧
  (∀ ws r, s.host.irqs = ws :: r → s.logs = [] →
    let n := (s.host.iseq + 1) % 2 ^ 32
    exec .irqFrame s = .next (({ s with host := { s.host with irqs := r, iseq := n } } : State).sendFrame 4 0
      (wordBytes ((ws.map (·.toNat)) ++ [n]))))

/-- R429, R430, R438, R444: the message that the command program takes next, when it is of the kind of the step and keeps to its table: a
launch is captured and answered with its id, a copy joins its queue and is answered with its batch, WAITB waits for the copies it covers,
WRITE and READ act on physical memory, KEYLOAD, KEYREL, PODCFG and ATTEST answer as their sections say. A message with a reserved bit set is
REFUSED with reason 1. Which bits a message is judged by is the model's reading (log entry 81). -/
def Obligations.HostMessages : Prop := ∀ (s : State) (w : List Word), s.message = some w →
  let kind := field (pw w 0) 63 56
  let ok := field (pw w 0) 55 32 = 0
  let q := field (pw w 1) 5 0
  let refused (n : Nat) : State := s.reply w 4 n []
  let via := s.cfgFor (.helm cmdCore)
  (kind = 1 → ok → rOwn (w.drop 2) = true → ∀ t id, s.capture via 0 ((w.drop 2).take 16) = some (t, id) →
    exec .msgLaunch s = .next (t.reply w 0 0 (leBytes id 8))) ∧
  (kind = 1 → ok → rOwn (w.drop 2) = false → exec .msgLaunch s = .next (refused 1)) ∧
  (kind = 2 → ok → field (pw w 1) 63 6 = 0 → (s.copyq q).open < 256 → exec .msgCopy s = .next
    ((s.addCopy q via 0 false (.ok ((w.drop 2).take 8))).reply w 0 0 (leBytes ((s.copyq q).batch % 2 ^ 32) 8))) ∧
  (kind = 2 → ok → field (pw w 1) 63 6 = 0 → 256 ≤ (s.copyq q).open → exec .msgCopy s = .next s) ∧
  (kind = 3 → ok → field (pw w 1) 63 6 = 0 → (s.copyq q).copies = [] → exec .msgWaitb s = .next (s.reply w 0 0 (leBytes 0 8))) ∧
  (kind = 4 → ok → badLen w = false → exec .msgWrite s = .next
    (s.msgWrite (pw w 1).toNat (((w.drop 4).flatMap fun x => leBytes x.toNat 8).take (pw w 2).toNat)
      (fun t c => t.reply w 5 c []) fun t => t.reply w 0 0 [])) ∧
  (kind = 5 → ok → badLen w = false → exec .msgRead s = .next
    (s.msgRead (pw w 1).toNat (pw w 2).toNat (fun t c => t.reply w 5 c []) fun t bs => t.reply w 0 0 bs)) ∧
  (kind = 6 → ok → 1 ≤ (pw w 1).toNat → (pw w 1).toNat ≤ 255 → (s.keys.find (pw w 1).toNat).isSome = true →
    exec .keyload s = .next (refused 0x10)) ∧
  (kind = 6 → ok → 1 ≤ (pw w 1).toNat → (pw w 1).toNat ≤ 255 → s.keys.find (pw w 1).toNat = none → exec .keyload s = .next
    (s.msgRead (pw w 3).toNat 1712 (fun t _ => t.reply w 4 0x12 []) fun t bs =>
      match Config.openBlob t.ekey bs (wordBytes [(pw w 1).toNat, (pw w 2).toNat, t.pkgNum]) with
      | some k => ({ t with keys := t.keys.put (pw w 1).toNat (keyEntry (pw w 2) k) } : State).reply w 0 0 []
      | none => t.reply w 4 0x11 [])) ∧
  (kind = 7 → ok → 1 ≤ (pw w 1).toNat → (pw w 1).toNat ≤ 255 → exec .keyrel s = .next
    (if s.keyUsed (pw w 1).toNat then refused 0x13 else ({ s with keys := s.keys.drop (pw w 1).toNat } : State).reply w 0 0 [])) ∧
  (kind = 8 → ok → exec .podcfg s = .next (s.msgRead (pw w 1).toNat 2048 (fun t c => t.reply w 5 c []) fun t bs =>
    let mask (q : Nat) : Nat := if q = t.pkgNum then (t.podTable[q]?).getD 0 else leNat ((bs.drop (4 * q)).take 4)
    let u : State := { t.reply w 0 0 [] with podTable := (List.range 512).map mask, planesOut := [] }
    { u with accs := u.accs.map fun x => { x with units := x.units.map fun v => if v.st.held32 then u.onPod v else v } })) ∧
  (kind = 9 → ok → ∀ n, s.attestReason (((w.drop 2).take 8).flatMap fun x => leBytes x.toNat 8) = some n →
    exec .msgAttest s = .next (refused n)) ∧
  (kind = 9 → ok → s.attestReason (((w.drop 2).take 8).flatMap fun x => leBytes x.toNat 8) = none → s.host.msgAcc = none →
    let r := s.reportBytes (((w.drop 2).take 8).flatMap fun x => leBytes x.toNat 8)
    exec .msgAttest s = .next (r.1.msgWrite (pw w 1).toNat r.2 (fun t c => t.reply w 5 c []) fun t => t.reply w 0 0 [])) ∧
  (kind = 6 → ¬ ok → exec .keyload s = .next (refused 1)) ∧ (kind = 9 → ¬ ok → exec .msgAttest s = .next (refused 1))

/-- R139, R437: a pod access to another package's address, or to a home that is not ready, is not this package's; one that performs is
acknowledged with its value, one that fails with its class. An acknowledgement that no part waits for changes nothing. A plane no part
waits on past its time stays. A command of PKG.ULCMD that names no active log is refused. The packing of an access's kind and the
acknowledgement of a failure are the model's (log entries 84 and 85); a refused log number is read as log entry 73 says. -/
def Obligations.PodAndService : Prop := ∀ s : State,
  (∀ kind pa size data, paPkg pa ≠ s.pkgNum → exec (.podAccessReceive kind pa size data) s = .next s) ∧
  (∀ kind pa size data c, paPkg pa = s.pkgNum → pa < 2 ^ 52 → size ≠ 0 → s.physCheck pa = some c →
    exec (.podAccessReceive kind pa size data) s = .next { s with podAcks := s.podAcks ++ [⟨kind, pa, c, fcNotMapped⟩] }) ∧
  (∀ kind pa size data, paPkg pa = s.pkgNum → pa < 2 ^ 52 → size ≠ 0 → s.physCheck pa = none → s.homeReady pa = true →
    (∀ t v, s.podPerform (s.podAccess kind pa size data) kind pa size = .done t v →
      exec (.podAccessReceive kind pa size data) s = .next { t with podAcks := t.podAcks ++ [⟨kind, pa, v, 0⟩] }) ∧
    (∀ c m, s.podPerform (s.podAccess kind pa size data) kind pa size = .fail c m →
      exec (.podAccessReceive kind pa size data) s = .next { s with podAcks := s.podAcks ++ [⟨kind, pa, m, c⟩] })) ∧
  (∀ id j data, s.acc? id = none → exec (.podAck id j data) s = .next s) ∧
  (∀ id j data x u p c, s.acc? id = some x → x.units[j]? = some u → u.st = .pod p c →
    data / 2 ^ (8 * u.size) % 256 = 0 → exec (.podAck id j data) s = .next (s.ackUnit x j u (data % 2 ^ (8 * u.size)))) ∧
  (∀ p, (∀ x ∈ s.accs, ∀ u ∈ x.units, u.late p s.cycle = false) → exec (.planeTimeout p) s = .next s) ∧
  (∀ p, p < 32 → (∃ x ∈ s.accs, ∃ u ∈ x.units, u.late p s.cycle = true) → ∃ t, exec (.planeTimeout p) s = .next t ∧
    t.planesOut = setAdd s.planesOut p ∧ t.lastPlane = p) ∧
  (∀ w, s.ulcmdIs w 1 = true → s.extendLog (field w 63 56) (field w 37 32) = none → exec (.ulcmdExtend w) s = .next (s.ulcmdEnd false)) ∧
  (∀ w t, s.ulcmdIs w 1 = true → s.extendLog (field w 63 56) (field w 37 32) = some t → exec (.ulcmdExtend w) s = .next ((t.openLogGate (field w 63 56)).ulcmdEnd true)) ∧
  (∀ w, s.ulcmdIs w 2 = true → s.log (field w 63 56) = none → exec (.ulcmdDiscard w) s = .next (s.ulcmdEnd false)) ∧
  (∀ w l, s.ulcmdIs w 2 = true → s.log (field w 63 56) = some l → exec (.ulcmdDiscard w) s = .next
    (if l.newest < field w 31 0 then s.ulcmdEnd false else if field w 31 0 ≤ l.oldest then s.ulcmdEnd true
     else ((s.discardTo (field w 63 56) (field w 31 0)).openLogGate (field w 63 56)).ulcmdEnd true))

/-! ## Debug and trace -/

/-- R410-R412, R419: a command of a session acts on the region that BSEL named when COMMAND was written; with none it ends with
CMDERR 5, a sealed one gives 7 with SEALED. ACCREG reads the register into DATA0 or writes it, and refuses one that the table does
not give; ACCMEM performs at the home of its address; both need a halted region. A write of a register of the session that is not BUSY
stores it, a command that is in order makes it BUSY; a write of ABSTRACTCS clears the bits of CMDERR it names. The order of
refusals and their codes are the model's reading (log entries 87 and 88). -/
def Obligations.DebugAccess : Prop := ∀ (s : State) (n : Nat),
  let x := s.session n
  let type := field x.command 63 56
  let done (t : State) : State := t.cmdEnd n 0 0 none
  (x.busy = true → s.selRegion x.sel = none →
    (type = 0x00 → exec (.accreg n) s = .next (s.cmdEnd n 5 0 none)) ∧ (type = 0x02 → exec (.accmem n) s = .next (s.cmdEnd n 5 0 none))) ∧
  (x.busy = true → ∀ k r, s.selRegion x.sel = some (k, r) → r.sealedTo n = true →
    (type = 0x00 → exec (.accreg n) s = .next (s.cmdEnd n 7 rsSealed none)) ∧
    (type = 0x02 → exec (.accmem n) s = .next (s.cmdEnd n 7 rsSealed none))) ∧
  (x.busy = true → ∀ k r, s.selRegion x.sel = some (k, r) → r.sealedTo n = false → s.haltedFor k = false →
    (type = 0x00 → exec (.accreg n) s = .next (s.cmdEnd n 4 rsNotHalted none)) ∧
    (type = 0x02 → exec (.accmem n) s = .next (s.cmdEnd n 4 rsNotHalted none))) ∧
  (x.busy = true → ∀ k r p, s.selRegion x.sel = some (k, r) → r.sealedTo n = false → s.haltedFor k = true → s.spotOf k r x.sel = some p →
    type = 0x00 →
    let space := field x.command 23 19
    let i := field x.command 18 0
    (flag x.command 55 = true → ∀ t v, s.regWrite k r (some p) space i (x.datum 0) x.lastOp = some (.done t v) →
      exec (.accreg n) s = .next (done (t.touched k))) ∧
    (flag x.command 55 = true → s.regWrite k r (some p) space i (x.datum 0) x.lastOp = none →
      exec (.accreg n) s = .next (s.cmdEnd n 3 0 none)) ∧
    (flag x.command 55 = false → space ≠ 1 → space ≠ 3 → space ≠ 7 → ∀ v, s.regRead k r (some p) space i = some v →
      exec (.accreg n) s = .next (done (s.modSession n fun y => { y.putData0 v with lastOp := x.lastOp }))) ∧
    (flag x.command 55 = false → s.regRead k r (some p) space i = none → exec (.accreg n) s = .next (s.cmdEnd n 3 0 none))) ∧
  (x.busy = true → ∀ k r pa attr, s.selRegion x.sel = some (k, r) → r.sealedTo n = false → s.haltedFor k = true → type = 0x02 →
    x.acc = none → field (x.datum 1) 2 0 = 0 →
    let wr := flag x.command 55
    s.lookBare { r.cfgOf with phys := flag x.command 54 } (if wr then accWrite else accRead) (x.datum 1).toNat = .hit pa attr →
    s.homeReady pa = true →
    (wr = true → flag x.command 53 = false → ∀ t v, s.binWrite (keyDie k) attr pa (x.datum 0) = .done t v →
      exec (.accmem n) s = .next (done ((t.modSession n fun y => y).touched k))) ∧
    (wr = false → flag x.command 53 = false → ∀ t v, s.binRead (keyDie k) attr pa = .done t v →
      exec (.accmem n) s = .next (done (t.modSession n fun y => y.putData0 (word v))))) ∧
  (n < 16 →
    (∀ v, exec (.debugRegisterWrite n 0 v) s = .next (s.putBsel n v)) ∧
    (∀ i v, i < 4 → exec (.debugRegisterWrite n (i + 1) v) s = .next
      (s.modSession n fun y => if y.busy then { y with cmderr := 1 } else { y with data := y.data.set i v })) ∧
    (∀ v, x.busy = false → x.cmderr = 0 → cmdTypes.contains (field v 63 56) = true →
      field v 55 0 ||| ctlBits (field v 63 56) = ctlBits (field v 63 56) → exec (.debugRegisterWrite n 5 v) s = .next
        (s.modSession n fun y => { y with command := v, sel := y.bsel, busy := true, phase := 0, acc := none })) ∧
    (∀ v, x.cmderr < 8 → ∃ t, exec (.cmderrClear n v) s = .next t ∧ (t.session n).cmderr < 8 ∧
      (∀ i, i < 3 → (t.session n).cmderr.testBit i = (x.cmderr.testBit i && !v.getLsbD (8 + i))) ∧
      (t.session n).data = x.data ∧ (t.session n).bsel = x.bsel ∧ (t.session n).busy = x.busy))

/-- R141-R143, R174, R413-R415, R423, R424: HALTR sets the debug halt of the whole gang and stays BUSY until nothing has moved
in it for a cycle; FWD clears it; FSTEP arms a stop k firings on and runs; BACK rewinds the context to a retained waypoint;
BSTEP rewinds to the newest waypoint at or before its target, runs to the stop, and ends there; UNSEAL opens the region to the
session whose token's digest is the key's, and counts a miss else; SEAL closes it; STATR puts the status word into DATA0. R424:
an UNSEAL whose token has the digest of the region's key, before eight misses, opens every rectangle of the gang to the session;
any other counts a miss there and ends with CMDERR 7 and SEALED. When FSTEP, BSTEP and HALTR end is the model's reading (log
entries 90 and 92), UNSEAL with no key that of log entry 91. -/
def Obligations.DebugRun : Prop :=
  (∀ (s : State) (n k : Nat) (r : Region),
  let x := s.session n
  let type := field x.command 63 56
  let m := field (x.datum 0) 31 0
  let done (t : State) : State := t.cmdEnd n 0 0 none
  let ln := s.logOf k
  x.busy = true → s.selRegion x.sel = some (k, r) → r.sealedTo n = false →
  (type = 0x10 → x.phase = 0 → r.st ≠ .saved → r.dh = false → exec (.haltr n) s = .next
    ((s.haltGang k { kind := 1, num := 0, x := 0, y := 0, task := 0, fnum := 0, rk := k }).modSession n fun x => { x with phase := 1 })) ∧
  (type = 0x10 → x.phase = 1 → (∀ g ∈ s.gangOf k, ∀ q, s.regions.find g = some q → q.moved + 2 ≤ s.cycle) →
    exec (.haltrQuiescent n) s = .next (done (s.logPointers ln))) ∧
  (type = 0x11 → s.haltedFor k = true → exec (.fwd n) s = .next (done (s.runGang k))) ∧
  (type = 0x12 → m ≠ 0 → s.haltedFor k = true → ∀ g p f, s.stepTask k r x.sel = some (g, p, f) →
    exec (.fstep n) s = .next (done ((s.modTask p.agent fun t => { t with stopAt := some (f + m) }).runGang k))) ∧
  (type = 0x11 ∨ type = 0x12 ∧ m ≠ 0 ∨ type = 0x20 ∨ type = 0x21 ∧ x.phase = 0 → s.haltedFor k = false →
    let o := s.cmdEnd n 4 rsNotHalted none
    (type = 0x11 → exec (.fwd n) s = .next o) ∧ (type = 0x12 → exec (.fstep n) s = .next o) ∧
    (type = 0x20 → exec (.back n) s = .next o) ∧ (type = 0x21 → exec (.bstep n) s = .next o)) ∧
  (type = 0x20 → s.haltedFor k = true → s.backBad k m = none → ∀ l, s.log ln = some l → s.writesOut l = false →
    exec (.back n) s = .next (done (s.backTo ln m))) ∧
  (type = 0x20 → s.haltedFor k = true → ∀ e d, s.backBad k m = some (e, d) → exec (.back n) s = .next (s.cmdEnd n 7 e d)) ∧
  (type = 0x21 → x.phase = 0 → s.haltedFor k = true → ∀ l g p f q wp, s.log ln = some l → s.stepTask k r x.sel = some (g, p, f) →
    m ≠ 0 → m ≤ f → s.regions.find g = some q →
    s.stepWay ln l g (p.key % 16 - q.col0) (((s.die (p.key / 256)).logRow (p.key % 256 / 16)).getD 0 - q.row0) p.task (f - m) = some wp →
    s.backBad k wp = none → s.writesOut l = false →
    exec (.bstep n) s = .next
      (((((s.backTo ln wp).modTask p.agent fun t => { t with stopAt := some (f - m), skip := none }).modLog ln fun l =>
        { l with target := some (p.agent, f - m) }).runGang k).modSession n fun x => { x with phase := 1 })) ∧
  (type = 0x21 → x.phase = 1 → optB (s.log ln) (·.diverged) = false → s.haltedFor k = true → exec (.bstep n) s = .next (done s)) ∧
  (type = 0x30 → r.cfg.keyid = 0 → exec (.unseal n) s = .next (done s)) ∧
  (type = 0x31 → exec (.seal n) s = .next (done (s.sealTo k n))) ∧
  (type = 0x40 → exec (.statr n) s = .next (done (s.modSession n fun x => x.putData0 (s.statusOf k n r))))) ∧
  (∀ (s : State) (n k : Nat) (r : Region),
  let x := s.session n
  let digest := Config.shake256 ((List.range 4).flatMap fun i => leBytes (x.datum i).toNat 8) % 2 ^ 256
  let all (f : Region → Region) : State := (s.gangOf k).foldl (fun s g => s.modRegion g f) s
  x.busy = true → field x.command 63 56 = 0x30 → s.selRegion x.sel = some (k, r) → r.cfg.keyid ≠ 0 →
  (∀ e, s.keys.find r.cfg.keyid = some e → e.digest.toNat = digest → r.misses < 8 →
    exec (.unseal n) s = .next ((all fun r => { r with unsealed := setAdd r.unsealed n }).cmdEnd n 0 0 none)) ∧
  ((8 ≤ r.misses ∨ s.keys.find r.cfg.keyid = none ∨ ∃ e, s.keys.find r.cfg.keyid = some e ∧ e.digest.toNat ≠ digest) →
    exec (.unseal n) s = .next ((all fun r => { r with misses := r.misses + 1 }).cmdEnd n 7 rsSealed none)))

/-- R420, R421: at the end of a window of 1,024 cycles the counts of killed lanes and of elided rows that are not zero are written where
their bits of the control register ask for them, and start again from zero; every 2^SPER cycles one record of each task of the region
is written, and a second TRACE_SAMPLE of the same cycle changes nothing. One sample for each bound task is the model's reading
(log entry 92). -/
def Obligations.TraceRecords : Prop := ∀ (s : State) (k : Nat) (r : Region), s.regions.find k = some r →
  let t := s.modRegion k fun r => { r with trace := { r.trace with kills := [], elided := 0 } }
  let gs := (List.range 8).filter fun g => r.trace.kills.getD g 0 ≠ 0
  (s.cycle % 1024 ≠ 0 → exec (.traceWindow k) s = .next s) ∧
  (s.cycle % 1024 = 0 → flag r.trace.ctl 60 = false → flag r.trace.ctl 59 = false → exec (.traceWindow k) s = .next t) ∧
  (s.cycle % 1024 = 0 → flag r.trace.ctl 60 = true → gs ≠ [] → flag r.trace.ctl 59 = false → exec (.traceWindow k) s = .next
    (t.traceRec k 0x30 (BitVec.ofNat 8 (bitSet gs) :: gs.flatMap fun g => varint (r.trace.kills.getD g 0)))) ∧
  (s.cycle % 1024 = 0 → flag r.trace.ctl 60 = false → flag r.trace.ctl 59 = true → r.trace.elided ≠ 0 → exec (.traceWindow k) s = .next
    (t.traceRec k 0x40 (varint r.trace.elided))) ∧
  (field r.trace.ctl 57 53 = 0 ∨ s.cycle % 2 ^ field r.trace.ctl 57 53 ≠ 0 ∨ r.trace.sampled = some s.cycle →
    exec (.traceSample k) s = .next s) ∧
  (field r.trace.ctl 57 53 ≠ 0 → s.cycle % 2 ^ field r.trace.ctl 57 53 = 0 → r.trace.sampled ≠ some s.cycle →
    let u := s.modRegion k fun r => { r with trace := { r.trace with sampled := some s.cycle } }
    let agents := (r.cells.flatMap fun (c : Nat × Nat) => (List.range 8).map fun t => Agent.task c.1 c.2 t).filter fun a =>
      (u.task a).st != .unbound && u.regionOf a == k
    exec (.traceSample k) s = .next (agents.foldl (fun s a => s.traceRec k (0x50 + (s.sampleOf a).1)
      (varint (s.posOf a) ++ varint (match (s.sampleOf a).2 with | some i => (s.nodeInfo a i).1 | none => 0xFFFFFFFF))) u))

/-! ## Reset and the step -/

/-- R72, R87, R376, R379, R381, R435, R438, R449, R451: right after reset no function has reported ready, no region, launch record, access,
claim, barrier or log exists, no word is present, every directory entry reads as none, BUDGET is 11,000, no key is loaded and every
other package is absent. That a byte nothing has written reads 0, and the values of the blank image, are the model's choices (log
entries 2 and 6). -/
def Obligations.ResetState : Prop :=
  let s := State.reset
  Memory.wf s.mem = true ∧ (∀ a, memGet s.mem a = 0) ∧ s.readyBits = [] ∧ s.regions = [] ∧ s.recs = [] ∧ s.accs = [] ∧ s.claims = [] ∧
  s.barriers = [] ∧ s.logs = [] ∧ s.presence = [] ∧ (∀ n, s.dirEntry n = 0xFE00000000000000) ∧ s.budget = 11000 ∧ s.committed = 0 ∧
  s.keys = [] ∧ (∀ q : Nat, (s.podTable[q]?).getD 0 = 0) ∧ (∀ a, (s.task a).st = .unbound) ∧ (∀ d, (s.die d).events = []) ∧
  (∀ d, (s.die d).nextRid = 1) ∧ (∀ n, (s.helm n).ready = false) ∧ s.hostReady = false

/-- The model's step: with an instruction's issue next on the agenda, an agent whose engine picks a slot that decodes to an
instruction runs exactly that instruction's meaning, for that agent and slot, at the state in which the issue is counted; a tick
is the passing of a cycle; an event of the hardware runs its meaning; with an empty agenda the free value says what happens (log
entry 1). R1, R162, R374, R384: a tick ends a cycle: the cycle count rises by one, every engine's issue slots and units are
free, a budget written in the cycle takes effect, the time counter of a throttled region that is ACTIVE or GATING, and whose account is open, rises, and memory, presence and every
task context are as before. -/
def Obligations.StepRunsDecoded : Prop :=
  (∀ (s : State) (r : List Happening),
  (∀ a c e w i, s.agenda = .issue a :: r →
    let t : State := { s with agenda := r }
    t.pickIssue a = some (c, e) → t.preciseStop c = none → t.win c.agent = some w →
    decodeWord (slotWord (t.blockStore c.agent) w.baddr c.slot).toNat = .ok i →
    step s = exec i { (t.setEngSt a e).modTask c.agent fun t => { t with skip := none } with here := { agent := c.agent, slot := c.slot } }) ∧
  (∀ a, s.agenda = .issue a :: r → ({ s with agenda := r } : State).pickIssue a = none → step s = .next { s with agenda := r }) ∧
  (s.agenda = .tick :: r → step s = .next ({ s with agenda := r } : State).clock) ∧
  (∀ i, s.agenda = .event i :: r → isEvent i = true → step s = exec i { s with agenda := r }) ∧
  (s.agenda = [] → step s = happen (Config.freeHappening s.free) { s with free := s.free + 1 })) ∧
  (∀ s : State,
  let t := s.tick
  t.cycle = s.cycle + 1 ∧ t.budget = s.budgetDue.getD s.budget ∧ t.budgetDue = none ∧ t.mem = s.mem ∧ t.presence = s.presence ∧
  (∀ a, t.task a = s.task a ∧ (t.engSt a).inCycle = 0 ∧ (t.engSt a).units = []) ∧
  (∀ k r, s.regions.find k = some r → ∃ r', t.regions.find k = some r' ∧
    r'.cur = if r.level ≠ 0 ∧ r.closedAt = none ∧ (r.st = .active ∨ r.st = .gating) then listModify r.cur 7 (· + 1) else r.cur))

/-! ## Encoding -/

/-- R213-R222, R230, R471: words written out from the encoding tables decode to the instructions they stand for, and words with a
reserved value, an immediate out of range or a free opcode are rejected with the reason the checker gives. -/
def Obligations.DecodedWords : Prop :=
  decodeWord 0x2A10000000070418 = .ok (.addi ⟨.always, .i32, .scalar, 7, .low, .sreg 6⟩) ∧
  decodeWord 0x010000000020020C = .ok (.mov ⟨.always, .i8, .scalar, .rne, false, 0, 0, 0, .sreg 0, .slot 3 .l⟩) ∧
  decodeWord 0xA000000000030000 = .ok (.br ⟨.always, 0, 0, 3, 0, .none⟩) ∧
  decodeWord 0x80100000C8004208 = .ok (.ld ⟨.always, .i32, .scalar, 0, 0, 0, .die, .acq, false, 8, .slot 2 .l⟩) ∧
  decodeWord 0x6400000000400000 = .ok (.mmzero ⟨.always, .i8, .scalar, 0, 0, 1, .none, .none⟩) ∧
  decodeWord 0xD114000000000000 = .ok (.csrw ⟨.always, 0x1400, 0, .none, .none⟩) ∧
  decodeWord 0xB320000000109000 = .ok (.semw ⟨.always, 0x2000, 0, .slot 4 .p, .none⟩) ∧
  decodeWord 0x8010000188004208 = .error .rsvdval ∧ decodeWord 0x80100000D0004208 = .error .rsvdval ∧
  decodeWord 0x0210000000014208 = .error .immrange ∧ decodeWord 0xF100000000000000 = .error .oprsvd ∧
  decodeWord 0x0A00000000000000 = .error .opfree

/-- R213-R224: decoding is right on every word of every well-formed instruction: the word of its encoding, as the opcode tables lay it
out, decodes to exactly that instruction, with every field at every value that the encoding admits; as bytes in memory too. -/
def Obligations.DecodeEncode : Prop := ∀ (i : Instr) (w : Nat), WellFormed i → encode i = some w →
  w < 2 ^ 64 ∧ decodeWord w = .ok i ∧ decodeBytes (leBytes w 8) = .ok i ∧ decodeTableWord 64 w = some i

/-- R213-R224: no two words decode to one instruction, and no bit of a word that decodes is ignored: a word that decodes is the encoding
of what it decodes to, which is well formed. -/
def Obligations.EncodeDecode : Prop := ∀ (w : Nat) (i : Instr), w < 2 ^ 64 → decodeWord w = .ok i → WellFormed i ∧ encode i = some w

/-- The canonical form of memory (the model's own, R70): equal contents are equal lists, and a write of bytes keeps the form, gives those
bytes where it writes and keeps every other byte. -/
def Obligations.MemoryCanonical : Prop := ∀ (m n : List Host.Cell), Memory.wf m = true → Memory.wf n = true →
  ((∀ a, memGet m a = memGet n a) → m = n) ∧
  (∀ a bs, Memory.wf (memWrite m a bs) = true ∧ (∀ c, c < a ∨ a + bs.length ≤ c → memGet (memWrite m a bs) c = memGet m c) ∧
    ∀ i, i < bs.length → memGet (memWrite m a bs) (a + i) = (bs[i]?).getD 0)

/-! ## What holds of every instruction that fires -/

/-- R158, R239: what every instruction of a block does before its own effect: it changes nothing while an operand is missing, after a
mismatch of its predicate, when its slot does not wait or its task does not run, and while something else it needs is not there; it
fires as a null, or passes a stop token of level k on, and the token that an input channel brought in place of L is consumed. -/
def Obligations.FiringOutcomes : Prop := ∀ (s : State) (i : Instr) (op : Nat) (f : Fmt), opFields i = some (op, f) →
  let a := s.here.agent
  (s.judged op f = none ∨ s.judged op f = some .wait ∨ s.judged op f = some .dead → exec i s = .next s) ∧
  (s.judged op f = some .go → s.ready op f = false → exec i s = .next s) ∧
  (∀ w sl, s.pendingHere = some (w, sl) →
    (s.judged op f = some .null → exec i s = .next ((s.dropChl a op f sl).fireNull a s.here.slot op f)) ∧
    (∀ k, s.judged op f = some (.pass k) → exec i s = .next
      (((s.dropChl a op f sl).passChl a op f sl).firePass a s.here.slot op f k)))

/-- R158, R237, R239: with no NULL, no deciding stop token and no predicate that differs from PR among the operands offered, an
instruction may fire exactly when every field it awaits is offered a token; a NULL alone makes it fire as a null, a mismatch alone
makes it unable to fire, stop tokens alone are passed on at the highest level among the operands. Which of several kinds decides
first is not stated here (log entry 7). -/
def Obligations.OperandsJudge : Prop := ∀ (s : State) (a : Agent) (op : Nat) (f : Fmt) (fed : Bool) (sl : Slot),
  let os := s.offers a op f sl s.cycle
  let null (e : Fld × Arrival) : Prop := e.2.tok.isNull = true
  let stop (e : Fld × Arrival) : Prop := e.2.tok.stop ≠ 0 ∧ (e.1 = .p ∨ ownStop op e.1 = false)
  let miss (e : Fld × Arrival) : Prop :=
    e.1 = .p ∧ f.pr ≠ .always ∧ e.2.tok.stop = 0 ∧ e.2.tok.isNull = false ∧ prMatches f.pr e.2.tok = false
  let need := awaited op f fed ++ (if (chlOf op f).isSome then [Fld.l] else [])
  ((∀ e ∈ os, ¬ null e ∧ ¬ stop e ∧ ¬ miss e) →
    s.verdict a op f fed sl = if ∀ x ∈ need, ∃ e ∈ os, e.1 = x then .go else .wait) ∧
  ((∃ e ∈ os, null e) → (∀ e ∈ os, ¬ stop e ∧ ¬ miss e) → s.verdict a op f fed sl = .null) ∧
  ((∃ e ∈ os, miss e) → (∀ e ∈ os, ¬ null e ∧ ¬ stop e) → s.verdict a op f fed sl = .dead) ∧
  ((∃ e ∈ os, stop e) → (∀ e ∈ os, ¬ null e ∧ ¬ miss e) →
    s.verdict a op f fed sl = .pass (os.foldl (fun m e => max m e.2.tok.stop) 0))

/-- R158-R160, R214, R240, R241: where a sent token goes, when its agent holds no fault: a slot field gains it as usable in `lat` cycles;
a register that has received nothing in the attempt keeps its value for the commit, a second delivery is WMASK_VIOLATION with TWICE; a
channel of a block instruction keeps it for the commit, and a NULL sends nothing there. Behind a predicate that does not match, a token
for another field is discarded. A token after a fault goes nowhere, unless the task stands at a BRK or a watchpoint. That a fault
arises at the sending is the model's reading (log entry 8). -/
def Obligations.SendTargets : Prop := ∀ (s : State) (a : Agent) (i op : Nat) (f : Fmt) (tok : Token) (lat : Nat) (w : Win), s.win a = some w →
  ((s.task a).fault ≠ none → s.paused a = false → ∀ t, s.send a i op f t tok lat = s) ∧
  ((s.task a).fault = none →
    s.send a i op f .none tok lat = s ∧
    (∀ (n : Fin 32), w.regs.find n.val = none → s.send a i op f (.sreg n) tok lat =
      s.modWin a fun w => { w with regs := w.regs.put n.val (if tok.stop = 0 ∧ tok.kind = .word then some tok.payload else none) }) ∧
    (∀ (n : Fin 8), w.regs.find (32 + n.val) = none → s.send a i op f (.vreg n) tok lat =
      s.modWin a fun w => { w with regs := w.regs.put (32 + n.val) (if tok.stop = 0 ∧ tok.kind = .vector then some tok.payload else none) }) ∧
    (∀ (n : Fin 32), w.regs.find n.val ≠ none → s.send a i op f (.sreg n) tok lat = s.blockFault a (some i) 0x07 3 0) ∧
    (∀ (n : Fin 128) (x : Fld) (sl : Slot) (op' : Nat) (f' : Fmt), w.slots[n.val]? = some sl → s.fieldsAt a w.baddr n.val = some (op', f') →
      (sl.fld x).skip = 0 → reach op' f' sl x tok = .keep →
      let lost : Prop := sl.st = .waiting ∧ x ≠ .p ∧ tok.isNull = false ∧ s.verdictAt a op' f' false sl (s.cycle + lat) = .dead
      (¬ lost → s.send a i op f (.slot n x) tok lat =
        s.setSlot a n.val fun sl => sl.setFld x { (sl.fld x) with
          got := true, q := (sl.fld x).q ++ [{ tok := tok, at0 := s.cycle + lat, src := i + 1 }] }) ∧
      (lost → s.send a i op f (.slot n x) tok lat = s.setSlot a n.val fun sl => sl.setFld x { (sl.fld x) with got := true })) ∧
    (∀ (n : Fin 16) (x : Bool), tok.isNull = true → s.send a i op f (.chan n x) tok lat = s))

/-- R161, R240: a firing never changes a register, the flags, the rounding mode, the generator, the window of registers or the entry of
any task context, nor memory outside the traces and the log pointers: those change when a block commits. Stated for the instructions
that wait for their block's own operands: with no log and no trace on, memory and presence bits are as they were. -/
def Obligations.FiringFrame : Prop := ∀ (s t : State) (i : Instr) (op : Nat) (f : Fmt), opFields i = some (op, f) → exec i s = .next t →
  (∀ a, (t.task a).regs = (s.task a).regs ∧ (t.task a).vregs = (s.task a).vregs ∧ (t.task a).fflags = (s.task a).fflags ∧
    (t.task a).rmode = (s.task a).rmode ∧ (t.task a).gen = (s.task a).gen ∧ (t.task a).seed = (s.task a).seed ∧
    (t.task a).depth = (s.task a).depth ∧ (t.task a).spilled = (s.task a).spilled ∧ (t.task a).entry = (s.task a).entry ∧
    (t.task a).color = (s.task a).color ∧ (t.task a).cctx = (s.task a).cctx ∧ (t.task a).shapeb = (s.task a).shapeb) ∧
  (s.logs = [] → (∀ e ∈ s.regions, e.2.trace.on = false) → t.mem = s.mem ∧ t.presence = s.presence) ∧
  t.cycle = s.cycle ∧ t.keys = s.keys ∧ t.almanac = s.almanac ∧ t.readyBits ⊆ s.readyBits

/-! ## Faults -/

/-- R161, R385-R388, R390, R177: taking a fault. A fault of a task's block that runs HALTs the task, discards its successor, keeps the
window and every register, and records class, detail, address, slot, block and task; the record goes to an empty mailbox of the task's
region, and behind one of an earlier cycle it is latched. A helm core has no handler: it stops and its ready bit clears. A task that
does not run, and does not stand at a BRK or a watchpoint, takes no fault. -/
def Obligations.FaultTaken : Prop := ∀ (s : State) (a : Agent) (slot : Option Nat) (c d addr : Nat),
  let t := s.blockFault a slot c d addr
  let rec0 := s.faultOf a slot c d addr
  (rec0.fclass = c ∧ rec0.detail = d ∧ rec0.addr = word addr ∧ rec0.slot = slot.getD 0 ∧ rec0.cctx = (s.task a).cctx) ∧
  ((s.task a).st ≠ .active → s.paused a = false → t = s) ∧
  ((s.task a).st = .active →
    (t.task a).st = .halted ∧ (t.task a).succ = none ∧ (t.task a).fault = some rec0 ∧ (t.task a).regs = (s.task a).regs ∧
    (t.task a).vregs = (s.task a).vregs ∧ (t.task a).fflags = (s.task a).fflags ∧ t.win a = s.win a ∧
    (∀ n, a = .helm n → (t.helm n).ready = false ∧ 2277 + n ∉ t.readyBits) ∧
    (∀ e p k r, a = .task e p k → s.regions.find (s.mailKey (s.regionOf a)) = some r → r.mail = none →
      ∃ r', t.regions.find (s.mailKey (s.regionOf a)) = some r' ∧ r'.mail = some rec0 ∧ r'.notifyWait = true ∧ r'.st = r.st) ∧
    (∀ e p k r g, a = .task e p k → s.regions.find (s.mailKey (s.regionOf a)) = some r → r.mail = some g → r.mailAt ≠ s.cycle →
      ∃ r', t.regions.find (s.mailKey (s.regionOf a)) = some r' ∧ r'.mail = some g ∧ r'.latched = r.latched ++ [rec0]))

/-- R396: the return from a fault: RESUME clears the mailbox and the latched faults, starts stall detection again, and retries the
recorded fault. A block fault's block is ACTIVE again at its start: the same block and number, no register received, no channel
token, no exit; a TRAP's task goes on with the block after it; a task stopped by BRK goes on where it stood. What a restarted
field keeps is read as log entry 29 says. -/
def Obligations.ResumeReturns : Prop := ∀ (s : State) (k : Nat) (r : Region) (f : FaultRec), s.regions.find k = some r →
  r.mail = some f → r.latched = [] →
  let t := s.resumeRegion k
  let a := Agent.task f.die f.pcell f.task
  (∃ r', t.regions.find k = some r' ∧ r'.mail = none ∧ r'.latched = [] ∧ r'.moved = s.cycle ∧ r'.st = r.st) ∧
  (∀ w, f.strm = false → 1 ≤ f.fclass → f.fclass ≤ 9 → s.win a = some w →
    (t.task a).st = .active ∧ (t.task a).fault = none ∧ (t.task a).regs = (s.task a).regs ∧
    ∃ w', t.win a = some w' ∧ w'.baddr = w.baddr ∧ w'.seq = w.seq ∧ w'.regs = [] ∧ w'.outs = [] ∧ w'.exit = none ∧ w'.taken = w.taken) ∧
  (∀ b, f.strm = false → f.fclass = 0x0A → f.detail < 256 → (s.task a).after = some b →
    (t.task a).st = .active ∧ (t.task a).fault = none ∧ ∃ w', t.win a = some w' ∧ w'.baddr = b) ∧
  (f.strm = false → f.fclass = 0x0B → (t.task a).st = .active ∧ (t.task a).fault = none ∧
    ∀ w, s.win a = some w → ∃ w', t.win a = some w' ∧ w'.slots = w.slots ∧ w'.regs = w.regs ∧ w'.stopped = false)

/-- R70, R449: the invariant of memory: whatever happens in a step, memory keeps its one canonical form, so that equal contents stay equal
data. With `ResetState` it holds in every state that a run reaches. -/
def Obligations.MemoryStaysCanonical : Prop := ∀ s t : State, Memory.wf s.mem = true → step s = .next t → Memory.wf t.mem = true
end

