-- ==== Sys2Proof/Laws/Table.lean ====
section
/-! SUPPORT. What a sparse table holds after a write, and after a key is dropped. -/

namespace Sys2Proof.Machine

variable {α : Type}

theorem find_put (t : Table α) (i j : Nat) (a : α) : (t.put i a).find j = if i = j then some a else t.find j := by
  induction t with
  | nil => simp [Table.put, Table.find]
  | cons e r ih =>
    obtain ⟨k, b⟩ := e
    by_cases h : k = i
    · subst h
      by_cases hj : k = j <;> simp [Table.put, Table.find, hj]
    · by_cases hj : i = j
      · subst hj; simp [Table.put, Table.find, h, ih]
      · have hji : ¬ j = i := fun e => hj e.symm
        by_cases hk : k = j
        · subst hk; simp [Table.put, Table.find, h, hj]
        · simp [Table.put, Table.find, h, ih, hj, hk]

@[simp] theorem find_put_same (t : Table α) (i : Nat) (a : α) : (t.put i a).find i = some a := by simp [find_put]

theorem find_put_ne (t : Table α) {i j : Nat} (a : α) (h : i ≠ j) : (t.put i a).find j = t.find j := by simp [find_put, h]

theorem get_put (t : Table α) (i j : Nat) (a d : α) : (t.put i a).get j d = if i = j then a else t.get j d := by
  unfold Table.get; rw [find_put]; split <;> rfl

@[simp] theorem get_put_same (t : Table α) (i : Nat) (a d : α) : (t.put i a).get i d = a := by simp [get_put]

theorem get_put_ne (t : Table α) {i j : Nat} (a d : α) (h : i ≠ j) : (t.put i a).get j d = t.get j d := by
  simp [get_put, h]

theorem find_drop (t : Table α) (i j : Nat) : (t.drop i).find j = if i = j then none else t.find j := by
  induction t with
  | nil => simp [Table.drop, Table.find]
  | cons e r ih =>
    obtain ⟨k, b⟩ := e
    unfold Table.drop at ih ⊢
    by_cases hk : k = i
    · subst hk; by_cases hj : k = j <;> simp_all [Table.find]
    · by_cases hj : i = j
      · subst hj; simp_all [Table.find]
      · by_cases hkj : k = j <;> simp_all [Table.find]

end Sys2Proof.Machine
end

