-- ==== Sys2Proof/Laws/State.lean ====
section
/-! SUPPORT. What the updates of parts of the state leave alone, field by field, and what they change. -/

namespace Sys2Proof.Machine

/-! A cell changes: what stays. -/

@[simp] theorem modCell_cycle (s : State) (k : Nat) (f : Cell → Cell) : (s.modCell k f).cycle = s.cycle := rfl
@[simp] theorem modCell_agenda (s : State) (k : Nat) (f : Cell → Cell) : (s.modCell k f).agenda = s.agenda := rfl
@[simp] theorem modCell_free (s : State) (k : Nat) (f : Cell → Cell) : (s.modCell k f).free = s.free := rfl
@[simp] theorem modCell_here (s : State) (k : Nat) (f : Cell → Cell) : (s.modCell k f).here = s.here := rfl
@[simp] theorem modCell_mem (s : State) (k : Nat) (f : Cell → Cell) : (s.modCell k f).mem = s.mem := rfl
@[simp] theorem modCell_presence (s : State) (k : Nat) (f : Cell → Cell) : (s.modCell k f).presence = s.presence := rfl
@[simp] theorem modCell_poison (s : State) (k : Nat) (f : Cell → Cell) : (s.modCell k f).poison = s.poison := rfl
@[simp] theorem modCell_ktag (s : State) (k : Nat) (f : Cell → Cell) : (s.modCell k f).ktag = s.ktag := rfl
@[simp] theorem modCell_entries (s : State) (k : Nat) (f : Cell → Cell) : (s.modCell k f).entries = s.entries := rfl
@[simp] theorem modCell_logown (s : State) (k : Nat) (f : Cell → Cell) : (s.modCell k f).logown = s.logown := rfl
@[simp] theorem modCell_lineAgent (s : State) (k : Nat) (f : Cell → Cell) : (s.modCell k f).lineAgent = s.lineAgent := rfl
@[simp] theorem modCell_lineRun (s : State) (k : Nat) (f : Cell → Cell) : (s.modCell k f).lineRun = s.lineRun := rfl
@[simp] theorem modCell_ringDone (s : State) (k : Nat) (f : Cell → Cell) : (s.modCell k f).ringDone = s.ringDone := rfl
@[simp] theorem modCell_helms (s : State) (k : Nat) (f : Cell → Cell) : (s.modCell k f).helms = s.helms := rfl
@[simp] theorem modCell_ports (s : State) (k : Nat) (f : Cell → Cell) : (s.modCell k f).ports = s.ports := rfl
@[simp] theorem modCell_dies (s : State) (k : Nat) (f : Cell → Cell) : (s.modCell k f).dies = s.dies := rfl
@[simp] theorem modCell_regions (s : State) (k : Nat) (f : Cell → Cell) : (s.modCell k f).regions = s.regions := rfl
@[simp] theorem modCell_accs (s : State) (k : Nat) (f : Cell → Cell) : (s.modCell k f).accs = s.accs := rfl
@[simp] theorem modCell_nextAcc (s : State) (k : Nat) (f : Cell → Cell) : (s.modCell k f).nextAcc = s.nextAcc := rfl
@[simp] theorem modCell_claims (s : State) (k : Nat) (f : Cell → Cell) : (s.modCell k f).claims = s.claims := rfl
@[simp] theorem modCell_kills (s : State) (k : Nat) (f : Cell → Cell) : (s.modCell k f).kills = s.kills := rfl
@[simp] theorem modCell_barriers (s : State) (k : Nat) (f : Cell → Cell) : (s.modCell k f).barriers = s.barriers := rfl
@[simp] theorem modCell_recs (s : State) (k : Nat) (f : Cell → Cell) : (s.modCell k f).recs = s.recs := rfl
@[simp] theorem modCell_nextRec (s : State) (k : Nat) (f : Cell → Cell) : (s.modCell k f).nextRec = s.nextRec := rfl
@[simp] theorem modCell_copyqs (s : State) (k : Nat) (f : Cell → Cell) : (s.modCell k f).copyqs = s.copyqs := rfl
@[simp] theorem modCell_logs (s : State) (k : Nat) (f : Cell → Cell) : (s.modCell k f).logs = s.logs := rfl
@[simp] theorem modCell_images (s : State) (k : Nat) (f : Cell → Cell) : (s.modCell k f).images = s.images := rfl
@[simp] theorem modCell_ulcmd (s : State) (k : Nat) (f : Cell → Cell) : (s.modCell k f).ulcmd = s.ulcmd := rfl
@[simp] theorem modCell_budget (s : State) (k : Nat) (f : Cell → Cell) : (s.modCell k f).budget = s.budget := rfl
@[simp] theorem modCell_budgetDue (s : State) (k : Nat) (f : Cell → Cell) : (s.modCell k f).budgetDue = s.budgetDue := rfl
@[simp] theorem modCell_pkgNum (s : State) (k : Nat) (f : Cell → Cell) : (s.modCell k f).pkgNum = s.pkgNum := rfl
@[simp] theorem modCell_almanac (s : State) (k : Nat) (f : Cell → Cell) : (s.modCell k f).almanac = s.almanac := rfl
@[simp] theorem modCell_almPend (s : State) (k : Nat) (f : Cell → Cell) : (s.modCell k f).almPend = s.almPend := rfl
@[simp] theorem modCell_readyBits (s : State) (k : Nat) (f : Cell → Cell) : (s.modCell k f).readyBits = s.readyBits := rfl
@[simp] theorem modCell_failedBits (s : State) (k : Nat) (f : Cell → Cell) : (s.modCell k f).failedBits = s.failedBits := rfl
@[simp] theorem modCell_links (s : State) (k : Nat) (f : Cell → Cell) : (s.modCell k f).links = s.links := rfl
@[simp] theorem modCell_keys (s : State) (k : Nat) (f : Cell → Cell) : (s.modCell k f).keys = s.keys := rfl
@[simp] theorem modCell_podTable (s : State) (k : Nat) (f : Cell → Cell) : (s.modCell k f).podTable = s.podTable := rfl
@[simp] theorem modCell_planesOut (s : State) (k : Nat) (f : Cell → Cell) : (s.modCell k f).planesOut = s.planesOut := rfl
@[simp] theorem modCell_lastPlane (s : State) (k : Nat) (f : Cell → Cell) : (s.modCell k f).lastPlane = s.lastPlane := rfl
@[simp] theorem modCell_podAcks (s : State) (k : Nat) (f : Cell → Cell) : (s.modCell k f).podAcks = s.podAcks := rfl
@[simp] theorem modCell_sessions (s : State) (k : Nat) (f : Cell → Cell) : (s.modCell k f).sessions = s.sessions := rfl
@[simp] theorem modCell_host (s : State) (k : Nat) (f : Cell → Cell) : (s.modCell k f).host = s.host := rfl
@[simp] theorem modCell_image (s : State) (k : Nat) (f : Cell → Cell) : (s.modCell k f).image = s.image := rfl
@[simp] theorem modCell_leaf (s : State) (k : Nat) (f : Cell → Cell) : (s.modCell k f).leaf = s.leaf := rfl
@[simp] theorem modCell_ekey (s : State) (k : Nat) (f : Cell → Cell) : (s.modCell k f).ekey = s.ekey := rfl
@[simp] theorem modCell_softCount (s : State) (k : Nat) (f : Cell → Cell) : (s.modCell k f).softCount = s.softCount := rfl

/-! A helm core changes: what stays. -/

@[simp] theorem modHelm_cycle (s : State) (n : Nat) (f : Helm → Helm) : (s.modHelm n f).cycle = s.cycle := rfl
@[simp] theorem modHelm_agenda (s : State) (n : Nat) (f : Helm → Helm) : (s.modHelm n f).agenda = s.agenda := rfl
@[simp] theorem modHelm_free (s : State) (n : Nat) (f : Helm → Helm) : (s.modHelm n f).free = s.free := rfl
@[simp] theorem modHelm_here (s : State) (n : Nat) (f : Helm → Helm) : (s.modHelm n f).here = s.here := rfl
@[simp] theorem modHelm_mem (s : State) (n : Nat) (f : Helm → Helm) : (s.modHelm n f).mem = s.mem := rfl
@[simp] theorem modHelm_presence (s : State) (n : Nat) (f : Helm → Helm) : (s.modHelm n f).presence = s.presence := rfl
@[simp] theorem modHelm_poison (s : State) (n : Nat) (f : Helm → Helm) : (s.modHelm n f).poison = s.poison := rfl
@[simp] theorem modHelm_ktag (s : State) (n : Nat) (f : Helm → Helm) : (s.modHelm n f).ktag = s.ktag := rfl
@[simp] theorem modHelm_entries (s : State) (n : Nat) (f : Helm → Helm) : (s.modHelm n f).entries = s.entries := rfl
@[simp] theorem modHelm_logown (s : State) (n : Nat) (f : Helm → Helm) : (s.modHelm n f).logown = s.logown := rfl
@[simp] theorem modHelm_lineAgent (s : State) (n : Nat) (f : Helm → Helm) : (s.modHelm n f).lineAgent = s.lineAgent := rfl
@[simp] theorem modHelm_lineRun (s : State) (n : Nat) (f : Helm → Helm) : (s.modHelm n f).lineRun = s.lineRun := rfl
@[simp] theorem modHelm_ringDone (s : State) (n : Nat) (f : Helm → Helm) : (s.modHelm n f).ringDone = s.ringDone := rfl
@[simp] theorem modHelm_cells (s : State) (n : Nat) (f : Helm → Helm) : (s.modHelm n f).cells = s.cells := rfl
@[simp] theorem modHelm_ports (s : State) (n : Nat) (f : Helm → Helm) : (s.modHelm n f).ports = s.ports := rfl
@[simp] theorem modHelm_dies (s : State) (n : Nat) (f : Helm → Helm) : (s.modHelm n f).dies = s.dies := rfl
@[simp] theorem modHelm_regions (s : State) (n : Nat) (f : Helm → Helm) : (s.modHelm n f).regions = s.regions := rfl
@[simp] theorem modHelm_accs (s : State) (n : Nat) (f : Helm → Helm) : (s.modHelm n f).accs = s.accs := rfl
@[simp] theorem modHelm_nextAcc (s : State) (n : Nat) (f : Helm → Helm) : (s.modHelm n f).nextAcc = s.nextAcc := rfl
@[simp] theorem modHelm_claims (s : State) (n : Nat) (f : Helm → Helm) : (s.modHelm n f).claims = s.claims := rfl
@[simp] theorem modHelm_kills (s : State) (n : Nat) (f : Helm → Helm) : (s.modHelm n f).kills = s.kills := rfl
@[simp] theorem modHelm_barriers (s : State) (n : Nat) (f : Helm → Helm) : (s.modHelm n f).barriers = s.barriers := rfl
@[simp] theorem modHelm_recs (s : State) (n : Nat) (f : Helm → Helm) : (s.modHelm n f).recs = s.recs := rfl
@[simp] theorem modHelm_nextRec (s : State) (n : Nat) (f : Helm → Helm) : (s.modHelm n f).nextRec = s.nextRec := rfl
@[simp] theorem modHelm_copyqs (s : State) (n : Nat) (f : Helm → Helm) : (s.modHelm n f).copyqs = s.copyqs := rfl
@[simp] theorem modHelm_logs (s : State) (n : Nat) (f : Helm → Helm) : (s.modHelm n f).logs = s.logs := rfl
@[simp] theorem modHelm_images (s : State) (n : Nat) (f : Helm → Helm) : (s.modHelm n f).images = s.images := rfl
@[simp] theorem modHelm_ulcmd (s : State) (n : Nat) (f : Helm → Helm) : (s.modHelm n f).ulcmd = s.ulcmd := rfl
@[simp] theorem modHelm_budget (s : State) (n : Nat) (f : Helm → Helm) : (s.modHelm n f).budget = s.budget := rfl
@[simp] theorem modHelm_budgetDue (s : State) (n : Nat) (f : Helm → Helm) : (s.modHelm n f).budgetDue = s.budgetDue := rfl
@[simp] theorem modHelm_pkgNum (s : State) (n : Nat) (f : Helm → Helm) : (s.modHelm n f).pkgNum = s.pkgNum := rfl
@[simp] theorem modHelm_almanac (s : State) (n : Nat) (f : Helm → Helm) : (s.modHelm n f).almanac = s.almanac := rfl
@[simp] theorem modHelm_almPend (s : State) (n : Nat) (f : Helm → Helm) : (s.modHelm n f).almPend = s.almPend := rfl
@[simp] theorem modHelm_readyBits (s : State) (n : Nat) (f : Helm → Helm) : (s.modHelm n f).readyBits = s.readyBits := rfl
@[simp] theorem modHelm_failedBits (s : State) (n : Nat) (f : Helm → Helm) : (s.modHelm n f).failedBits = s.failedBits := rfl
@[simp] theorem modHelm_links (s : State) (n : Nat) (f : Helm → Helm) : (s.modHelm n f).links = s.links := rfl
@[simp] theorem modHelm_keys (s : State) (n : Nat) (f : Helm → Helm) : (s.modHelm n f).keys = s.keys := rfl
@[simp] theorem modHelm_podTable (s : State) (n : Nat) (f : Helm → Helm) : (s.modHelm n f).podTable = s.podTable := rfl
@[simp] theorem modHelm_planesOut (s : State) (n : Nat) (f : Helm → Helm) : (s.modHelm n f).planesOut = s.planesOut := rfl
@[simp] theorem modHelm_lastPlane (s : State) (n : Nat) (f : Helm → Helm) : (s.modHelm n f).lastPlane = s.lastPlane := rfl
@[simp] theorem modHelm_podAcks (s : State) (n : Nat) (f : Helm → Helm) : (s.modHelm n f).podAcks = s.podAcks := rfl
@[simp] theorem modHelm_sessions (s : State) (n : Nat) (f : Helm → Helm) : (s.modHelm n f).sessions = s.sessions := rfl
@[simp] theorem modHelm_host (s : State) (n : Nat) (f : Helm → Helm) : (s.modHelm n f).host = s.host := rfl
@[simp] theorem modHelm_image (s : State) (n : Nat) (f : Helm → Helm) : (s.modHelm n f).image = s.image := rfl
@[simp] theorem modHelm_leaf (s : State) (n : Nat) (f : Helm → Helm) : (s.modHelm n f).leaf = s.leaf := rfl
@[simp] theorem modHelm_ekey (s : State) (n : Nat) (f : Helm → Helm) : (s.modHelm n f).ekey = s.ekey := rfl
@[simp] theorem modHelm_softCount (s : State) (n : Nat) (f : Helm → Helm) : (s.modHelm n f).softCount = s.softCount := rfl

/-! A die changes: what stays. -/

@[simp] theorem modDie_cycle (s : State) (d : Nat) (f : Die → Die) : (s.modDie d f).cycle = s.cycle := rfl
@[simp] theorem modDie_agenda (s : State) (d : Nat) (f : Die → Die) : (s.modDie d f).agenda = s.agenda := rfl
@[simp] theorem modDie_free (s : State) (d : Nat) (f : Die → Die) : (s.modDie d f).free = s.free := rfl
@[simp] theorem modDie_here (s : State) (d : Nat) (f : Die → Die) : (s.modDie d f).here = s.here := rfl
@[simp] theorem modDie_mem (s : State) (d : Nat) (f : Die → Die) : (s.modDie d f).mem = s.mem := rfl
@[simp] theorem modDie_presence (s : State) (d : Nat) (f : Die → Die) : (s.modDie d f).presence = s.presence := rfl
@[simp] theorem modDie_poison (s : State) (d : Nat) (f : Die → Die) : (s.modDie d f).poison = s.poison := rfl
@[simp] theorem modDie_ktag (s : State) (d : Nat) (f : Die → Die) : (s.modDie d f).ktag = s.ktag := rfl
@[simp] theorem modDie_entries (s : State) (d : Nat) (f : Die → Die) : (s.modDie d f).entries = s.entries := rfl
@[simp] theorem modDie_logown (s : State) (d : Nat) (f : Die → Die) : (s.modDie d f).logown = s.logown := rfl
@[simp] theorem modDie_lineAgent (s : State) (d : Nat) (f : Die → Die) : (s.modDie d f).lineAgent = s.lineAgent := rfl
@[simp] theorem modDie_lineRun (s : State) (d : Nat) (f : Die → Die) : (s.modDie d f).lineRun = s.lineRun := rfl
@[simp] theorem modDie_ringDone (s : State) (d : Nat) (f : Die → Die) : (s.modDie d f).ringDone = s.ringDone := rfl
@[simp] theorem modDie_cells (s : State) (d : Nat) (f : Die → Die) : (s.modDie d f).cells = s.cells := rfl
@[simp] theorem modDie_helms (s : State) (d : Nat) (f : Die → Die) : (s.modDie d f).helms = s.helms := rfl
@[simp] theorem modDie_ports (s : State) (d : Nat) (f : Die → Die) : (s.modDie d f).ports = s.ports := rfl
@[simp] theorem modDie_regions (s : State) (d : Nat) (f : Die → Die) : (s.modDie d f).regions = s.regions := rfl
@[simp] theorem modDie_accs (s : State) (d : Nat) (f : Die → Die) : (s.modDie d f).accs = s.accs := rfl
@[simp] theorem modDie_nextAcc (s : State) (d : Nat) (f : Die → Die) : (s.modDie d f).nextAcc = s.nextAcc := rfl
@[simp] theorem modDie_claims (s : State) (d : Nat) (f : Die → Die) : (s.modDie d f).claims = s.claims := rfl
@[simp] theorem modDie_kills (s : State) (d : Nat) (f : Die → Die) : (s.modDie d f).kills = s.kills := rfl
@[simp] theorem modDie_barriers (s : State) (d : Nat) (f : Die → Die) : (s.modDie d f).barriers = s.barriers := rfl
@[simp] theorem modDie_recs (s : State) (d : Nat) (f : Die → Die) : (s.modDie d f).recs = s.recs := rfl
@[simp] theorem modDie_nextRec (s : State) (d : Nat) (f : Die → Die) : (s.modDie d f).nextRec = s.nextRec := rfl
@[simp] theorem modDie_copyqs (s : State) (d : Nat) (f : Die → Die) : (s.modDie d f).copyqs = s.copyqs := rfl
@[simp] theorem modDie_logs (s : State) (d : Nat) (f : Die → Die) : (s.modDie d f).logs = s.logs := rfl
@[simp] theorem modDie_images (s : State) (d : Nat) (f : Die → Die) : (s.modDie d f).images = s.images := rfl
@[simp] theorem modDie_ulcmd (s : State) (d : Nat) (f : Die → Die) : (s.modDie d f).ulcmd = s.ulcmd := rfl
@[simp] theorem modDie_budget (s : State) (d : Nat) (f : Die → Die) : (s.modDie d f).budget = s.budget := rfl
@[simp] theorem modDie_budgetDue (s : State) (d : Nat) (f : Die → Die) : (s.modDie d f).budgetDue = s.budgetDue := rfl
@[simp] theorem modDie_pkgNum (s : State) (d : Nat) (f : Die → Die) : (s.modDie d f).pkgNum = s.pkgNum := rfl
@[simp] theorem modDie_almanac (s : State) (d : Nat) (f : Die → Die) : (s.modDie d f).almanac = s.almanac := rfl
@[simp] theorem modDie_almPend (s : State) (d : Nat) (f : Die → Die) : (s.modDie d f).almPend = s.almPend := rfl
@[simp] theorem modDie_readyBits (s : State) (d : Nat) (f : Die → Die) : (s.modDie d f).readyBits = s.readyBits := rfl
@[simp] theorem modDie_failedBits (s : State) (d : Nat) (f : Die → Die) : (s.modDie d f).failedBits = s.failedBits := rfl
@[simp] theorem modDie_links (s : State) (d : Nat) (f : Die → Die) : (s.modDie d f).links = s.links := rfl
@[simp] theorem modDie_keys (s : State) (d : Nat) (f : Die → Die) : (s.modDie d f).keys = s.keys := rfl
@[simp] theorem modDie_podTable (s : State) (d : Nat) (f : Die → Die) : (s.modDie d f).podTable = s.podTable := rfl
@[simp] theorem modDie_planesOut (s : State) (d : Nat) (f : Die → Die) : (s.modDie d f).planesOut = s.planesOut := rfl
@[simp] theorem modDie_lastPlane (s : State) (d : Nat) (f : Die → Die) : (s.modDie d f).lastPlane = s.lastPlane := rfl
@[simp] theorem modDie_podAcks (s : State) (d : Nat) (f : Die → Die) : (s.modDie d f).podAcks = s.podAcks := rfl
@[simp] theorem modDie_sessions (s : State) (d : Nat) (f : Die → Die) : (s.modDie d f).sessions = s.sessions := rfl
@[simp] theorem modDie_host (s : State) (d : Nat) (f : Die → Die) : (s.modDie d f).host = s.host := rfl
@[simp] theorem modDie_image (s : State) (d : Nat) (f : Die → Die) : (s.modDie d f).image = s.image := rfl
@[simp] theorem modDie_leaf (s : State) (d : Nat) (f : Die → Die) : (s.modDie d f).leaf = s.leaf := rfl
@[simp] theorem modDie_ekey (s : State) (d : Nat) (f : Die → Die) : (s.modDie d f).ekey = s.ekey := rfl
@[simp] theorem modDie_softCount (s : State) (d : Nat) (f : Die → Die) : (s.modDie d f).softCount = s.softCount := rfl

/-! A task context changes: what stays. -/

@[simp] theorem modTask_cycle (s : State) (a : Agent) (f : TaskCtx → TaskCtx) : (s.modTask a f).cycle = s.cycle := by cases a <;> rfl
@[simp] theorem modTask_agenda (s : State) (a : Agent) (f : TaskCtx → TaskCtx) : (s.modTask a f).agenda = s.agenda := by cases a <;> rfl
@[simp] theorem modTask_free (s : State) (a : Agent) (f : TaskCtx → TaskCtx) : (s.modTask a f).free = s.free := by cases a <;> rfl
@[simp] theorem modTask_here (s : State) (a : Agent) (f : TaskCtx → TaskCtx) : (s.modTask a f).here = s.here := by cases a <;> rfl
@[simp] theorem modTask_mem (s : State) (a : Agent) (f : TaskCtx → TaskCtx) : (s.modTask a f).mem = s.mem := by cases a <;> rfl
@[simp] theorem modTask_presence (s : State) (a : Agent) (f : TaskCtx → TaskCtx) : (s.modTask a f).presence = s.presence := by cases a <;> rfl
@[simp] theorem modTask_poison (s : State) (a : Agent) (f : TaskCtx → TaskCtx) : (s.modTask a f).poison = s.poison := by cases a <;> rfl
@[simp] theorem modTask_ktag (s : State) (a : Agent) (f : TaskCtx → TaskCtx) : (s.modTask a f).ktag = s.ktag := by cases a <;> rfl
@[simp] theorem modTask_entries (s : State) (a : Agent) (f : TaskCtx → TaskCtx) : (s.modTask a f).entries = s.entries := by cases a <;> rfl
@[simp] theorem modTask_logown (s : State) (a : Agent) (f : TaskCtx → TaskCtx) : (s.modTask a f).logown = s.logown := by cases a <;> rfl
@[simp] theorem modTask_lineAgent (s : State) (a : Agent) (f : TaskCtx → TaskCtx) : (s.modTask a f).lineAgent = s.lineAgent := by cases a <;> rfl
@[simp] theorem modTask_lineRun (s : State) (a : Agent) (f : TaskCtx → TaskCtx) : (s.modTask a f).lineRun = s.lineRun := by cases a <;> rfl
@[simp] theorem modTask_ringDone (s : State) (a : Agent) (f : TaskCtx → TaskCtx) : (s.modTask a f).ringDone = s.ringDone := by cases a <;> rfl
@[simp] theorem modTask_ports (s : State) (a : Agent) (f : TaskCtx → TaskCtx) : (s.modTask a f).ports = s.ports := by cases a <;> rfl
@[simp] theorem modTask_dies (s : State) (a : Agent) (f : TaskCtx → TaskCtx) : (s.modTask a f).dies = s.dies := by cases a <;> rfl
@[simp] theorem modTask_regions (s : State) (a : Agent) (f : TaskCtx → TaskCtx) : (s.modTask a f).regions = s.regions := by cases a <;> rfl
@[simp] theorem modTask_accs (s : State) (a : Agent) (f : TaskCtx → TaskCtx) : (s.modTask a f).accs = s.accs := by cases a <;> rfl
@[simp] theorem modTask_nextAcc (s : State) (a : Agent) (f : TaskCtx → TaskCtx) : (s.modTask a f).nextAcc = s.nextAcc := by cases a <;> rfl
@[simp] theorem modTask_claims (s : State) (a : Agent) (f : TaskCtx → TaskCtx) : (s.modTask a f).claims = s.claims := by cases a <;> rfl
@[simp] theorem modTask_kills (s : State) (a : Agent) (f : TaskCtx → TaskCtx) : (s.modTask a f).kills = s.kills := by cases a <;> rfl
@[simp] theorem modTask_barriers (s : State) (a : Agent) (f : TaskCtx → TaskCtx) : (s.modTask a f).barriers = s.barriers := by cases a <;> rfl
@[simp] theorem modTask_recs (s : State) (a : Agent) (f : TaskCtx → TaskCtx) : (s.modTask a f).recs = s.recs := by cases a <;> rfl
@[simp] theorem modTask_nextRec (s : State) (a : Agent) (f : TaskCtx → TaskCtx) : (s.modTask a f).nextRec = s.nextRec := by cases a <;> rfl
@[simp] theorem modTask_copyqs (s : State) (a : Agent) (f : TaskCtx → TaskCtx) : (s.modTask a f).copyqs = s.copyqs := by cases a <;> rfl
@[simp] theorem modTask_logs (s : State) (a : Agent) (f : TaskCtx → TaskCtx) : (s.modTask a f).logs = s.logs := by cases a <;> rfl
@[simp] theorem modTask_images (s : State) (a : Agent) (f : TaskCtx → TaskCtx) : (s.modTask a f).images = s.images := by cases a <;> rfl
@[simp] theorem modTask_ulcmd (s : State) (a : Agent) (f : TaskCtx → TaskCtx) : (s.modTask a f).ulcmd = s.ulcmd := by cases a <;> rfl
@[simp] theorem modTask_budget (s : State) (a : Agent) (f : TaskCtx → TaskCtx) : (s.modTask a f).budget = s.budget := by cases a <;> rfl
@[simp] theorem modTask_budgetDue (s : State) (a : Agent) (f : TaskCtx → TaskCtx) : (s.modTask a f).budgetDue = s.budgetDue := by cases a <;> rfl
@[simp] theorem modTask_pkgNum (s : State) (a : Agent) (f : TaskCtx → TaskCtx) : (s.modTask a f).pkgNum = s.pkgNum := by cases a <;> rfl
@[simp] theorem modTask_almanac (s : State) (a : Agent) (f : TaskCtx → TaskCtx) : (s.modTask a f).almanac = s.almanac := by cases a <;> rfl
@[simp] theorem modTask_almPend (s : State) (a : Agent) (f : TaskCtx → TaskCtx) : (s.modTask a f).almPend = s.almPend := by cases a <;> rfl
@[simp] theorem modTask_readyBits (s : State) (a : Agent) (f : TaskCtx → TaskCtx) : (s.modTask a f).readyBits = s.readyBits := by cases a <;> rfl
@[simp] theorem modTask_failedBits (s : State) (a : Agent) (f : TaskCtx → TaskCtx) : (s.modTask a f).failedBits = s.failedBits := by cases a <;> rfl
@[simp] theorem modTask_links (s : State) (a : Agent) (f : TaskCtx → TaskCtx) : (s.modTask a f).links = s.links := by cases a <;> rfl
@[simp] theorem modTask_keys (s : State) (a : Agent) (f : TaskCtx → TaskCtx) : (s.modTask a f).keys = s.keys := by cases a <;> rfl
@[simp] theorem modTask_podTable (s : State) (a : Agent) (f : TaskCtx → TaskCtx) : (s.modTask a f).podTable = s.podTable := by cases a <;> rfl
@[simp] theorem modTask_planesOut (s : State) (a : Agent) (f : TaskCtx → TaskCtx) : (s.modTask a f).planesOut = s.planesOut := by cases a <;> rfl
@[simp] theorem modTask_lastPlane (s : State) (a : Agent) (f : TaskCtx → TaskCtx) : (s.modTask a f).lastPlane = s.lastPlane := by cases a <;> rfl
@[simp] theorem modTask_podAcks (s : State) (a : Agent) (f : TaskCtx → TaskCtx) : (s.modTask a f).podAcks = s.podAcks := by cases a <;> rfl
@[simp] theorem modTask_sessions (s : State) (a : Agent) (f : TaskCtx → TaskCtx) : (s.modTask a f).sessions = s.sessions := by cases a <;> rfl
@[simp] theorem modTask_host (s : State) (a : Agent) (f : TaskCtx → TaskCtx) : (s.modTask a f).host = s.host := by cases a <;> rfl
@[simp] theorem modTask_image (s : State) (a : Agent) (f : TaskCtx → TaskCtx) : (s.modTask a f).image = s.image := by cases a <;> rfl
@[simp] theorem modTask_leaf (s : State) (a : Agent) (f : TaskCtx → TaskCtx) : (s.modTask a f).leaf = s.leaf := by cases a <;> rfl
@[simp] theorem modTask_ekey (s : State) (a : Agent) (f : TaskCtx → TaskCtx) : (s.modTask a f).ekey = s.ekey := by cases a <;> rfl
@[simp] theorem modTask_softCount (s : State) (a : Agent) (f : TaskCtx → TaskCtx) : (s.modTask a f).softCount = s.softCount := by cases a <;> rfl

/-! A firing block changes: what stays. -/

@[simp] theorem modWin_cycle (s : State) (a : Agent) (f : Win → Win) : (s.modWin a f).cycle = s.cycle := by cases a <;> rfl
@[simp] theorem modWin_agenda (s : State) (a : Agent) (f : Win → Win) : (s.modWin a f).agenda = s.agenda := by cases a <;> rfl
@[simp] theorem modWin_free (s : State) (a : Agent) (f : Win → Win) : (s.modWin a f).free = s.free := by cases a <;> rfl
@[simp] theorem modWin_here (s : State) (a : Agent) (f : Win → Win) : (s.modWin a f).here = s.here := by cases a <;> rfl
@[simp] theorem modWin_mem (s : State) (a : Agent) (f : Win → Win) : (s.modWin a f).mem = s.mem := by cases a <;> rfl
@[simp] theorem modWin_presence (s : State) (a : Agent) (f : Win → Win) : (s.modWin a f).presence = s.presence := by cases a <;> rfl
@[simp] theorem modWin_poison (s : State) (a : Agent) (f : Win → Win) : (s.modWin a f).poison = s.poison := by cases a <;> rfl
@[simp] theorem modWin_ktag (s : State) (a : Agent) (f : Win → Win) : (s.modWin a f).ktag = s.ktag := by cases a <;> rfl
@[simp] theorem modWin_entries (s : State) (a : Agent) (f : Win → Win) : (s.modWin a f).entries = s.entries := by cases a <;> rfl
@[simp] theorem modWin_logown (s : State) (a : Agent) (f : Win → Win) : (s.modWin a f).logown = s.logown := by cases a <;> rfl
@[simp] theorem modWin_lineAgent (s : State) (a : Agent) (f : Win → Win) : (s.modWin a f).lineAgent = s.lineAgent := by cases a <;> rfl
@[simp] theorem modWin_lineRun (s : State) (a : Agent) (f : Win → Win) : (s.modWin a f).lineRun = s.lineRun := by cases a <;> rfl
@[simp] theorem modWin_ringDone (s : State) (a : Agent) (f : Win → Win) : (s.modWin a f).ringDone = s.ringDone := by cases a <;> rfl
@[simp] theorem modWin_ports (s : State) (a : Agent) (f : Win → Win) : (s.modWin a f).ports = s.ports := by cases a <;> rfl
@[simp] theorem modWin_dies (s : State) (a : Agent) (f : Win → Win) : (s.modWin a f).dies = s.dies := by cases a <;> rfl
@[simp] theorem modWin_regions (s : State) (a : Agent) (f : Win → Win) : (s.modWin a f).regions = s.regions := by cases a <;> rfl
@[simp] theorem modWin_accs (s : State) (a : Agent) (f : Win → Win) : (s.modWin a f).accs = s.accs := by cases a <;> rfl
@[simp] theorem modWin_nextAcc (s : State) (a : Agent) (f : Win → Win) : (s.modWin a f).nextAcc = s.nextAcc := by cases a <;> rfl
@[simp] theorem modWin_claims (s : State) (a : Agent) (f : Win → Win) : (s.modWin a f).claims = s.claims := by cases a <;> rfl
@[simp] theorem modWin_kills (s : State) (a : Agent) (f : Win → Win) : (s.modWin a f).kills = s.kills := by cases a <;> rfl
@[simp] theorem modWin_barriers (s : State) (a : Agent) (f : Win → Win) : (s.modWin a f).barriers = s.barriers := by cases a <;> rfl
@[simp] theorem modWin_recs (s : State) (a : Agent) (f : Win → Win) : (s.modWin a f).recs = s.recs := by cases a <;> rfl
@[simp] theorem modWin_nextRec (s : State) (a : Agent) (f : Win → Win) : (s.modWin a f).nextRec = s.nextRec := by cases a <;> rfl
@[simp] theorem modWin_copyqs (s : State) (a : Agent) (f : Win → Win) : (s.modWin a f).copyqs = s.copyqs := by cases a <;> rfl
@[simp] theorem modWin_logs (s : State) (a : Agent) (f : Win → Win) : (s.modWin a f).logs = s.logs := by cases a <;> rfl
@[simp] theorem modWin_images (s : State) (a : Agent) (f : Win → Win) : (s.modWin a f).images = s.images := by cases a <;> rfl
@[simp] theorem modWin_ulcmd (s : State) (a : Agent) (f : Win → Win) : (s.modWin a f).ulcmd = s.ulcmd := by cases a <;> rfl
@[simp] theorem modWin_budget (s : State) (a : Agent) (f : Win → Win) : (s.modWin a f).budget = s.budget := by cases a <;> rfl
@[simp] theorem modWin_budgetDue (s : State) (a : Agent) (f : Win → Win) : (s.modWin a f).budgetDue = s.budgetDue := by cases a <;> rfl
@[simp] theorem modWin_pkgNum (s : State) (a : Agent) (f : Win → Win) : (s.modWin a f).pkgNum = s.pkgNum := by cases a <;> rfl
@[simp] theorem modWin_almanac (s : State) (a : Agent) (f : Win → Win) : (s.modWin a f).almanac = s.almanac := by cases a <;> rfl
@[simp] theorem modWin_almPend (s : State) (a : Agent) (f : Win → Win) : (s.modWin a f).almPend = s.almPend := by cases a <;> rfl
@[simp] theorem modWin_readyBits (s : State) (a : Agent) (f : Win → Win) : (s.modWin a f).readyBits = s.readyBits := by cases a <;> rfl
@[simp] theorem modWin_failedBits (s : State) (a : Agent) (f : Win → Win) : (s.modWin a f).failedBits = s.failedBits := by cases a <;> rfl
@[simp] theorem modWin_links (s : State) (a : Agent) (f : Win → Win) : (s.modWin a f).links = s.links := by cases a <;> rfl
@[simp] theorem modWin_keys (s : State) (a : Agent) (f : Win → Win) : (s.modWin a f).keys = s.keys := by cases a <;> rfl
@[simp] theorem modWin_podTable (s : State) (a : Agent) (f : Win → Win) : (s.modWin a f).podTable = s.podTable := by cases a <;> rfl
@[simp] theorem modWin_planesOut (s : State) (a : Agent) (f : Win → Win) : (s.modWin a f).planesOut = s.planesOut := by cases a <;> rfl
@[simp] theorem modWin_lastPlane (s : State) (a : Agent) (f : Win → Win) : (s.modWin a f).lastPlane = s.lastPlane := by cases a <;> rfl
@[simp] theorem modWin_podAcks (s : State) (a : Agent) (f : Win → Win) : (s.modWin a f).podAcks = s.podAcks := by cases a <;> rfl
@[simp] theorem modWin_sessions (s : State) (a : Agent) (f : Win → Win) : (s.modWin a f).sessions = s.sessions := by cases a <;> rfl
@[simp] theorem modWin_host (s : State) (a : Agent) (f : Win → Win) : (s.modWin a f).host = s.host := by cases a <;> rfl
@[simp] theorem modWin_image (s : State) (a : Agent) (f : Win → Win) : (s.modWin a f).image = s.image := by cases a <;> rfl
@[simp] theorem modWin_leaf (s : State) (a : Agent) (f : Win → Win) : (s.modWin a f).leaf = s.leaf := by cases a <;> rfl
@[simp] theorem modWin_ekey (s : State) (a : Agent) (f : Win → Win) : (s.modWin a f).ekey = s.ekey := by cases a <;> rfl
@[simp] theorem modWin_softCount (s : State) (a : Agent) (f : Win → Win) : (s.modWin a f).softCount = s.softCount := by cases a <;> rfl

/-! A region changes: what stays. -/

@[simp] theorem modRegion_cycle (s : State) (k : Nat) (f : Region → Region) : (s.modRegion k f).cycle = s.cycle := by unfold State.modRegion; split <;> rfl
@[simp] theorem modRegion_agenda (s : State) (k : Nat) (f : Region → Region) : (s.modRegion k f).agenda = s.agenda := by unfold State.modRegion; split <;> rfl
@[simp] theorem modRegion_free (s : State) (k : Nat) (f : Region → Region) : (s.modRegion k f).free = s.free := by unfold State.modRegion; split <;> rfl
@[simp] theorem modRegion_here (s : State) (k : Nat) (f : Region → Region) : (s.modRegion k f).here = s.here := by unfold State.modRegion; split <;> rfl
@[simp] theorem modRegion_mem (s : State) (k : Nat) (f : Region → Region) : (s.modRegion k f).mem = s.mem := by unfold State.modRegion; split <;> rfl
@[simp] theorem modRegion_presence (s : State) (k : Nat) (f : Region → Region) : (s.modRegion k f).presence = s.presence := by unfold State.modRegion; split <;> rfl
@[simp] theorem modRegion_poison (s : State) (k : Nat) (f : Region → Region) : (s.modRegion k f).poison = s.poison := by unfold State.modRegion; split <;> rfl
@[simp] theorem modRegion_ktag (s : State) (k : Nat) (f : Region → Region) : (s.modRegion k f).ktag = s.ktag := by unfold State.modRegion; split <;> rfl
@[simp] theorem modRegion_entries (s : State) (k : Nat) (f : Region → Region) : (s.modRegion k f).entries = s.entries := by unfold State.modRegion; split <;> rfl
@[simp] theorem modRegion_logown (s : State) (k : Nat) (f : Region → Region) : (s.modRegion k f).logown = s.logown := by unfold State.modRegion; split <;> rfl
@[simp] theorem modRegion_lineAgent (s : State) (k : Nat) (f : Region → Region) : (s.modRegion k f).lineAgent = s.lineAgent := by unfold State.modRegion; split <;> rfl
@[simp] theorem modRegion_lineRun (s : State) (k : Nat) (f : Region → Region) : (s.modRegion k f).lineRun = s.lineRun := by unfold State.modRegion; split <;> rfl
@[simp] theorem modRegion_ringDone (s : State) (k : Nat) (f : Region → Region) : (s.modRegion k f).ringDone = s.ringDone := by unfold State.modRegion; split <;> rfl
@[simp] theorem modRegion_cells (s : State) (k : Nat) (f : Region → Region) : (s.modRegion k f).cells = s.cells := by unfold State.modRegion; split <;> rfl
@[simp] theorem modRegion_helms (s : State) (k : Nat) (f : Region → Region) : (s.modRegion k f).helms = s.helms := by unfold State.modRegion; split <;> rfl
@[simp] theorem modRegion_ports (s : State) (k : Nat) (f : Region → Region) : (s.modRegion k f).ports = s.ports := by unfold State.modRegion; split <;> rfl
@[simp] theorem modRegion_dies (s : State) (k : Nat) (f : Region → Region) : (s.modRegion k f).dies = s.dies := by unfold State.modRegion; split <;> rfl
@[simp] theorem modRegion_accs (s : State) (k : Nat) (f : Region → Region) : (s.modRegion k f).accs = s.accs := by unfold State.modRegion; split <;> rfl
@[simp] theorem modRegion_nextAcc (s : State) (k : Nat) (f : Region → Region) : (s.modRegion k f).nextAcc = s.nextAcc := by unfold State.modRegion; split <;> rfl
@[simp] theorem modRegion_claims (s : State) (k : Nat) (f : Region → Region) : (s.modRegion k f).claims = s.claims := by unfold State.modRegion; split <;> rfl
@[simp] theorem modRegion_kills (s : State) (k : Nat) (f : Region → Region) : (s.modRegion k f).kills = s.kills := by unfold State.modRegion; split <;> rfl
@[simp] theorem modRegion_barriers (s : State) (k : Nat) (f : Region → Region) : (s.modRegion k f).barriers = s.barriers := by unfold State.modRegion; split <;> rfl
@[simp] theorem modRegion_recs (s : State) (k : Nat) (f : Region → Region) : (s.modRegion k f).recs = s.recs := by unfold State.modRegion; split <;> rfl
@[simp] theorem modRegion_nextRec (s : State) (k : Nat) (f : Region → Region) : (s.modRegion k f).nextRec = s.nextRec := by unfold State.modRegion; split <;> rfl
@[simp] theorem modRegion_copyqs (s : State) (k : Nat) (f : Region → Region) : (s.modRegion k f).copyqs = s.copyqs := by unfold State.modRegion; split <;> rfl
@[simp] theorem modRegion_logs (s : State) (k : Nat) (f : Region → Region) : (s.modRegion k f).logs = s.logs := by unfold State.modRegion; split <;> rfl
@[simp] theorem modRegion_images (s : State) (k : Nat) (f : Region → Region) : (s.modRegion k f).images = s.images := by unfold State.modRegion; split <;> rfl
@[simp] theorem modRegion_ulcmd (s : State) (k : Nat) (f : Region → Region) : (s.modRegion k f).ulcmd = s.ulcmd := by unfold State.modRegion; split <;> rfl
@[simp] theorem modRegion_budget (s : State) (k : Nat) (f : Region → Region) : (s.modRegion k f).budget = s.budget := by unfold State.modRegion; split <;> rfl
@[simp] theorem modRegion_budgetDue (s : State) (k : Nat) (f : Region → Region) : (s.modRegion k f).budgetDue = s.budgetDue := by unfold State.modRegion; split <;> rfl
@[simp] theorem modRegion_pkgNum (s : State) (k : Nat) (f : Region → Region) : (s.modRegion k f).pkgNum = s.pkgNum := by unfold State.modRegion; split <;> rfl
@[simp] theorem modRegion_almanac (s : State) (k : Nat) (f : Region → Region) : (s.modRegion k f).almanac = s.almanac := by unfold State.modRegion; split <;> rfl
@[simp] theorem modRegion_almPend (s : State) (k : Nat) (f : Region → Region) : (s.modRegion k f).almPend = s.almPend := by unfold State.modRegion; split <;> rfl
@[simp] theorem modRegion_readyBits (s : State) (k : Nat) (f : Region → Region) : (s.modRegion k f).readyBits = s.readyBits := by unfold State.modRegion; split <;> rfl
@[simp] theorem modRegion_failedBits (s : State) (k : Nat) (f : Region → Region) : (s.modRegion k f).failedBits = s.failedBits := by unfold State.modRegion; split <;> rfl
@[simp] theorem modRegion_links (s : State) (k : Nat) (f : Region → Region) : (s.modRegion k f).links = s.links := by unfold State.modRegion; split <;> rfl
@[simp] theorem modRegion_keys (s : State) (k : Nat) (f : Region → Region) : (s.modRegion k f).keys = s.keys := by unfold State.modRegion; split <;> rfl
@[simp] theorem modRegion_podTable (s : State) (k : Nat) (f : Region → Region) : (s.modRegion k f).podTable = s.podTable := by unfold State.modRegion; split <;> rfl
@[simp] theorem modRegion_planesOut (s : State) (k : Nat) (f : Region → Region) : (s.modRegion k f).planesOut = s.planesOut := by unfold State.modRegion; split <;> rfl
@[simp] theorem modRegion_lastPlane (s : State) (k : Nat) (f : Region → Region) : (s.modRegion k f).lastPlane = s.lastPlane := by unfold State.modRegion; split <;> rfl
@[simp] theorem modRegion_podAcks (s : State) (k : Nat) (f : Region → Region) : (s.modRegion k f).podAcks = s.podAcks := by unfold State.modRegion; split <;> rfl
@[simp] theorem modRegion_sessions (s : State) (k : Nat) (f : Region → Region) : (s.modRegion k f).sessions = s.sessions := by unfold State.modRegion; split <;> rfl
@[simp] theorem modRegion_host (s : State) (k : Nat) (f : Region → Region) : (s.modRegion k f).host = s.host := by unfold State.modRegion; split <;> rfl
@[simp] theorem modRegion_image (s : State) (k : Nat) (f : Region → Region) : (s.modRegion k f).image = s.image := by unfold State.modRegion; split <;> rfl
@[simp] theorem modRegion_leaf (s : State) (k : Nat) (f : Region → Region) : (s.modRegion k f).leaf = s.leaf := by unfold State.modRegion; split <;> rfl
@[simp] theorem modRegion_ekey (s : State) (k : Nat) (f : Region → Region) : (s.modRegion k f).ekey = s.ekey := by unfold State.modRegion; split <;> rfl
@[simp] theorem modRegion_softCount (s : State) (k : Nat) (f : Region → Region) : (s.modRegion k f).softCount = s.softCount := by unfold State.modRegion; split <;> rfl

/-! What an update changes. -/

theorem cell_modCell (s : State) (k j : Nat) (f : Cell → Cell) : (s.modCell k f).cell j = if k = j then f (s.cell k) else s.cell j := by
  simp only [State.cell, State.modCell, State.setCell, get_put]

@[simp] theorem cell_modCell_same (s : State) (k : Nat) (f : Cell → Cell) : (s.modCell k f).cell k = f (s.cell k) := by
  simp [cell_modCell]

theorem helm_modHelm (s : State) (k j : Nat) (f : Helm → Helm) : (s.modHelm k f).helm j = if k = j then f (s.helm k) else s.helm j := by
  simp only [State.helm, State.modHelm, get_put]

@[simp] theorem helm_modHelm_same (s : State) (k : Nat) (f : Helm → Helm) : (s.modHelm k f).helm k = f (s.helm k) := by
  simp [helm_modHelm]

theorem die_modDie (s : State) (k j : Nat) (f : Die → Die) : (s.modDie k f).die j = if k = j then f (s.die k) else s.die j := by
  simp only [State.die, State.modDie, get_put]

@[simp] theorem die_modDie_same (s : State) (k : Nat) (f : Die → Die) : (s.modDie k f).die k = f (s.die k) := by
  simp [die_modDie]

theorem region_modRegion (s : State) (k j : Nat) (f : Region → Region) :
    (s.modRegion k f).regions.find j = if k = j then (s.regions.find k).map f else s.regions.find j := by
  unfold State.modRegion
  split
  · next r h => simp only [find_put, h]; split <;> rfl
  · next h => by_cases hk : k = j
              · subst hk; simp [h]
              · simp [hk]

/-- Two agents share a task context only if they are one agent, where the cell's key is within its die. -/
theorem task_modTask_same (s : State) (a : Agent) (f : TaskCtx → TaskCtx) : (s.modTask a f).task a = f (s.task a) := by
  cases a <;> simp [State.modTask, State.task, Cell.task]

theorem win_modWin_same (s : State) (a : Agent) (f : Win → Win) : (s.modWin a f).win a = (s.win a).map f := by
  simp [State.win, State.modWin, task_modTask_same]

@[simp] theorem task_modDie (s : State) (a : Agent) (d : Nat) (f : Die → Die) : (s.modDie d f).task a = s.task a := by cases a <;> rfl

@[simp] theorem task_modRegion (s : State) (a : Agent) (k : Nat) (f : Region → Region) : (s.modRegion k f).task a = s.task a := by
  cases a <;> simp [State.task, State.cell, State.helm]

@[simp] theorem win_modRegion (s : State) (a : Agent) (k : Nat) (f : Region → Region) : (s.modRegion k f).win a = s.win a := by
  simp [State.win]

/-- A change of one task leaves every other one alone. -/
theorem task_modTask_ne (s : State) {a b : Agent} (f : TaskCtx → TaskCtx) (h : (a = b) → False)
    (hk : ∀ d p t d' p' t', a = .task d p t → b = .task d' p' t' → cellKey d p = cellKey d' p' → t ≠ t') :
    (s.modTask a f).task b = s.task b := by
  cases a with
  | helm n =>
    cases b with
    | helm m =>
      have : n ≠ m := fun e => h (by rw [e])
      simp [State.modTask, State.task, helm_modHelm, this]
    | task d p t => simp [State.modTask, State.task, State.cell]
  | task d p t =>
    cases b with
    | helm m => simp [State.modTask, State.task, State.helm]
    | task d' p' t' =>
      have hk := hk d p t d' p' t' rfl rfl
      simp only [State.modTask, State.task, cell_modCell]
      split
      · next e => simp [Cell.task, get_put, hk e, e]
      · rfl

end Sys2Proof.Machine
end

