-- ==== Sys2Proof/Laws/Fire.lean ====
section
/-! SUPPORT. What firing does, said once: the four outcomes of an instruction's frame, what counting a firing leaves alone,
and what the elementwise instructions deliver. -/

namespace Sys2Proof.Machine

theorem pendingHere_some {s : State} {w : Win} {sl : Slot} (h : s.pendingHere = some (w, sl)) :
    s.win s.here.agent = some w ∧ w.slots[s.here.slot]? = some sl ∧ sl.st = .waiting ∧ w.stopped = false
      ∧ (s.task s.here.agent).st = .active := by
  unfold State.pendingHere State.slotHere at h
  split at h
  · cases h
  · next w' sl' hs =>
    split at hs
    · cases hs
    · next w2 hw =>
      split at hs
      · cases hs
      · next sl2 hsl =>
        cases hs
        split at h
        · next hc => cases h; exact ⟨hw, hsl, hc.1, hc.2.1, hc.2.2⟩
        · cases h

/-- The frame of a meaning, where its slot may still fire. -/
theorem fireWith_pending {s : State} {w : Win} {sl : Slot} (op : Nat) (f : Fmt) (go : State → Agent → Nat → Slot → State)
    (h : s.pendingHere = some (w, sl)) :
    fireWith s op f go =
      match s.verdict s.here.agent op f (lFed s s.here.agent w.baddr w.slots.length s.here.slot) sl with
      | .wait => .next s
      | .dead => .next s
      | .null => .next ((s.dropChl s.here.agent op f sl).fireNull s.here.agent s.here.slot op f)
      | .pass k => .next (((s.dropChl s.here.agent op f sl).passChl s.here.agent op f sl).firePass s.here.agent s.here.slot op f k)
      | .go => if s.canGo s.here.agent op f w s.here.slot then
          .next (go s.fired s.here.agent s.here.slot sl) else .next s := by
  obtain ⟨hw, hsl, h1, h2, h3⟩ := pendingHere_some h
  unfold fireWith
  simp [hw, hsl, h1, h2, h3, State.fired] <;>
    cases s.verdict s.here.agent op f (lFed s s.here.agent w.baddr w.slots.length s.here.slot) sl <;> rfl

/-- An instruction that is ready fires, and its meaning takes effect. -/
theorem fireWith_ready {s : State} {op : Nat} {f : Fmt} (go : State → Agent → Nat → Slot → State) (h : s.ready op f = true) :
    ∃ w sl, s.slotHere = some (w, sl) ∧ fireWith s op f go = .next (go s.fired s.here.agent s.here.slot sl) := by
  unfold State.ready at h
  split at h
  · cases h
  · next w sl hp =>
    simp only [State.judged, hp, Bool.and_eq_true, beq_iff_eq, Option.some.injEq] at h
    obtain ⟨hw, hsl, -⟩ := pendingHere_some hp
    refine ⟨w, sl, by simp [State.slotHere, hw, hsl], ?_⟩
    rw [fireWith_pending op f go hp, h.1]
    simp [h.2]

/-- An instruction whose effect is one token delivers it. -/
theorem fireTok_ready {s : State} {op : Nat} {f : Fmt} (lat : Nat) (res : State → Agent → Nat → Slot → Token × Nat)
    (h : s.ready op f = true) :
    ∃ w sl, s.slotHere = some (w, sl) ∧
      fireTok s op f lat res = .next (s.delivered op f lat (res s s.here.agent s.here.slot sl)) := by
  obtain ⟨w, sl, h1, h2⟩ := fireWith_ready (fun t a i sl =>
    (t.modWin a fun w => w.raise (res s a i sl).2).sendBoth a i op f (res s a i sl).1 lat) h
  exact ⟨w, sl, h1, h2⟩

theorem operand_eq {s : State} {w : Win} {sl : Slot} (h : s.slotHere = some (w, sl)) (x : Fld) : s.operand x = sl.tok x := by
  simp [State.operand, h]

/-! ## Instructions that compute each element on its own -/

theorem mapRes_pure {g : Nat → Nat → Res} {r : Nat → Nat × Nat} (h : ∀ n a, (g n a).bits = (r a).1 ∧ (g n a).flags = (r a).2)
    (l : List Nat) (gen : Nat) :
    (mapRes g l gen).1 = (l.map r).map (·.1) ∧ (mapRes g l gen).2.1 = ((l.map r).map (·.2)).foldr (· ||| ·) 0 := by
  induction l generalizing gen with
  | nil => exact ⟨rfl, rfl⟩
  | cons a t ih => simp [mapRes, h gen a, ih (g gen a).gen]

theorem zipRes_pure {g : Nat → Nat → Nat → Res} {r : Nat → Nat → Nat × Nat}
    (h : ∀ n a b, (g n a b).bits = (r a b).1 ∧ (g n a b).flags = (r a b).2) (l q : List Nat) (gen : Nat) :
    (zipRes g l q gen).1 = (List.zipWith r l q).map (·.1) ∧
      (zipRes g l q gen).2.1 = ((List.zipWith r l q).map (·.2)).foldr (· ||| ·) 0 := by
  induction l generalizing q gen with
  | nil => cases q <;> exact ⟨rfl, rfl⟩
  | cons a t ih =>
    cases q with
    | nil => exact ⟨rfl, rfl⟩
    | cons b u => simp [zipRes, h gen a b, ih u (g gen a b).gen]

theorem zip3Res_pure {g : Nat → Nat → Nat → Nat → Res} {r : Nat → Nat → Nat → Nat × Nat}
    (h : ∀ n a b c, (g n a b c).bits = (r a b c).1 ∧ (g n a b c).flags = (r a b c).2) (l q p : List Nat) (gen : Nat) :
    (zip3Res g l q p gen).1 = (List.zipWith (fun (e : Nat × Nat) c => r e.1 e.2 c) (List.zip l q) p).map (·.1) ∧
      (zip3Res g l q p gen).2.1 =
        ((List.zipWith (fun (e : Nat × Nat) c => r e.1 e.2 c) (List.zip l q) p).map (·.2)).foldr (· ||| ·) 0 := by
  induction l generalizing q p gen with
  | nil => cases q <;> cases p <;> exact ⟨rfl, rfl⟩
  | cons a t ih =>
    cases q with
    | nil => cases p <;> exact ⟨rfl, rfl⟩
    | cons b u =>
      cases p with
      | nil => exact ⟨rfl, rfl⟩
      | cons c v => simp [zip3Res, h gen a b c, ih u v (g gen a b c).gen]

/-- A lanewise instruction of one operand whose results need no draw. -/
theorem lift1_ready {s : State} {op : Nat} {f : Fmt} (lat : Nat) (it ot : Option Ty) {g : Nat → Nat → Res} {r : Nat → Nat × Nat}
    (hg : ∀ n a, (g n a).bits = (r a).1 ∧ (g n a).flags = (r a).2) (h : s.ready op f = true) :
    lift1 s op f lat it ot g = .next (s.delivered op f lat (s.each1 f.sh (outTy f it) (outTy f ot) r)) := by
  unfold lift1
  obtain ⟨w, sl, h1, h2⟩ := fireTok_ready lat _ h
  rw [h2]
  unfold State.each1 State.elems resultTok
  rw [operand_eq h1]
  by_cases hv : f.sh = .vector
  · have := mapRes_pure hg ((sl.tok .l).lanes (outTy f it)) (s.genOf s.here.agent s.here.slot)
    simp [hv, this]
  · simp [hv, hg]

/-- A lanewise instruction of two operands whose results need no draw. -/
theorem lift2_ready {s : State} {op : Nat} {f : Fmt} (lat : Nat) (ot : Option Ty) {g : Nat → Nat → Nat → Res}
    {r : Nat → Nat → Nat × Nat} (hg : ∀ n a b, (g n a b).bits = (r a b).1 ∧ (g n a b).flags = (r a b).2)
    (h : s.ready op f = true) :
    lift2 s op f lat ot g = .next (s.delivered op f lat (s.each2 f.sh f.ty (outTy f ot) r)) := by
  unfold lift2
  obtain ⟨w, sl, h1, h2⟩ := fireTok_ready lat _ h
  rw [h2]
  unfold State.each2 State.elems resultTok
  rw [operand_eq h1, operand_eq h1]
  by_cases hv : f.sh = .vector
  · have := zipRes_pure hg ((sl.tok .l).lanes f.ty) ((sl.tok .r).lanes f.ty) (s.genOf s.here.agent s.here.slot)
    simp [hv, this]
  · simp [hv, hg]

/-- A lanewise instruction of three operands whose results need no draw. -/
theorem lift3_ready {s : State} {op : Nat} {f : Fmt} (lat : Nat) {g : Nat → Nat → Nat → Nat → Res}
    {r : Nat → Nat → Nat → Nat × Nat} (hg : ∀ n a b c, (g n a b c).bits = (r a b c).1 ∧ (g n a b c).flags = (r a b c).2)
    (h : s.ready op f = true) :
    lift3 s op f lat g = .next (s.delivered op f lat (s.each3 f.sh f.ty r)) := by
  unfold lift3
  obtain ⟨w, sl, h1, h2⟩ := fireTok_ready lat _ h
  rw [h2]
  unfold State.each3 State.elems resultTok
  rw [operand_eq h1, operand_eq h1, operand_eq h1]
  by_cases hv : f.sh = .vector
  · have := zip3Res_pure hg ((sl.tok .l).lanes f.ty) ((sl.tok .r).lanes f.ty) ((sl.tok .x).lanes f.ty)
      (s.genOf s.here.agent s.here.slot)
    simp [hv, this]
  · simp [hv, hg]

end Sys2Proof.Machine
end

