-- ==== Sys2Proof/Tests/Slice0.lean ====
section
/-! SUPPORT. The decoder on words written out from the encoding tables (R213-R221), one for each constructor; a witness for the hypotheses
of each statement; ill-formed terms that are refused; a few results of one step, worked out by hand from the rules. -/

namespace Sys2Proof.Tests

-- One proof after the other: proofs by kernel evaluation that wait for each other would each hold a thread.
set_option Elab.async false

open Sys2Proof Sys2Proof.Machine

/-- Words of the dataflow instructions. -/
def dataflowWords : List (Nat × Instr) :=
  [(0x010000000020020C, .mov ⟨.always, .i8, .scalar, .rne, false, 0, 0, 0, .sreg 0, .slot 3 .l⟩),
   (0x0218000020000204, .movi ⟨.always, .i64, .scalar, 8192, .low, .slot 1 .l⟩),
   (0x0300000000242000, .nullTok ⟨.always, .i8, .scalar, .rne, false, 0, 0, 0, .vreg 1, .none⟩),
   (0x0400000000102000, .readReg ⟨.always, .i8, .scalar, .rne, false, 0, 0, 0, .slot 1 .l, .none⟩),
   (0x0500000000105800, .sel ⟨.always, .i8, .scalar, .rne, false, 0, 0, 0, .slot 2 .x, .none⟩),
   (0x0601000000504000, .inTok ⟨.always, .i8, .vector, .rne, false, 0, 0, 1, .slot 2 .l, .none⟩),
   (0x0700000000B06000, .stopTok ⟨.always, .i8, .scalar, .rne, false, 0, 0, 2, .chan 3 false, .none⟩),
   (0x0800000000503204, .tokt ⟨.always, .i8, .scalar, .rne, false, 0, 0, 1, .slot 1 .p, .slot 1 .l⟩),
   (0x090000000020A000, .color ⟨.always, .i8, .scalar, .rne, false, 0, 0, 0, .sreg 5, .none⟩)]

theorem test_decode_dataflow : ∀ p ∈ dataflowWords, decodeTableWord 64 p.1 = some p.2 := by decide

/-- Words of the integer instructions. -/
def integerWords : List (Nat × Instr) :=
  [(0x1010100000202000, .add ⟨.always, .i32, .scalar, .rne, true, 0, 0, 0, .sreg 1, .none⟩),
   (0x110D000000240000, .sub ⟨.always, .n16, .vector, .rne, false, 0, 0, 0, .vreg 0, .none⟩),
   (0x1218000000102000, .mul ⟨.always, .i64, .scalar, .rne, false, 0, 0, 0, .slot 1 .l, .none⟩),
   (0x1318000000102000, .mulh ⟨.always, .i64, .scalar, .rne, false, 0, 0, 0, .slot 1 .l, .none⟩),
   (0x1400000000102000, .div ⟨.always, .i8, .scalar, .rne, false, 0, 0, 0, .slot 1 .l, .none⟩),
   (0x1514000000102000, .rem ⟨.always, .n32, .scalar, .rne, false, 0, 0, 0, .slot 1 .l, .none⟩),
   (0x1608000000102000, .min ⟨.always, .i16, .scalar, .rne, false, 0, 0, 0, .slot 1 .l, .none⟩),
   (0x1704000000102000, .max ⟨.always, .n8, .scalar, .rne, false, 0, 0, 0, .slot 1 .l, .none⟩),
   (0x1810000000102000, .abs ⟨.always, .i32, .scalar, .rne, false, 0, 0, 0, .slot 1 .l, .none⟩),
   (0x1910000000102000, .neg ⟨.always, .i32, .scalar, .rne, false, 0, 0, 0, .slot 1 .l, .none⟩),
   (0x1A3C000000102000, .and ⟨.always, .pred, .scalar, .rne, false, 0, 0, 0, .slot 1 .l, .none⟩),
   (0x1B1C000000102000, .or ⟨.always, .n64, .scalar, .rne, false, 0, 0, 0, .slot 1 .l, .none⟩),
   (0x1C00000000102000, .xor ⟨.always, .i8, .scalar, .rne, false, 0, 0, 0, .slot 1 .l, .none⟩),
   (0x1D08000000102000, .not ⟨.always, .i16, .scalar, .rne, false, 0, 0, 0, .slot 1 .l, .none⟩),
   (0x1E10000000102000, .shl ⟨.always, .i32, .scalar, .rne, false, 0, 0, 0, .slot 1 .l, .none⟩),
   (0x1F14000000102000, .shr ⟨.always, .n32, .scalar, .rne, false, 0, 0, 0, .slot 1 .l, .none⟩),
   (0x2010000000102000, .sra ⟨.always, .i32, .scalar, .rne, false, 0, 0, 0, .slot 1 .l, .none⟩),
   (0x2104000000102000, .rot ⟨.always, .n8, .scalar, .rne, false, 0, 0, 0, .slot 1 .l, .none⟩),
   (0x2218000000102000, .clz ⟨.always, .i64, .scalar, .rne, false, 0, 0, 0, .slot 1 .l, .none⟩),
   (0x2318000000102000, .popc ⟨.always, .i64, .scalar, .rne, false, 0, 0, 0, .slot 1 .l, .none⟩)]
  ++ [(0x240C000000102000, .brev ⟨.always, .n16, .scalar, .rne, false, 0, 0, 0, .slot 1 .l, .none⟩),
   (0x2510000001502000, .bext ⟨.always, .i32, .scalar, .rne, false, 0, 0, 5, .slot 1 .l, .none⟩),
   (0x2614000001D02000, .bins ⟨.always, .n32, .scalar, .rne, false, 0, 0, 7, .slot 1 .l, .none⟩),
   (0x2710000000102000, .madd ⟨.always, .i32, .scalar, .rne, false, 0, 0, 0, .slot 1 .l, .none⟩),
   (0x2818000000D02000, .lea ⟨.always, .i64, .scalar, .rne, false, 0, 0, 3, .slot 1 .l, .none⟩),
   (0x2910000000909000, .cmp ⟨.always, .i32, .scalar, .rne, false, 0, 0, 2, .slot 4 .p, .none⟩),
   (0x2A10000000070418, .addi ⟨.always, .i32, .scalar, 7, .low, .sreg 6⟩),
   (0x2B100000000F0204, .andi ⟨.always, .i32, .scalar, 15, .low, .slot 1 .l⟩),
   (0x2C14000000010204, .ori ⟨.always, .n32, .scalar, 1, .low, .slot 1 .l⟩),
   (0x2D08000000030204, .xori ⟨.always, .i16, .scalar, 3, .low, .slot 1 .l⟩),
   (0x2E18000000010210, .cmpi ⟨.always, .i64, .scalar, 1, .low, .slot 4 .l⟩),
   (0x2F01000000102000, .shfl ⟨.always, .i8, .vector, .rne, false, 0, 0, 0, .slot 1 .l, .none⟩)]

theorem test_decode_integer : ∀ p ∈ integerWords, decodeTableWord 64 p.1 = some p.2 := by decide

/-- Words of the float instructions. -/
def floatWords : List (Nat × Instr) :=
  [(0x3034200000102000, .fadd ⟨.always, .f32, .scalar, .rtz, false, 0, 0, 0, .slot 1 .l, .none⟩),
   (0x312D000000244000, .fsub ⟨.always, .bf16, .vector, .rne, false, 0, 0, 0, .vreg 2, .none⟩),
   (0x3230C00000102000, .fmul ⟨.always, .f16, .scalar, .sto, false, 0, 0, 0, .slot 1 .l, .none⟩),
   (0x3334000000102000, .ffma ⟨.always, .f32, .scalar, .rne, false, 0, 0, 0, .slot 1 .l, .none⟩),
   (0x3434E00000102000, .fdiv ⟨.always, .f32, .scalar, .dyn, false, 0, 0, 0, .slot 1 .l, .none⟩),
   (0x3530000000102000, .fsqrt ⟨.always, .f16, .scalar, .rne, false, 0, 0, 0, .slot 1 .l, .none⟩),
   (0x3620000000102000, .fmin ⟨.always, .e4m3, .scalar, .rne, false, 0, 0, 0, .slot 1 .l, .none⟩),
   (0x3724000000102000, .fmax ⟨.always, .e5m2, .scalar, .rne, false, 0, 0, 0, .slot 1 .l, .none⟩),
   (0x3834000000102000, .fabs ⟨.always, .f32, .scalar, .rne, false, 0, 0, 0, .slot 1 .l, .none⟩),
   (0x3934000000102000, .fneg ⟨.always, .f32, .scalar, .rne, false, 0, 0, 0, .slot 1 .l, .none⟩),
   (0x3A34000000902000, .fcmp ⟨.always, .f32, .scalar, .rne, false, 0, 0, 2, .slot 1 .l, .none⟩),
   (0x3B2C000000102000, .fclass ⟨.always, .bf16, .scalar, .rne, false, 0, 0, 0, .slot 1 .l, .none⟩),
   (0x3C34000001902000, .cvt ⟨.always, .f32, .scalar, .rne, false, 0, 0, 6, .slot 1 .l, .none⟩),
   (0x3D34000000102000, .frint ⟨.always, .f32, .scalar, .rne, false, 0, 0, 0, .slot 1 .l, .none⟩),
   (0x3E34000000102000, .fscale ⟨.always, .f32, .scalar, .rne, false, 0, 0, 0, .slot 1 .l, .none⟩),
   (0x3F343F8000000204, .faddi ⟨.always, .f32, .scalar, 1065353216, .low, .slot 1 .l⟩),
   (0x4034400000000204, .fmuli ⟨.always, .f32, .scalar, 1073741824, .low, .slot 1 .l⟩),
   (0x462C000000102000, .fexp2 ⟨.always, .bf16, .scalar, .rne, false, 0, 0, 0, .slot 1 .l, .none⟩)]

theorem test_decode_float : ∀ p ∈ floatWords, decodeTableWord 64 p.1 = some p.2 := by decide

/-- Words of the lane instructions. -/
def laneWords : List (Nat × Instr) :=
  [(0x4111000000200000, .red ⟨.always, .i32, .vector, .rne, false, 0, 0, 0, .sreg 0, .none⟩),
   (0x4211000000240000, .pfx ⟨.always, .i32, .vector, .rne, false, 0, 0, 0, .vreg 0, .none⟩),
   (0x4311000008D02000, .lane ⟨.always, .i32, .vector, .rne, false, 0, 0, 35, .slot 1 .l, .none⟩),
   (0x4401000001102000, .vins ⟨.always, .i8, .vector, .rne, false, 0, 0, 4, .slot 1 .l, .none⟩),
   (0x4501000000102000, .vidx ⟨.always, .i8, .vector, .rne, false, 0, 0, 0, .slot 1 .l, .none⟩)]

theorem test_decode_lane : ∀ p ∈ laneWords, decodeTableWord 64 p.1 = some p.2 := by decide

/-- Words of the digit instructions. -/
def digitWords : List (Nat × Instr) :=
  [(0x5036000000102000, .dsrc ⟨.always, .f32, .digit, .rne, false, 0, 0, 0, .slot 1 .l, .none⟩),
   (0x5136000000640000, .dsink ⟨.always, .f32, .digit, .rne, false, 0, 0, 1, .vreg 0, .none⟩),
   (0x5202000000102000, .dadd ⟨.always, .i8, .digit, .rne, false, 0, 0, 0, .slot 1 .l, .none⟩),
   (0x5302000000102000, .dsub ⟨.always, .i8, .digit, .rne, false, 0, 0, 0, .slot 1 .l, .none⟩),
   (0x5402000000102000, .dmul ⟨.always, .i8, .digit, .rne, false, 0, 0, 0, .slot 1 .l, .none⟩),
   (0x5536000000102000, .ddiv ⟨.always, .f32, .digit, .rne, false, 0, 0, 0, .slot 1 .l, .none⟩),
   (0x5602000000102000, .dsqrt ⟨.always, .i8, .digit, .rne, false, 0, 0, 0, .slot 1 .l, .none⟩),
   (0x5702000000102000, .dfma ⟨.always, .i8, .digit, .rne, false, 0, 0, 0, .slot 1 .l, .none⟩),
   (0x5802020000102000, .drelu ⟨.always, .i8, .digit, .rne, false, 1, 0, 0, .slot 1 .l, .none⟩),
   (0x5902040000102000, .dmax ⟨.always, .i8, .digit, .rne, false, 2, 0, 0, .slot 1 .l, .none⟩),
   (0x5A02040000102000, .dmin ⟨.always, .i8, .digit, .rne, false, 2, 0, 0, .slot 1 .l, .none⟩),
   (0x5B36020000908000, .dthr ⟨.always, .f32, .digit, .rne, false, 1, 0, 2, .slot 4 .l, .none⟩),
   (0x5C02000000102000, .dexp2 ⟨.always, .i8, .digit, .rne, false, 0, 0, 0, .slot 1 .l, .none⟩),
   (0x5D02000000102000, .dacc ⟨.always, .i8, .digit, .rne, false, 0, 0, 0, .slot 1 .l, .none⟩),
   (0x5E02000000502000, .dred ⟨.always, .i8, .digit, .rne, false, 0, 0, 1, .slot 1 .l, .none⟩),
   (0x5F0200003F90A000, .dscl ⟨.always, .i8, .digit, .rne, false, 0, 0, 254, .slot 5 .l, .none⟩)]

theorem test_decode_digit : ∀ p ∈ digitWords, decodeTableWord 64 p.1 = some p.2 := by decide

/-- Words of the matrix instructions. -/
def matrixWords : List (Nat × Instr) :=
  [(0x602C030800102000, .tload ⟨.always, .bf16, .scalar, 3, 2, 0, .slot 1 .l, .none⟩),
   (0x6100000000102000, .tswap ⟨.always, .i8, .scalar, 0, 0, 0, .slot 1 .l, .none⟩),
   (0x6221020000106000, .mmrow ⟨.always, .e4m3, .vector, 2, 0, 0, .slot 3 .l, .none⟩),
   (0x632C000000300604, .mmout ⟨.always, .bf16, .scalar, 0, 0, 0, .chan 0 false, .chan 1 false⟩),
   (0x6400000000400000, .mmzero ⟨.always, .i8, .scalar, 0, 0, 1, .none, .none⟩),
   (0x6500000000102000, .tdir ⟨.always, .i8, .scalar, 0, 0, 0, .slot 1 .l, .none⟩),
   (0x6634000000102000, .tclass ⟨.always, .f32, .scalar, 0, 0, 0, .slot 1 .l, .none⟩),
   (0x6734000000102000, .tfill ⟨.always, .f32, .scalar, 0, 0, 0, .slot 1 .l, .none⟩),
   (0x6800090000102000, .shape ⟨.always, .i8, .scalar, 9, 0, 0, .slot 1 .l, .none⟩),
   (0x6900010000102000, .shapeq ⟨.always, .i8, .scalar, 1, 0, 0, .slot 1 .l, .none⟩)]

theorem test_decode_matrix : ∀ p ∈ matrixWords, decodeTableWord 64 p.1 = some p.2 := by decide

/-- Words of the stream instructions. -/
def streamWords : List (Nat × Instr) :=
  [(0x7000010C00000000, .sbind ⟨.always, .i8, .scalar, 1, 3, 0, .none, .none⟩),
   (0x7100001400000000, .sbar ⟨.always, .i8, .scalar, 0, 5, 0, .none, .none⟩),
   (0x7214010004302000, .scan ⟨.always, .n32, .scalar, 1, 0, 16, .chan 1 false, .none⟩),
   (0x7300000004302000, .isect ⟨.always, .i8, .scalar, 0, 0, 16, .chan 1 false, .none⟩),
   (0x7400000004302000, .unionS ⟨.always, .i8, .scalar, 0, 0, 16, .chan 1 false, .none⟩),
   (0x7500000004302000, .repeatS ⟨.always, .i8, .scalar, 0, 0, 16, .chan 1 false, .none⟩),
   (0x7634010004702000, .sacc ⟨.always, .f32, .scalar, 1, 0, 17, .chan 1 false, .none⟩),
   (0x7734010002302000, .gather ⟨.always, .f32, .scalar, 1, 0, 8, .chan 1 false, .none⟩),
   (0x7834010002000000, .scatter ⟨.always, .f32, .scalar, 1, 0, 8, .none, .none⟩),
   (0x7910010002000000, .scata ⟨.always, .i32, .scalar, 1, 0, 8, .none, .none⟩)]

theorem test_decode_stream : ∀ p ∈ streamWords, decodeTableWord 64 p.1 = some p.2 := by decide

/-- Words of the memory instructions. -/
def memoryWords : List (Nat × Instr) :=
  [(0x80100000C8004208, .ld ⟨.always, .i32, .scalar, 0, 0, 0, .die, .acq, false, 8, .slot 2 .l⟩),
   (0x81180802D0004000, .st ⟨.always, .i64, .scalar, 1, 0, 1, .die, .rel, false, 8, .none⟩),
   (0x82010000C0000480, .ldv ⟨.always, .i8, .vector, 0, 0, 0, .die, .rlx, false, 0, .vreg 0⟩),
   (0x83010000C0000000, .stv ⟨.always, .i8, .vector, 0, 0, 0, .die, .rlx, false, 0, .none⟩),
   (0x84180000C8000404, .ldw ⟨.always, .i64, .scalar, 0, 0, 0, .die, .acq, false, 0, .sreg 1⟩),
   (0x85180000D0000000, .stf ⟨.always, .i64, .scalar, 0, 0, 0, .die, .rel, false, 0, .none⟩),
   (0x86000000C0000000, .clr ⟨.always, .i8, .scalar, 0, 0, 0, .die, .rlx, false, 0, .none⟩),
   (0x87180000C0000204, .aadd ⟨.always, .i64, .scalar, 0, 0, 0, .die, .rlx, false, 0, .slot 1 .l⟩),
   (0x88180000C0000204, .amin ⟨.always, .i64, .scalar, 0, 0, 0, .die, .rlx, false, 0, .slot 1 .l⟩),
   (0x89180000C0000204, .amax ⟨.always, .i64, .scalar, 0, 0, 0, .die, .rlx, false, 0, .slot 1 .l⟩),
   (0x8A180000C0000204, .aand ⟨.always, .i64, .scalar, 0, 0, 0, .die, .rlx, false, 0, .slot 1 .l⟩),
   (0x8B180000C0000204, .aor ⟨.always, .i64, .scalar, 0, 0, 0, .die, .rlx, false, 0, .slot 1 .l⟩),
   (0x8C180000C0000204, .axor ⟨.always, .i64, .scalar, 0, 0, 0, .die, .rlx, false, 0, .slot 1 .l⟩),
   (0x8D180000C0000204, .aswp ⟨.always, .i64, .scalar, 0, 0, 0, .die, .rlx, false, 0, .slot 1 .l⟩),
   (0x8E180000C0000204, .acas ⟨.always, .i64, .scalar, 0, 0, 0, .die, .rlx, false, 0, .slot 1 .l⟩),
   (0x8F340000C0000204, .afadd ⟨.always, .f32, .scalar, 0, 0, 0, .die, .rlx, false, 0, .slot 1 .l⟩),
   (0x90000000E0000204, .fence ⟨.always, .i8, .scalar, 0, 0, 0, .die, .sc, false, 0, .slot 1 .l⟩),
   (0x91180000C8000204, .mwait ⟨.always, .i64, .scalar, 0, 0, 0, .die, .acq, false, 0, .slot 1 .l⟩),
   (0x92000000C0000000, .pref ⟨.always, .i8, .scalar, 0, 0, 0, .die, .rlx, false, 0, .none⟩),
   (0x93000000C0000204, .wback ⟨.always, .i8, .scalar, 0, 0, 0, .die, .rlx, false, 0, .slot 1 .l⟩)]
  ++ [(0x94000000C0000204, .inval ⟨.always, .i8, .scalar, 0, 0, 0, .die, .rlx, false, 0, .slot 1 .l⟩),
   (0x95180000D0000204, .rput ⟨.always, .i64, .scalar, 0, 0, 0, .die, .rel, false, 0, .slot 1 .l⟩),
   (0x96180000C8000204, .rget ⟨.always, .i64, .scalar, 0, 0, 0, .die, .acq, false, 0, .slot 1 .l⟩),
   (0x97000000D0000204, .rfree ⟨.always, .i8, .scalar, 0, 0, 0, .die, .rel, false, 0, .slot 1 .l⟩),
   (0x98000000C0000204, .rstat ⟨.always, .i8, .scalar, 0, 0, 0, .die, .rlx, false, 0, .slot 1 .l⟩)]

theorem test_decode_memory : ∀ p ∈ memoryWords, decodeTableWord 64 p.1 = some p.2 := by decide

/-- Words of the control instructions. -/
def controlWords : List (Nat × Instr) :=
  [(0xA000000000030000, .br ⟨.always, 0, 0, 3, 0, .none⟩),
   (0xA108000000000000, .bri ⟨.always, 1, 0, 0, 0, .none⟩),
   (0xA200000000080204, .call ⟨.always, 0, 0, 8, 0, .slot 1 .l⟩),
   (0xA300000000000204, .calli ⟨.always, 0, 0, 0, 0, .slot 1 .l⟩),
   (0xA400000000000000, .ret ⟨.always, 0, 0, 0, 0, .none⟩),
   (0xA500000000000204, .spawn ⟨.always, 0, 0, 0, 0, .slot 1 .l⟩),
   (0xA600000000000000, .retc ⟨.always, 0, 0, 0, 0, .none⟩),
   (0xA748000000000000, .halt ⟨.onTrue, 1, 0, 0, 0, .none⟩),
   (0xA800000000010000, .yield ⟨.always, 0, 0, 1, 0, .none⟩),
   (0xA900000000010000, .waypt ⟨.always, 0, 0, 1, 0, .none⟩),
   (0xAA00000000050000, .trap ⟨.always, 0, 0, 5, 0, .none⟩),
   (0xAB00000000000000, .brk ⟨.always, 0, 0, 0, 0, .none⟩)]

theorem test_decode_control : ∀ p ∈ controlWords, decodeTableWord 64 p.1 = some p.2 := by decide

/-- Words of the sync instructions. -/
def syncWords : List (Nat × Instr) :=
  [(0xB000000000108000, .barw ⟨.always, 0, 0, .slot 4 .l, .none⟩),
   (0xB100000000000000, .bara ⟨.always, 0, 0, .none, .none⟩),
   (0xB200000000108000, .bart ⟨.always, 0, 0, .slot 4 .l, .none⟩),
   (0xB300000000102000, .semw ⟨.always, 0, 0, .slot 1 .l, .none⟩),
   (0xB400000000102000, .sema ⟨.always, 0, 0, .slot 1 .l, .none⟩),
   (0xB500000000102000, .semr ⟨.always, 0, 0, .slot 1 .l, .none⟩),
   (0xB600000000C00000, .evt ⟨.always, 0, 3, .none, .none⟩)]

theorem test_decode_sync : ∀ p ∈ syncWords, decodeTableWord 64 p.1 = some p.2 := by decide

/-- Words of the engine instructions. -/
def engineWords : List (Nat × Instr) :=
  [(0xC000000000400000, .copy ⟨.always, .i8, .scalar, 0, 0, 1, .none, .none⟩),
   (0xC100000000502000, .batch ⟨.always, .i8, .scalar, 0, 0, 1, .slot 1 .l, .none⟩),
   (0xC200000000502000, .waitb ⟨.always, .i8, .scalar, 0, 0, 1, .slot 1 .l, .none⟩),
   (0xC300000000102000, .launch ⟨.always, .i8, .scalar, 0, 0, 0, .slot 1 .l, .none⟩),
   (0xC400000000102000, .splice ⟨.always, .i8, .scalar, 0, 0, 0, .slot 1 .l, .none⟩),
   (0xC500000000102000, .cancelLaunch ⟨.always, .i8, .scalar, 0, 0, 0, .slot 1 .l, .none⟩),
   (0xC500000010102000, .cancelCopies ⟨.always, .i8, .scalar, 0, 0, 64, .slot 1 .l, .none⟩),
   (0xC600000000102000, .qstat ⟨.always, .i8, .scalar, 0, 0, 0, .slot 1 .l, .none⟩),
   (0xC700000000102000, .cstat ⟨.always, .i8, .scalar, 0, 0, 0, .slot 1 .l, .none⟩)]

theorem test_decode_engine : ∀ p ∈ engineWords, decodeTableWord 64 p.1 = some p.2 := by decide

/-- Words of the system instructions. -/
def systemWords : List (Nat × Instr) :=
  [(0xD000030000102000, .csrr ⟨.always, 3, 0, .slot 1 .l, .none⟩),
   (0xD100030000000000, .csrw ⟨.always, 3, 0, .none, .none⟩),
   (0xD200000000502000, .mailr ⟨.always, 0, 1, .slot 1 .l, .none⟩),
   (0xD300000000102000, .resume ⟨.always, 0, 0, .slot 1 .l, .none⟩),
   (0xD400000000102000, .abort ⟨.always, 0, 0, .slot 1 .l, .none⟩),
   (0xD500000000102000, .chload ⟨.always, 0, 0, .slot 1 .l, .none⟩),
   (0xD600000000102000, .chact ⟨.always, 0, 0, .slot 1 .l, .none⟩),
   (0xD700000000102000, .preempt ⟨.always, 0, 0, .slot 1 .l, .none⟩),
   (0xD800000000102000, .cksave ⟨.always, 0, 0, .slot 1 .l, .none⟩),
   (0xD900000000102000, .ckrest ⟨.always, 0, 0, .slot 1 .l, .none⟩),
   (0xDA18000000102000, .tlbi ⟨.always, 6144, 0, .slot 1 .l, .none⟩),
   (0xDB00000000102000, .almr ⟨.always, 0, 0, .slot 1 .l, .none⟩),
   (0xDC00000000102000, .almw ⟨.always, 0, 0, .slot 1 .l, .none⟩),
   (0xDD00000000102000, .reckRdbudget ⟨.always, 0, 0, .slot 1 .l, .none⟩),
   (0xDD10000000102000, .reckWrbudget ⟨.always, 4096, 0, .slot 1 .l, .none⟩),
   (0xDD20000000102000, .reckRdctr ⟨.always, 8192, 0, .slot 1 .l, .none⟩),
   (0xDE00000000102000, .sound ⟨.always, 0, 0, .slot 1 .l, .none⟩),
   (0xDF00000000102000, .idle ⟨.always, 0, 0, .slot 1 .l, .none⟩),
   (0xE000000000102000, .attest ⟨.always, 0, 0, .slot 1 .l, .none⟩)]

theorem test_decode_system : ∀ p ∈ systemWords, decodeTableWord 64 p.1 = some p.2 := by decide


/-! ## States in which one instruction stands -/

/-- The state in which the next instruction is the one of a word, placed as `State.placeWord` places it. -/
def placed (w : Nat) : State :=
  { State.reset.placeWord w with here := { agent := if 0xD0 ≤ fieldN w 63 56 then .helm 256 else .task 0 0 0, slot := 0 } }

/-- A placed state with the token of an operand field replaced. -/
def withTok (fl : Fld) (t : Token) (s : State) : State :=
  s.setSlot s.here.agent 0 fun sl => sl.setFld fl { got := true, q := [{ tok := t, at0 := 0 }], skip := 0 }

/-- A placed state whose chart owns shape record `n`, with these words. -/
def withShape (n : Nat) (p : List Word) (s : State) : State :=
  s.modCell 0 fun c => { c.modCctx 0 fun x => { x with shapes := [n] } with shapes := [(n, p)] }

/-- The state after an instruction. -/
def after (i : Instr) (s : State) : State := match exec i s with | .next t => t | _ => State.reset

/-- Is the placed instruction ready? -/
def isReady (p : Nat × Instr) : Bool := match opFields p.2 with | some (op, f) => (placed p.1).ready op f | none => false

/-- Is it ready in a state made from the placed one? -/
def readyIn (g : State → State) (p : Nat × Instr) : Bool :=
  match opFields p.2 with | some (op, f) => (g (placed p.1)).ready op f | none => false

/-! ## Witnesses: every constructor's instruction is ready somewhere -/

/-- DataflowTokens and TokensAndInputs. -/
theorem witness_ready_dataflow : ∀ p ∈ dataflowWords, isReady p = true := by decide +kernel
/-- IntegerArithmetic, IntegerDivision, LogicAndShifts and BitFields. -/
theorem witness_ready_integer : ∀ p ∈ integerWords, isReady p = true := by decide +kernel
/-- FloatArithmetic, FloatSelection and FloatConversion. -/
theorem witness_ready_float : ∀ p ∈ floatWords, isReady p = true := by decide +kernel
/-- LaneInstructions. -/
theorem witness_ready_lane : ∀ p ∈ laneWords, isReady p = true := by decide +kernel
/-- DigitOperatorsFire. -/
theorem witness_ready_digit : ∀ p ∈ digitWords, isReady p = true := by decide +kernel
/-- MatrixInstructions, ShapeRecords and AccessInstructions (directory). -/
theorem witness_ready_matrix : ∀ p ∈ matrixWords, isReady p = true := by decide +kernel
/-- StreamInstructions. -/
theorem witness_ready_stream : ∀ p ∈ streamWords, isReady p = true := by decide +kernel
/-- AccessInstructions and FenceAndPrefetch. -/
theorem witness_ready_memory : ∀ p ∈ memoryWords, isReady p = true := by decide +kernel
/-- ControlInstructions and ColoursAndBreak. -/
theorem witness_ready_control : ∀ p ∈ controlWords, isReady p = true := by decide +kernel
/-- Barriers, AccessInstructions (semaphores) and LateOperationsFire. -/
theorem witness_ready_sync : ∀ p ∈ syncWords, isReady p = true := by decide +kernel
/-- LateOperationsFire and ReadsAndWaits. -/
theorem witness_ready_engine : ∀ p ∈ engineWords, isReady p = true := by decide +kernel
/-- LateOperationsFire and ReadsAndWaits. -/
theorem witness_ready_system : ∀ p ∈ systemWords, isReady p = true := by decide +kernel

/-- TokensAndInputs: a token on IN's channel, and a NULL there. -/
theorem witness_inputs :
    ((placed 0x0601000000504000).fired.inToken (.task 0 0 0) 0 1).map Token.isNull = some false ∧
    (let s := (placed 0x0601000000504000).modCell 0 fun c => { c with inbox := [(1, [{ tok := nullToken, at0 := 0 }])] }
     s.ready 0x06 (.g ⟨.always, .i8, .vector, .rne, false, 0, 0, 1, .slot 2 .l, .none⟩) = true ∧
     (s.fired.inToken (.task 0 0 0) 0 1).map Token.isNull = some true) := by decide +kernel

/-- RedSum: an add of an integer type without SAT, and CMP with a condition that exists. -/
theorem witness_red :
    isReady (0x4111000000102000, .red ⟨.always, .i32, .vector, .rne, false, 0, 0, 0, .slot 1 .l, .none⟩) = true ∧
    Ty.i32.isInt = true ∧ (integerWords.any fun p => match p.2 with | .cmp f => decide (f.aux.toNat % 8 < 6) | _ => false) = true := by decide +kernel

/-- A vector token of zeros. -/
def vecToken : Token := { kind := .vector, stop := 0, color := 0, payload := 0 }

/-- LogicAndShifts: SHL with SAT. FloatConversion: FSCALE of lanes by a word and by a vector. -/
theorem witness_shift_and_scale :
    isReady (0x1E10100000102000, .shl ⟨.always, .i32, .scalar, .rne, true, 0, 0, 0, .slot 1 .l, .none⟩) = true ∧
    isReady (0x3E35000000102000, .fscale ⟨.always, .f32, .vector, .rne, false, 0, 0, 0, .slot 1 .l, .none⟩) = true ∧
    ((placed 0x3E35000000102000).operand .r).kind = .word ∧
    readyIn (withTok .r vecToken) (0x3E35000000102000, .fscale ⟨.always, .f32, .vector, .rne, false, 0, 0, 0, .slot 1 .l, .none⟩) = true ∧
    ((withTok .r vecToken (placed 0x3E35000000102000)).operand .r).kind = .vector := by decide +kernel

/-- Do the digit operands of a placed operator offer heads when it fires, with no fault held? -/
def offersHeads (p : Nat × Instr) : Bool :=
  match opFields p.2 with
  | some (op, f) => ((placed p.1).fired.task (placed p.1).here.agent).fault == none && (digitFields op f).all fun fl =>
      match (placed p.1).offersDigit op f fl with | some y => y.tok.kind == .head && y.tok.stop == 0 | none => false
  | none => false

/-- DigitOperatorsFire: heads at every operator, and a word at DSINK. -/
theorem witness_digit_heads : ∀ p ∈ digitWords, offersHeads p = true := by decide +kernel

theorem witness_digit_kind :
    let f : FmtG := ⟨.always, .f32, .digit, .rne, false, 0, 0, 1, .vreg 0, .none⟩
    let s := withTok .l (wordTok 5) (placed 0x5136000000640000)
    s.ready 0x51 (.g f) = true ∧ digitFields 0x51 (.g f) = [.l] ∧
    (s.offersDigit 0x51 (.g f) .l).map (fun y => notDigit y.tok) = some true := by decide +kernel

/-! ## Witnesses: matrix, shapes, streams -/

/-- A record of rank 2 with N0 + 1 = 1 and N1 + 1 = 32. -/
def tileShape : List Word := [0, 0x04000000001F0000, 0, 0]

/-- Does a placed instruction find its pattern (or not) and have no kept result? -/
def findsPattern (sr : Nat) (s : State) : Bool :=
  (s.fired.keptAt s.here.agent 0).isNone && (match s.fired.patternOf s.here.agent sr 0 with | .ok _ => true | .error _ => false)

theorem witness_matrix_load :
    readyIn (withShape 3 tileShape) (0x602C030800102000, .tload ⟨.always, .bf16, .scalar, 3, 2, 0, .slot 1 .l, .none⟩) = true ∧
    findsPattern 3 (withShape 3 tileShape (placed 0x602C030800102000)) = true ∧
    findsPattern 3 (placed 0x602C030800102000) = false ∧
    readyIn (withShape 2 tileShape) (0x6221020000106000, .mmrow ⟨.always, .e4m3, .vector, 2, 0, 0, .slot 3 .l, .none⟩) = true ∧
    findsPattern 2 (withShape 2 tileShape (placed 0x6221020000106000)) = true ∧
    ((placed 0x6221020000106000).operand .l).stop = 0 ∧
    readyIn (withTok .l (stopToken 2)) (0x6221020000106000, .mmrow ⟨.always, .e4m3, .vector, 2, 0, 0, .slot 3 .l, .none⟩) = true ∧
    ((withTok .l (stopToken 2) (placed 0x6221020000106000)).operand .l).stop = 2 := by decide +kernel

/-- The state of a fetch of a local tile under way. -/
def loading : State :=
  (State.reset.modCell 0 fun c => { c with
    tiles := [(0, { Tile.fresh with owner := some 1, desc := 0x4000000000000000 })]
    cctxs := [(0, { CfgCtx.fresh with st := .active, region := 1, tiles := [0x2000000000000000] })]
    mat := { Matrix.fresh with load := some ⟨0, 0, 1, ⟨.always, .bf16, .scalar, 3, 2, 0, .slot 1 .l, .none⟩,
      [0, 0x24000000001F0000, 0, 0], 0, none, false⟩ } })

/-- MatrixInstructions: do the reads of a fetch come to an end without another package? -/
def loadsDone (s : State) (c : Nat) : Bool :=
  match (s.cell c).mat.load with
  | none => false
  | some l =>
    let a := Agent.task (c / 256) (c % 256) l.task
    let v := s.viaPort a l.f.pt.toNat accPortRd false
    let q := s.loadElems a v (pAs l.pat) l.f.ty [] (loadAddrs l).1
    match q.res with
    | .ok s1 _ =>
      let q2 := s1.loadElems a v (pAs l.pat) .n8 [] (loadAddrs l).2
      (match q2.res with | .ok _ _ => true | _ => false) && q.need.isEmpty && q2.need.isEmpty && l.acc.isNone
    | _ => false

theorem witness_load_completes : loadsDone loading 0 = true ∧ ((loading.cell 0).mat.load).map (·.down) = some false ∧
    (State.reset.cell 0).mat.load = none := by decide +kernel

/-- ShapeRecords: an owned record and one that is not. -/
theorem witness_shapes :
    (((withShape 1 tileShape (placed 0x6900010000102000)).cell 0).cctx 0).shapes.contains 1 = true ∧
    (((placed 0x6900010000102000).cell 0).cctx 0).shapes.contains 1 = false ∧
    (((withShape 9 tileShape (placed 0x6800090000102000)).cell 0).cctx 0).shapes.contains 9 = true ∧
    readyIn (withShape 1 tileShape) (0x6900010000102000, .shapeq ⟨.always, .i8, .scalar, 1, 0, 0, .slot 1 .l, .none⟩) = true ∧
    (withShape 1 tileShape (placed 0x6900010000102000)).fired.recordOf (.task 0 0 0) 1 = .ok tileShape ∧
    (placed 0x6900010000102000).fired.recordOf (.task 0 0 0) 1 = .error scNorec ∧
    readyIn (withShape 9 tileShape) (0x6800090000102000, .shape ⟨.always, .i8, .scalar, 9, 0, 0, .slot 1 .l, .none⟩) = true ∧
    (withShape 9 tileShape (placed 0x6800090000102000)).recordOf (.task 0 0 0) 9 = .ok tileShape ∧
    (placed 0x6800090000102000).fired.recordOf (.task 0 0 0) 9 = .error scNorec :=
  ⟨by decide, by decide, by decide, by decide, rfl, rfl, by decide, rfl, rfl⟩

/-- Does a placed stream instruction find its record? -/
def findsRecord (g : State → State) (p : Nat × Instr) : Bool :=
  match opFields p.2 with
  | some (op, .t f) => (match (g (placed p.1)).fired.strRecord (.task 0 0 0) op f with | .ok _ => true | .error _ => false)
  | _ => false

/-- StreamInstructions: records found and not found; SBIND of a task and of a helm core. -/
theorem witness_streams :
    (∀ p ∈ streamWords.drop 2, (readyIn (withShape 1 [0, 0x2200000000000000, 0, 0]) p
      && findsRecord (withShape 1 [0, 0x2200000000000000, 0, 0]) p) = true) ∧
    findsRecord id (0x7214010004302000, .scan ⟨.always, .n32, .scalar, 1, 0, 16, .chan 1 false, .none⟩) = false ∧
    readyIn (withShape 1 tileShape) (0x7000010C00000000, .sbind ⟨.always, .i8, .scalar, 1, 3, 0, .none, .none⟩) = true ∧
    findsPattern 1 (withShape 1 tileShape (placed 0x7000010C00000000)) = true ∧ findsPattern 1 (placed 0x7000010C00000000) = false := by decide +kernel

/-- A helm core at which a SBIND stands, for a context without a chart. -/
def helmBind : State :=
  { State.reset.modHelm 256 (fun h => { h with
      ready := true, blocks := oneHeader 0x7000010C00000000
      task := placedTask h.task 0x70 (.t ⟨.always, .i8, .scalar, 1, 3, 0, .none, .none⟩) 1 }) with here := { agent := .helm 256, slot := 0 } }

theorem witness_helm_bind :
    let f : FmtT := ⟨.always, .i8, .scalar, 1, 3, 0, .none, .none⟩
    let c := helmBind.fired.newCmd (.helm 256) 0 false f 0
    helmBind.ready 0x70 (.t f) = true ∧ ((helmBind.fired.cell c.cell).cctx c.cctx).st ≠ .active := by decide +kernel

/-! ## Witnesses: memory accesses -/

/-- The state after a LD has opened its access; and the access. -/
def loadOpen : State := after (.ld ⟨.always, .i32, .scalar, 0, 0, 0, .die, .acq, false, 8, .slot 2 .l⟩) (placed 0x80100000C8004208)

/-- An access with one part, of a kind, whose part is in a state; placed alone in flight. -/
def acc1 (k : AKind) (op : Nat) (st : UnitSt) : Access :=
  { id := 7, agent := .task 0 0 0, seq := 1, baddr := 0, log := false, wave := some 0, slot := 0, op := op, kind := k, ty := .i64
    vec := false, sc := 3, ord := .rlx, loc := false, addr := 0x1000, data := 5, exp := 0, committed := false, outs := []
    units := [{ va := 0x1000, size := 8, st := st, pa := 0x1000, attr := attrPlain, val := 5, old := 0, via := none }] }

/-- A state with one access in flight. -/
def flying (k : AKind) (op : Nat) (st : UnitSt) : State := { State.reset with accs := [acc1 k op st], nextAcc := 8 }

/-- AccessOpenedAndAnswered: a block with a slot, ACTIVE. -/
theorem witness_open : (placed 0x80100000C8004208).win (.task 0 0 0) ≠ none ∧
    (((placed 0x80100000C8004208).win (.task 0 0 0)).bind fun w => w.slots[0]?).isSome = true ∧
    ((placed 0x80100000C8004208).task (.task 0 0 0)).st = .active ∧ loadOpen.accs.map (·.op) = [0x80] := by decide +kernel

/-- FenceAndPrefetch: a prefetch whose address has no translation. -/
theorem witness_prefetch :
    let f : FmtM := ⟨.always, .i8, .scalar, 0, 0, 0, .die, .rlx, false, 0, .none⟩
    (match ((placed 0x92000000C0000000).fired.translate (.task 0 0 0) accPref (memAddr f (wordTok 0)) true).1 with
      | .hit _ _ => false | _ => true) = true := by decide +kernel

/-- AtomicResults: each opcode has an access. -/
theorem witness_atomics : ∀ op ∈ [0x87, 0x88, 0x89, 0x8A, 0x8B, 0x8C, 0x8D, 0x8E, 0x8F], (acc1 .rmw op .issued).op = op := by decide +kernel

/-- MemorySteps: accesses in each state that its clauses name. -/
theorem witness_memory_steps :
    (flying .fence 0x90 .issued).acc? 7 = some (acc1 .fence 0x90 .issued) ∧
    (flying .read 0x80 .waiting).acc? 7 = some (acc1 .read 0x80 .waiting) ∧
    (acc1 .read 0x80 .waiting).units[0]? = some { va := 0x1000, size := 8, st := .waiting, pa := 0x1000, attr := attrPlain, val := 5, old := 0, via := none } ∧
    ({ acc1 .range 0x86 .waiting with units := [] } : Access).units = [] ∧
    (let s := flying .read 0x84 .held
     s.mustHold (acc1 .read 0x84 .held) { va := 0x1000, size := 8, st := .held, pa := 0x1000, attr := attrPlain, val := 5, old := 0, via := none } = false) ∧
    (let u : AUnit := { va := 0x1000, size := 8, st := .held, pa := 0x1000, attr := { attrPlain with kind := 1 }, val := 5, old := 0, via := none }
     let x := { acc1 .read 0x84 .held with units := [u] }
     ({ State.reset with accs := [x] } : State).mustHold x u = true) ∧
    ((flying .mwait 0x91 .held).ownBytes (acc1 .mwait 0x91 .held)
      { va := 0x1000, size := 8, st := .held, pa := 0x1000, attr := attrPlain, val := 5, old := 0, via := none }).all Option.isNone = true ∧
    (flying .write 0x81 (.retry 64)).cycle < 64 ∧ 0 ≤ (flying .write 0x81 (.retry 0)).cycle ∧
    (flying .write 0x81 .logHeld).logHeldAt 7 0 = true ∧ (flying .write 0x81 .issued).logHeldAt 7 0 = false := by decide +kernel

/-- MemorySteps: a helm core's held write to a tile of log 1, whose LOG_FULL the mailbox of region 1 holds. -/
theorem witness_trapped :
    (let s := flying .write 0x81 .logHeld
     let f := { s.faultOf (.task 0 0 0) none fcLogFull (256 + s.sliceOf 0x1000 % 64) 0x1000 with xinfo := 1 }
     let s := { s with accs := [{ acc1 .write 0x81 .logHeld with agent := .helm 256 }], logs := [(1, s.newLog 0 2 0 [1])], logown := [(1, 1)]
                       regions := [(1, { placedRegion 0 with mail := some f })] }
     s.unitTrapped 7 0 = true) ∧
    (flying .write 0x81 .logHeld).unitTrapped 7 0 = false := by decide +kernel

/-- The state with one access of the placed task in flight, whose home is ready. -/
def homing (x : Access) : State := { placed 0x80100000C8004208 with accs := [x], nextAcc := 8, readyBits := [65] }

/-- The access with its part on a page of a kind. -/
def onPage (k : Nat) (x : Access) : Access := { x with units := x.units.map fun u => { u with attr := { u.attr with kind := k } } }

/-- Does an access stand alone at its home, with a slot to answer? -/
def standsAlone (x : Access) : Bool :=
  let s := homing x
  match x.units with
  | [u] => s.logs.isEmpty && !x.loc && !isDir x.op && x.agent.die == paDie u.pa && paPkg u.pa == s.pkgNum && s.homeReady u.pa &&
      (s.pinPa (paDie u.pa) u.pa).isNone && (s.ueAt u.pa u.size).isNone && decide (0 < u.size) &&
      u.pa / 128 == (u.pa + u.size - 1) / 128 && (s.srcOf x.agent).lognum == 0 && ((s.win x.agent).bind fun w => w.slots[x.slot]?).isSome
  | _ => false

/-- AccessesComplete: reads that are issued, held and due after a full table. -/
theorem witness_reads_complete :
    (∀ st ∈ [UnitSt.issued, .held, .retry 0], standsAlone (acc1 .read 0x84 st) = true) ∧
    ((homing (acc1 .read 0x84 .held)).mustHold (acc1 .read 0x84 .held) ⟨0x1000, 8, .held, 0x1000, attrPlain, 5, 0, none⟩ = false ∧
      (acc1 .read 0x84 .held).units.map (·.va) = [(acc1 .read 0x84 .held).addr]) := by decide +kernel

/-- AccessesComplete: an MWAIT whose value satisfies it and one whose does not. -/
theorem witness_waits_complete :
    standsAlone (acc1 .mwait 0x91 .held) = true ∧ standsAlone { acc1 .mwait 0x91 .held with data := 0 } = true ∧
    (homing (acc1 .mwait 0x91 .held)).mustHold (acc1 .mwait 0x91 .held) ⟨0x1000, 8, .held, 0x1000, attrPlain, 5, 0, none⟩ = false ∧
    (homing (acc1 .mwait 0x91 .held)).homeNat ⟨0x1000, 8, .held, 0x1000, attrPlain, 5, 0, none⟩ = 0 ∧
    (acc1 .mwait 0x91 .held).satisfied 0 = false ∧ ({ acc1 .mwait 0x91 .held with data := 0 } : Access).satisfied 0 = true := by decide +kernel

/-- AccessesComplete: committed stores issued and held for log room, on a page of each kind. -/
theorem witness_stores_complete :
    (∀ k ∈ [0, 1, 2], ∀ op ∈ [0x81, 0x85], ∀ st ∈ [UnitSt.issued, .logHeld],
      standsAlone (onPage k { acc1 .write op st with committed := true }) = true) ∧
    (∀ l ∈ linesOf 0x1000 8, State.reset.ktag.get l 0 = attrPlain.conf) := by decide +kernel

/-- A local ring of four words in tile 0 of cell 0, and the access that waits at it. -/
def ringing (op filled held : Nat) : State :=
  let x : Access := { acc1 .ring op .held with loc := true, addr := 0, units := [⟨0, 8, .held, 0, attrPlain, 5, 0, none⟩] }
  ({ placed 0x80100000C8004208 with accs := [x], nextAcc := 8, cycle := 1 } : State).modCell 0 fun c =>
    { c with tiles := [(0, { Tile.fresh with owner := some 1, desc := 0x9300060000000000, filled := filled, held := held })] }

/-- AccessesComplete: a walk of a helm core that ends with a leaf; a store whose word is free; a ring with room and with data. -/
theorem witness_waits_end :
    (let x : Access := { acc1 .read 0x80 .walking with agent := .helm 0 }
     let s : State := { State.reset with accs := [x], readyBits := [65] }
     s.earlyBad x = none ∧ (match (s.translate x.agent (accCode x.op) 0x1000 true).1 with
       | .hit pa attr => decide (pa = 0x1000) && x.units.all fun u => (kindBad x { u with pa := pa, attr := attr } attr pa).isNone
       | _ => false) = true ∧ (∀ l ∈ linesOf 0x1000 8, s.chanFailed (128 * l) = false)) ∧
    (∀ st ∈ [UnitSt.retry 0, .held], let s := homing (onPage 1 (acc1 .write 0x81 st))
      s.claims = [] ∧ 512 ∉ s.presence ∧ s.claimsAt (s.sliceOf 4096) = 0 ∧ (s.regions.find (s.regionOf (.task 0 0 0))).map (·.wps) = some []) ∧
    (∀ p ∈ [(0x95, 2, 1), (0x96, 2, 1)], let s := ringing p.1 p.2.1 p.2.2
      s.accs.map s.ringTile = [some (0, 0)] ∧ (∀ x ∈ s.accs, x.born < s.cycle) ∧ field ((s.cell 0).tile 0).desc 55 41 + 1 = 4) := by decide +kernel

/-- MemorySteps: a claim held on word 512 and none; one write that waits for it. -/
theorem witness_claims :
    (∃ c ∈ ({ State.reset with claims := [{ word := 512, agent := .task 0 0 0, seq := 1, acc := 7 }] } : State).claims, c.word = 512) ∧
    (∀ c ∈ (flying .write 0x81 .held).claims, c.word ≠ 512) ∧
    (flying .write 0x81 .held).accs = [] ++ acc1 .write 0x81 .held :: [] ∧ 0x1000 / 8 = 512 := by decide +kernel

/-- FillsArrive: a bank line and a copy of a line that a fill is due for. -/
def fillState : State :=
  let s := State.reset.modCell 0 fun c => c.modTile 0 fun t => { t with lines := [(0, ⟨0, 0, 0, false, true, none, none⟩)] }
  { s.modDie 0 (fun d => { d with rdc := [(5, ⟨0, 0, true, 1, false⟩)] }) with
    regions := [(1, { placedRegion 0 with pins := [⟨0, 0, 0, 3, attrPlain⟩] })] }

theorem witness_fills : fillState.bankHome 0 0 0 = some (3 * 65536, attrPlain) ∧
    (((fillState.cell 0).tile 0).lines.find 0).map (fun l => (l.filling, l.bad)) = some (true, none) ∧
    ((fillState.die 0).rdc.find 5).map (·.filling) = some true ∧ fillState.crossing 0 (paDie (3 * 65536)) = none ∧
    fillState.homeReady (3 * 65536) = false ∧ (∃ n ∈ List.range 96, ({ fillState with readyBits := [n] } : State).homeReady (3 * 65536) = true) := by
  decide +kernel

/-- HomeWrite: the reset state, a source without a log, at the first and the last byte of the address space. -/
theorem witness_home_write : Memory.wf State.reset.mem = true ∧ State.reset.logs = [] ∧ (srcForeign 0).lognum = 0 ∧
    (∀ l ∈ linesOf 0 8, State.reset.ktag.get l 0 = attrPlain.conf) ∧
    (∀ l ∈ linesOf (2 ^ 52 - 1) 1, State.reset.ktag.get l 0 = attrPlain.conf) := by decide +kernel

/-! ## Witnesses: control, barriers, commits -/

/-- ControlInstructions: a window without an exit and one with; block 0 as an address, and 0x1000. -/
theorem witness_exits :
    ((placed 0xA000000000030000).win (.task 0 0 0)).map (·.exit) = some none ∧
    ((after (.br ⟨.always, 0, 0, 3, 0, .none⟩) (placed 0xA000000000030000)).win (.task 0 0 0)).map (·.exit.isSome) = some true ∧
    (let s := placed 0xA108000000000000
     (s.operand .l).kind = .word ∧ (s.operand .l).stop = 0 ∧ (s.operand .l).w64 < 4096 ∧
       (s.operand .l).w64 ∈ blockStarts (s.fired.blockStore (.task 0 0 0))) ∧
    (let s := withTok .l (wordTok 0x1000) (placed 0xA108000000000000)
     s.ready 0xA1 (.c ⟨.always, 1, 0, 0, 0, .none⟩) = true ∧ ¬ (s.operand .l).w64 < 4096) := by decide +kernel

/-- The state after SPAWN has fired, with a pool of colour 2. -/
def spawned (pool : Nat) : State :=
  (after (.spawn ⟨.always, 0, 0, 0, 0, .slot 1 .l⟩) (placed 0xA500000000000204)).modRegion 1 fun r => { r with pool := pool }

/-- ColoursAndBreak: a request, with a free colour and with none. -/
theorem witness_spawn :
    ((spawned 4).regions.find 1).map (fun r => (r.spawnQ, (spawned 4).firstSpawn r.spawnQ, r.pool)) =
      some ([(.task 0 0 0, 0, 0)], some (.task 0 0 0, 0, 0), 4) ∧
    (spawned 4).recorded (.task 0 0 0) 1 0 = none ∧ (spawned 4).choiceDue (.task 0 0 0) 1 0 = false ∧ ((spawned 0).regions.find 1).map (·.pool) = some 0 ∧
    (spawned 4).fieldsAt (.task 0 0 0) 0 0 = some (0xA5, .c ⟨.always, 0, 0, 0, 0, .slot 1 .l⟩) := by decide +kernel

theorem witness_spawn_choice : (spawned 4).choice (.task 0 0 0) 1 0 2 = .done (spawned 4) := rfl

/-- Barriers: not in replay, nothing kept; a phase with its arrivals, and one without. -/
def barrier1 (arr : List (Agent × Option Token)) : Barrier :=
  { Barrier.fresh 3 0 0 1 with n := 1, arrivals := arr }

theorem witness_barriers :
    (let s := (placed 0xB100000000000000).fired
     s.replays (.task 0 0 0) = false ∧ s.keptAt (.task 0 0 0) 0 = none) ∧
    ({ State.reset with barriers := [barrier1 [(.helm 0, none)]] } : State).barriers[0]? = some (barrier1 [(.helm 0, none)]) ∧
    (barrier1 [(.helm 0, none)]).arrivals ≠ [] ∧ (barrier1 [(.helm 0, none)]).n ≤ (barrier1 [(.helm 0, none)]).count ∧
    (barrier1 []).count < (barrier1 []).n ∧ State.reset.agents = [] := by decide +kernel

/-- A BARW of a sum that waits as the only arrival of a phase of one. -/
def waitingBar : State :=
  let s := after (.barw ⟨.always, 0x10, 0, .none, .none⟩) (placed 0xB000100000000000)
  { s with barriers := s.barriers.map fun b => { b with n := 1 } }

/-- Barriers: instructions outside a log with nothing kept, with a value and without, with NOWAIT and without; the one waiting BARW of
a phase that is full. -/
theorem witness_barriers_complete :
    (∀ p ∈ [(0xB000100000000000, 0xB0, (⟨.always, 0x10, 0, .none, .none⟩ : FmtS)), (0xB000000000000000, 0xB0, ⟨.always, 0, 0, .none, .none⟩),
       (0xB100000000000000, 0xB1, ⟨.always, 0, 0, .none, .none⟩), (0xB200000000000000, 0xB2, ⟨.always, 0, 0, .none, .none⟩),
       (0xB200400000000000, 0xB2, ⟨.always, 0x40, 0, .none, .none⟩)],
      let s := placed p.1
      s.logs = [] ∧ (s.fired.setSlot (.task 0 0 0) 0 fun sl => { sl with st := .pending }).keptAt (.task 0 0 0) 0 = none ∧
      s.ready p.2.1 (.s p.2.2) = true ∧ s.fieldsAt (.task 0 0 0) 0 0 = some (p.2.1, .s p.2.2)) ∧
    (let s := waitingBar
     s.logs = [] ∧ s.barriers.map (fun b => (s.barIs (.task 0 0 0) ⟨.always, 0x10, 0, .none, .none⟩ b, b.ctr, b.count, b.n)) = [(true, 0, 1, 1)] ∧
     s.agents = [.task 0 0 0] ∧ (s.task (.task 0 0 0)).st = .active ∧ s.fieldsAt (.task 0 0 0) 0 0 = some (0xB0, .s ⟨.always, 0x10, 0, .none, .none⟩) ∧
     (s.win (.task 0 0 0)).map (fun w => (w.baddr, w.stopped, w.slots.map (·.st), w.ops.find 0)) =
       some (0, false, [.pending], some (.begun 0 1))) := by decide +kernel

/-- CommitOperations: handles that name a region, frozen and not, and one that names none. -/
theorem witness_region_operations :
    let s : State := { State.reset with regions := [(1, placedRegion 0)] }
    let f := (placed 0xA500000000000204).faultOf (.task 0 0 0) none 1 0 0
    (s.regionAt 1).map (·.1) = some 1 ∧ (s.regionAt 1).map (·.2.mail) = some none ∧ (s.regionAt 1).map (·.2.busy) = some false ∧
    s.regionAt 2 = none ∧ keyOfHandle 1 = some 1 ∧ s.opUnderWay (.task 0 0 0) 1 = false ∧ (s.abortWaits (s.gangOf 1)).isNone = true ∧
    (({ State.reset with regions := [(1, { placedRegion 0 with mail := some f })] } : State).regionAt 1).map (·.2.mail.isSome) = some true ∧
    (64 : Nat).testBit 6 = true ∧ (wordTok 9000).w64 < 2 ^ 32 := by decide +kernel

/-- CsrWrites: a number for each clause. -/
theorem witness_csr : (0x400#14).toNat = 0x400 ∧ (0x403#14).toNat = 0x403 ∧ (0x000#14).toNat = 0 ∧ (0x004#14).toNat = 4 := by decide +kernel

/-- ReadsAndWaits: IDLE finds an event. -/
theorem witness_idle : ((placed 0xDF00000000102000).fired.die 64).events = [(0, 0)] := by decide +kernel

/-- TlbInvalidation: a port with an entry; a TLBI that has waited. -/
theorem witness_tlb :
    (3, Port.fresh) ∈ ({ State.reset with ports := [(3, Port.fresh)] } : State).ports ∧
    (let s := after (.tlbi ⟨.always, 6144, 0, .slot 1 .l, .none⟩) (placed 0xDA18000000102000)
     (s.win (.helm 256)).map (fun w => (w.slots.map (·.st), w.stopped)) = some ([.pending], false) ∧
     s.fieldsAt (.helm 256) 0 0 = some (0xDA, .s ⟨.always, 6144, 0, .slot 1 .l, .none⟩) ∧ (s.task (.helm 256)).st = .active ∧
     s.tlbiDone (.helm 256) 0 = true) := by decide +kernel

/-- An IDLE task on whose channel a token waits, and a helm core that is ready. -/
def waking : State :=
  let t : TaskCtx := { TaskCtx.fresh with st := .idle, ich := [128], entry := 0 }
  (State.reset.modCell 0 fun c => { c with
    cctxs := [(0, { CfgCtx.fresh with st := .active, region := 1, blocks := oneHeader 0x6400000000400000 })]
    tasks := [(0, t)], cmap := [(5, 128)], inbox := [(0, [{ tok := { wordTok 0 with color := 5 }, at0 := 0 }])] }).modHelm 3
      fun h => { h with ready := true, blocks := oneHeader 0x6400000000400000 }

/-- Activation: a waking task and a ready helm core. -/
theorem witness_activation : (waking.task (.task 0 0 0)).st = .idle ∧ waking.wakingColour (cellKey 0 0) 0 = some 5 ∧
    (waking.helm 3).ready = true ∧ (waking.helm 3).task.st = .unbound := by decide +kernel

/-- A block whose commit waits with an operation, and one that is stopped. -/
def waitingCommit (w : Nat) : State :=
  (placed w).modWin (.task 0 0 0) fun x => { x with slots := x.slots.map fun sl => { sl with st := .fired }, ops := [(opsOpen, .done 0)] }

/-- CommitSteps: commits that wait with an operation, a stopped block, one that is not quiescent. -/
theorem witness_commits :
    (waitingCommit 0xB600000000C00000).commitWaits (.task 0 0 0) (· = 0xB6) = true ∧
    (waitingCommit 0xC000000000400000).commitWaits (.task 0 0 0) (fun op => op = 0xC0 || op = 0xC3) = true ∧
    (((placed 0xB600000000C00000).modWin (.task 0 0 0) fun x => { x with stopped := true }).win (.task 0 0 0)).map (·.stopped) = some true ∧
    (placed 0xB600000000C00000).quiescent (.task 0 0 0) (((placed 0xB600000000C00000).win (.task 0 0 0)).getD (placedWin 0 (.s ⟨.always, 0, 0, .none, .none⟩) 0))
      = false := by decide +kernel +kernel

/-- A block whose one instruction has fired, with an exit, the host port ready; `o` says that its commit waits with an operation. -/
def leaving (w op : Nat) (o : Bool) : State :=
  let s := (placed w).modWin (.task 0 0 0) fun x =>
    let ops := if o then [(opsOpen, .done 0)] else []
    let slots := x.slots.map fun sl => { sl with st := .fired }
    { x with slots := slots, exit := some ⟨0, op, 0, 0⟩, ops := ops }
  { s with host := { HostPort.fresh with ready := true } }

/-- Does a leaving block meet what CommitSteps asks of every block, and is `n` the number of its operations at commit, all of which can be
done? -/
def leaves (s : State) (n : Nat) : Bool :=
  let a := Agent.task 0 0 0
  match s.win a with
  | some w => (match w.exit with
    | some e =>
      let s1 := if (w.ops.find opsOpen).isSome then s else s.settleTask a w
      !w.stopped && s.mayCommit a && s.quiescent a w && (s.judgeBlock a w).isNone && ((s.task a).spillBad e.op).isNone && s.logs.isEmpty &&
      (s.retPoison a e.op).isNone &&
      (s.fenceRegs a w).isEmpty && s.outsMapped a w.outs (s.lateOps a w) && (s.lateOps a w).length == n && s.accs.isEmpty &&
      (match s.judgeLate a w (s.lateOps a w) with | .go t => decide (t = s) | _ => false) && !s1.lowerFirst a (s.lateOps a w) && (s.lateOps a w).all fun o =>
        decide (o.1 < 128) && !w.opDone o.1 && (match s1.commitOp a o.1 o.2.1 o.2.2.1 o.2.2.2 with | .done _ _ => true | _ => false)
    | none => false)
  | none => false

/-- CommitSteps: blocks that leave by BR and by HALT, with no operation at commit and with one, that of a commit which waits. -/
theorem witness_commits_complete :
    leaves (leaving 0xA000000000030000 0xA0 false) 0 = true ∧ leaves (leaving 0xA700000000000000 0xA7 true) 0 = true ∧
    leaves (leaving 0xB600000000C00000 0xA0 false) 1 = true ∧ leaves (leaving 0xB600000000C00000 0xA0 true) 1 = true ∧
    leaves (leaving 0xC000000000400000 0xA7 true) 1 = true := by decide +kernel

/-- CommitSteps: a host port with room for an interrupt, an event queue with room, a helm core that can read its descriptor. -/
theorem witness_commit_operations :
    (leaving 0xB600000000C00000 0xA0 true).hostReady = true ∧ (leaving 0xB600000000C00000 0xA0 true).host.irqs.length < 1024 ∧
    (State.reset.die 0).events.length < 256 ∧ (State.reset.die 64).evHeld = [] ∧ (State.reset.copyq 1).open < 256 ∧
    (match ({ State.reset with readyBits := [64] } : State).readRecord (.helm 0) 0 0 64 with | .ok _ ws => ws.length == 8 | _ => false) = true := by
  decide +kernel

/-- RegistersCommit: a window with a scalar and a vector delivered; a context at window depth 5, one below the limit. -/
theorem witness_registers :
    let w : Win := { placedWin 0x01 (.g ⟨.always, .i8, .scalar, .rne, false, 0, 0, 0, .none, .none⟩) 1 with regs := [(31, some 7), (39, some 8)] }
    let s := (placed 0x0400000000102000).modTask (.task 0 0 0) fun t => { t with win := some w, depth := 5 }
    s.win (.task 0 0 0) = some w ∧ (w.regs.map (·.1)).Nodup ∧ w.regs.find 31 = some (some 7) ∧ w.regs.find (32 + 7) = some (some 8) ∧
    w.regs.find 0 = none ∧ (s.task (.task 0 0 0)).depth < 6 := by decide +kernel

/-! ## Witnesses: routers, engines, stream commands -/

/-- Cell 0 with one router entry in an active context, tokens in its input latches and what the operator remembers. -/
def router (e : Word) (ls : Table (List Token)) (o : Nat) : State :=
  { State.reset with regions := [(1, placedRegion 0)] }.modCell 0 fun c => { c with
    cctxs := [(0, { CfgCtx.fresh with st := .active, region := 1, routes := [e], opst := [(5, o)] }) ]
    cmap := [(0, 128)], latch := ls }

/-- An entry of circuit 5 with an operator, its inputs at latches 65, 130 and 195, its outputs at ports 1 and 2. -/
def rEntry (op : Nat) : Word := word (op * 2 ^ 61 + 5 * 2 ^ 55 + 1 * 2 ^ 51 + 1 * 2 ^ 45 + 2 * 2 ^ 41 + 2 * 2 ^ 35 + 3 * 2 ^ 31 + 3 * 2 ^ 25 + 2 * 2 ^ 16 + 4 * 2 ^ 7)

/-- Does a router find its entry, with no splice token at an input, and heads as given, and may the first one leave? -/
def routes (op o : Nat) (ls : Table (List Token)) (h : List Bool) : Bool :=
  let s := router (rEntry op) ls o
  let e := rEntry op
  ((s.cell 0).cctx 0).entryOf 5 == some e && rOpk e == op && (s.takeSplices 0 0 e).isNone &&
  ((List.range 3).map fun i => (s.headAt 0 0 (rIn e i)).isSome) == h && ((s.cell 0).cctx 0).opst.get 5 0 == o &&
  s.mayLeave 0 0 (rOutA e) 5 (wordTok 1) && (s.ndmRecorded 0 0 5).isNone

/-- RouterOperators: the heads that each clause needs. -/
theorem witness_routers :
    routes 0 0 [(65, [wordTok 1])] [true, false, false] = true ∧
    routes 1 0 [(65, [wordTok 1]), (130, [wordTok 1])] [true, true, false] = true ∧
    routes 2 0 [(65, [wordTok 1]), (195, [wordTok 1])] [true, false, true] = true ∧
    routes 3 0 [(65, [wordTok 1])] [true, false, false] = true ∧
    routes 3 0 [(65, [wordTok 1]), (130, [wordTok 2])] [true, true, false] = true ∧
    routes 4 0 [(65, [wordTok 1])] [true, false, false] = true ∧
    routes 4 1 [(130, [wordTok 1]), (195, [wordTok 0])] [false, true, true] = true ∧
    ((stopToken 1).stop ≠ 0 ∧ (wordTok 1).isTrue = true ∧ (wordTok 0).isTrue = false) := by decide +kernel

/-- A digit operator that runs: the state after the heads of a DADD. -/
def running (w : Nat) : State :=
  match decodeSlot (word w) with
  | .ok _ => (match decodeWord w with | .ok i => after i (placed w) | .error _ => State.reset)
  | .error _ => State.reset

/-- DigitEngines: every digit operator runs after its heads, and a kill may come from its slot. -/
theorem witness_digit_engines : ∀ p ∈ digitWords,
    ((running p.1).win (.task 0 0 0)).map (fun w => w.slots.map (·.st)) = some [SlotSt.running] ∧
    ((running p.1).task (.task 0 0 0)).fault = none := by decide +kernel

theorem witness_kill :
    let m : KillMsg := { agent := .task 0 0 0, slot := 0, seq := 1, target := 0, lanes := 1, kg := none, rcv := none }
    let s : State := { running 0x5136000000640000 with kills := [m] }
    s.kills[0]? = some m ∧ (s.win m.agent).map (·.seq) = some m.seq := by decide +kernel

/-- A running operator with its engine changed and nothing queued at L. -/
def engine (w : Nat) (h : DigEng → DigEng) : State :=
  (running w).modWin (.task 0 0 0) fun x =>
    let slots := x.slots.map fun sl =>
      match sl.eng with | .digit e => { sl with eng := .digit (h e), l := { sl.l with q := [] } } | _ => sl
    { x with slots := slots }

/-- What the operator of a running state is. -/
def engineOf (s : State) : Option DigEng :=
  (s.win (.task 0 0 0)).bind fun w => (w.slots[0]?).bind fun sl => match sl.eng with | .digit e => some e | _ => none

/-- DigitEngines: a DSINK that has its digits, as a vector and as one lane; a DSRC that has sent its head, with and without lanes that
have ended, and a kill on its way to it. -/
theorem witness_digit_results :
    (∀ w ∈ [0x5136000000640000, 0x5136000000240000],
      let e := engineOf (engine w fun e => { e with endIn := listSet e.endIn 0 allLanes, digs := listSet e.digs 0 (List.replicate 30 0) })
      e.map (fun e => (e.endIn[0]?, e.nIn .l)) = some (some allLanes, 30)) ∧
    defaultPd .f32 ≤ 30 ∧
    (∀ ends ∈ [[0, 0], [3, 5], [allLanes, 1]],
      let s := engine 0x5036000000300000 fun e => { e with outHead := some 0, endOut := ends }
      s.fieldsAt (.task 0 0 0) 0 0 = some (0x50, .g ⟨.always, .f32, .digit, .rne, false, 0, 0, 0, .chan 0 false, .none⟩) ∧
      (engineOf s).map (fun e => (e.outHead.isSome, e.endOut)) = some (true, ends) ∧ (s.task (.task 0 0 0)).fault = none) ∧
    3 &&& 5 ≠ allLanes ∧ allLanes &&& 1 ≠ allLanes := by decide +kernel

/-- A record of 32 or 64 elements. -/
def rowShape (k : Nat) : List Word := [0, word (2 ^ 57 + (k - 1)), 0, 0]

/-- A running vector row against a T0 of `k` rows, with tokens queued. -/
def adding1 (k n : Nat) : State :=
  let s := (placed 0x6221020000106000).modMat (.task 0 0 0) fun m => { m with t0 := { m.t0 with k := k } }
  (after (.mmrow ⟨.always, .e4m3, .vector, 2, 0, 0, .slot 3 .l, .none⟩) (withShape 2 (rowShape k) s)).modWin (.task 0 0 0) fun x =>
    let slots := x.slots.map fun sl => { sl with l := { sl.l with q := List.replicate n { tok := vecToken, at0 := 0 } } }
    { x with slots := slots }

/-- DigitEngines: a block of a row that is not the last, and one that is; an ISECT with tokens at both heads, whose coordinates are equal,
less and greater. -/
theorem witness_engine_steps :
    (∀ p ∈ [(32, 1), (64, 2)], ((adding1 p.1 p.2).win (.task 0 0 0)).map (fun w => w.slots.map fun sl => match sl.eng with
        | .row _ e => (decide (sl.st = .running), e.again, e.i, sl.l.q.length) | _ => (false, false, 0, 0)) = some [(true, false, 0, p.2)]
      ∧ ((adding1 p.1 p.2).matOf (.task 0 0 0)).t0.k = p.1) ∧
    (let s := after (.isect ⟨.always, .i8, .scalar, 0, 0, 16, .chan 1 false, .none⟩) (placed 0x7300000004302000)
     (s.win (.task 0 0 0)).map (fun w => w.slots.map fun sl => match sl.eng with
        | .stream e => (decide (sl.st = .running), e.held) | _ => (false, false)) = some [(true, false)] ∧
     s.fieldsAt (.task 0 0 0) 0 0 = some (0x73, .t ⟨.always, .i8, .scalar, 0, 0, 16, .chan 1 false, .none⟩) ∧
     (s.task (.task 0 0 0)).st = .active) := by decide +kernel

/-- A stream command in a state, of a placed SBIND. -/
def cmd1 (st : Nat) : StreamCmd := { (placed 0x7000010C00000000).newCmd (.task 0 0 0) 0 false ⟨.always, .i8, .scalar, 1, 3, 0, .none, .none⟩ 0 with st := st }

/-- StreamCommandSteps: one command that waits for a place, and one in each state. -/
theorem witness_stream_commands :
    (let s := (placed 0x7000010C00000000).modPort 3 fun p => { p with waiting := [cmd1 0] }
     (s.port 3).waiting = [cmd1 0] ∧ (s.port 3).cmds.length < 16) ∧
    (∀ st ∈ [1, 2, 3], let s := (withShape 1 tileShape (placed 0x7000010C00000000)).modPort 3 fun p => { p with cmds := [cmd1 st] }
      ((s.cmd? 3 (cmd1 st).id).map (·.st) = some st ∧ s.gatedAt (cmd1 st).region = false ∧ (cmd1 st).fault = none ∧
        s.cmdFree (cmd1 st) = true ∧ ((s.cell (cmd1 st).cell).cctx (cmd1 st).cctx).st = .active ∧
        (s.fieldsAt (cmd1 st).agent (cmd1 st).baddr (cmd1 st).slot).isSome = true)) ∧
    ((State.reset.cell (cmd1 3).cell).cctx 0).st ≠ .active ∧ badRecord tileShape = false ∧ pPk tileShape = 0 := by decide +kernel

/-- The state with a running command at port 3, whose cell has a context. -/
def porting (h : StreamCmd → StreamCmd) (g : Port → Port) : State :=
  ((withShape 1 tileShape (placed 0x7000010C00000000)).modCell 3 fun c =>
    c.modCctx 0 fun x => { x with st := .active, region := 1 }).modPort 3 fun p => g { p with cmds := [h (cmd1 1)] }

/-- A placed SBAR's command. -/
def bar1 : StreamCmd :=
  { (placed 0x7100000C00000000).newCmd (.task 0 0 0) 0 true ⟨.always, .i8, .scalar, 0, 3, 0, .none, .none⟩ 0 with st := 1, region := 1 }

/-- StreamCommandSteps: a read command with the elements of its token and room for it, a write command at a stop token, a separator
without a target. -/
theorem witness_stream_tokens :
    (let s := porting (fun c => { c with buf := [5] }) id
     let c : StreamCmd := { cmd1 1 with buf := [5] }
     s.cmd? 3 c.id = some c ∧ c.lanes = 1 ∧ s.cmdFree c = true ∧ s.haltedAt c.region = false ∧ s.portEnd 0 3 = some (3, 0) ∧
     (s.cell 3).latchRoom c.circ c.token = true) ∧
    (let s := porting (fun c => { c with write := true }) fun p => { p with inq := [((cmd1 1).circ, [stopToken 1])] }
     s.cmdFree { cmd1 1 with write := true } = true ∧ ((s.port 3).inq.get (cmd1 1).circ []).map (·.stop) = [1]) ∧
    (let s := (placed 0x7100000C00000000).modPort 3 fun p => { p with cmds := [bar1] }
     s.cmd? 3 bar1.id = some bar1 ∧ s.cmdFree bar1 = true ∧ (s.win bar1.agent).map (·.seq) = some bar1.seq ∧
     s.fieldsAt bar1.agent bar1.baddr bar1.slot = some (0x71, .t ⟨.always, .i8, .scalar, 0, 3, 0, .none, .none⟩)) := by decide +kernel

/-! ## Witnesses: copies, launches, regions -/

/-- A copy of 8 bytes from 0x1000 to 0x2000, in a state. -/
def copy1 (st stage : Nat) : Copy :=
  { num := 0, batch := 0, cfg := { phys := true, asid := 0, troot := 0, dset := 0, keyid := 0, priv := true }, ln := 0
    desc := some [0x1000, 0x2000, 8, 0, 8, 0, 0, 0], st := st, eng := 0, pos := 0, stage := stage, size := 8, due := 0, todo := [], acc := none
    held := 0, gen := 0, fail := none, cancelled := false, ghost := false, result := 0 }

/-- The state with that copy in queue 0. -/
def copying (st stage : Nat) : State :=
  { State.reset with readyBits := [2228], copyqs := [(0, { CopyQ.fresh with copies := [copy1 st stage] })] }

/-- CopySteps: a free engine, a waiting copy, one in each state, both kinds of descriptor. -/
theorem witness_copies :
    (copying 0 0).freeEngine 0 = some 0 ∧ ((copying 0 0).copyq 0).copies.find? (fun c => c.st = 0) = some (copy1 0 0) ∧
    (∀ st ∈ [0, 1, 2], (copying st 0).copy? 0 0 = some (copy1 st 0)) ∧
    badDescriptor (copy1 0 0).words = false ∧ badDescriptor (List.replicate 8 0) = true ∧
    (pw (copy1 2 0).words 3).toNat % 8 = 0 := by decide +kernel

/-- CopySteps: a chunk whose source can be read and whose writes perform; a stamp that performs. -/
theorem witness_copies_complete :
    (let c := copy1 1 0
     let s : State := { copying 1 0 with readyBits := [2228, 65, 66, 2224] }
     s.copy? 0 0 = some c ∧ dMode c.words = 0 ∧ pw c.words 7 = 0 ∧ c.acc = none ∧ c.held = 0 ∧
     (match s.readBytes (copyVia 0 c accCopyRd) [] (wordParts 0x1000 8) with
      | .ok t bs => decide (t.copyqs = s.copyqs) &&
        (let r := (t.modCopy 0 0 fun c => { c with stage := 1, todo := writesOf 0x2000 bs, size := 8, gen := c.gen }).runWrites
            (copyVia 0 c accCopyWr) (writesOf 0x2000 bs)
         r.rest.isEmpty && r.us.isEmpty && r.bad.isNone && r.full.isNone)
      | _ => false) = true) ∧
    (let c : Copy := { copy1 2 0 with desc := some [0x1000, 0x2000, 8, 0x1000, 8, 0, 0, 0] }
     let s : State := { copying 2 0 with readyBits := [2228, 65, 66, 2224], copyqs := [(0, { CopyQ.fresh with copies := [c] })] }
     let x := [(0x1000, 8, c.value.toNat)]
     let t := s.modCopy 0 0 fun _ => { c with stage := 1, todo := x, acc := none }
     let r := t.runWrites (copyVia 0 c accCopyWr) x
     c.ghost = false ∧ (pw c.words 3).toNat = 0x1000 ∧ c.todo = [] ∧ r.rest = [] ∧ r.us = [] ∧ r.bad = none ∧ r.full = none ∧
     r.s.copyqs = t.copyqs) := by decide +kernel

/-- A record of a launch queue, in a state. -/
def lrec1 (st : RegSt) (words : List Word) : LRec :=
  { id := 0, qdie := 0, queue := 0, seq := 0, words := words, st := st, cfg := (placedRegion 0).cfg, held := [], regions := [1], granted := []
    stat := 0, pred := none, fromSave := false, admitted := 0, report := [], detail := 0, acc := none }

/-- A record with one condition, at an address. -/
def condWords (va : Word) : List Word := [0, 0, 0x20000000000000, 0, 0, 0, va, 0, va, 0, va, 0, va, 0, va, 0]

/-- LaunchSteps: a record that waits for its condition, a die whose scheduler is due and one whose queue is full, a record that loads. -/
theorem witness_launch :
    (let s : State := { State.reset with recs := [lrec1 .waiting (condWords 0x1001)] }
     (s.rec? 0).map (·.st) = some .waiting ∧ rNcond (condWords 0x1001) = 1 ∧
     (match s.fetchBytes 0 (fetchVia 0 (lrec1 .waiting (condWords 0x1001)).cfg accRead) (rCva (condWords 0x1001) 0) 8 with | .bad _ _ _ => true | _ => false) = true) ∧
    (let s : State := { State.reset with recs := [{ lrec1 .waiting (condWords 0x1000) with cfg := (copy1 0 0).cfg }] }
     (match s.fetchBytes 0 (fetchVia 0 (copy1 0 0).cfg accRead) (rCva (condWords 0x1000) 0) 8 with | .bad _ _ _ => false | _ => true) = true) ∧
    (State.reset.die 0).lastDecision = 0 ∧ (State.reset.die 0).cancelAt ≠ State.reset.cycle + 1 ∧ (State.reset.die 0).events.length < 256 ∧ (State.reset.die 0).request = none ∧
    256 ≤ ((State.reset.modDie 0 fun d => { d with events := List.replicate 256 (0, 0) }).die 0).events.length ∧
    (({ State.reset with recs := [lrec1 .loading (condWords 0)] } : State).rec? 0).map (·.st) = some .loading := by decide +kernel

/-- LaunchSteps: a condition that lies on an ONCE page. -/
theorem witness_once :
    let v := fetchVia 0 (copy1 0 0).cfg accRead
    let s : State := { State.reset with regions := [(v.region, { placedRegion 0 with pins := [⟨0, 0, 0, 3, { attrPlain with kind := 1 }⟩] })] }
    (match (s.elemLook v (rCva (condWords 0x1000) 0)).1 with | .hit _ attr => attr.kind | _ => 0) = 1 := by decide +kernel

/-- LaunchSteps: a package scheduler whose gang wants die 3, and one that has asked for a record that is gone. -/
theorem witness_gang :
    (let r : LRec := { lrec1 .reserved [0, 24] with qdie := 64 }
     let s : State := { State.reset with recs := [r], host := { HostPort.fresh with ready := true } }
     s.hostReady = true ∧ (s.die 3).request = none ∧ rDies [0, 24] = [3, 4] ∧
     (s.recs.find? fun r => r.qdie = 64 && r.st == .reserved && (rDies r.words)[r.granted.length]? = some 3).map (·.id) = some 0 ∧
     (∀ e ∈ s.dies, e.2.request ≠ some 0)) ∧
    (let s := ({ State.reset with host := { HostPort.fresh with ready := true } } : State).modDie 3 fun d => { d with request := some 9 }
     s.hostReady = true ∧ (s.die 3).request = some 9 ∧ s.rec? 9 = none) := by decide +kernel

/-- A region alone that is complete. -/
def complete1 : State :=
  { State.reset with
    regions := [(1, { placedRegion 0 with everFired := true })], recs := [lrec1 .active []] }

/-- RegionLifecycle: a complete region, one that is not, a window that is over, one that gates. -/
theorem witness_regions :
    (let s := complete1
     (∀ g ∈ s.gangOf 1, s.complete g = true) ∧ (s.gangOf 1).head? = some 1 ∧ (s.recOf 1).isSome = true ∧
     (s.gangOf 1).any ((s.gangOf 1).foldl State.writeBackRegion s).regionBackDue = false ∧
     s.unclaimed 1 = none ∧ ({ s with recs := [{ lrec1 .active [] with acc := some 7 }] } : State).opUnderWay (.task 0 0 0) 1 = true ∧
     (match (s.writeBackRegion 1).doneAdd (lrec1 .active []) 0 with | .done _ => true | _ => false) = true) ∧
    (let s : State := { State.reset with regions := [(1, placedRegion 0)] }
     ∃ g ∈ s.gangOf 1, s.complete g = false) ∧
    (placedRegion 0).windowAt + windowCycles ≤ ({ State.reset with cycle := 2 ^ 40 } : State).cycle ∧
    (let s : State := { State.reset with regions := [(1, { placedRegion 0 with st := .gating })] }
     s.gating (s.gangOf 1) = true) := by decide +kernel

/-- RegionLifecycle: a region with a record whose notification is due, and one without. -/
theorem witness_notify :
    let f := (placed 0xA500000000000204).faultOf (.task 0 0 0) none 1 0 0
    ({ placedRegion 0 with mail := some f, notifyWait := true } : Region).mail.isSome = true ∧ (placedRegion 0).mail.isNone = true := by
  decide +kernel

/-- PowerAndBringUp: a cell that nothing reaches, one that is gated while a token waits, functions that may and may not report ready. -/
theorem witness_power :
    (let s : State := { State.reset with cycle := 16 }
     (s.cell 0).gated = false ∧ (s.cell 0).powered = true ∧ (s.cell 0).lastBusy + 16 ≤ s.cycle ∧ s.cellCanIssue 0 = false ∧
     s.canReady 0 = true ∧ s.canReady 2275 = true ∧ s.canReady 2277 = false ∧ s.canReady 3000 = false) ∧
    ((router (rEntry 0 ||| 0x100000) [(65, [wordTok 1])] 0).modCell 0 fun c => { c with gated := true }).tokenWaits 0 = true ∧
    ({ State.reset with almPend := [(.helm 256, 1, 0, 0)], cycle := 1 } : State).firstAlmw = some (.helm 256, 1, 0, 0) := by decide +kernel

/-! ## Witnesses: host, pod, debug -/

/-- A host frame of a kind, with a length and a body of zeros. -/
def frame (kind s n : Nat) : List Byte := leBytes (0xFA5C * 2 ^ 48 + 2 ^ 44 + kind * 2 ^ 40 + n * 2 ^ 16 + s) 8 ++ List.replicate (24 + n) 0

/-- The state with the host port, the link of its I/O die and the channels of die 0 ready. -/
def hosted : State :=
  { State.reset with host := { HostPort.fresh with ready := true }, readyBits := 2224 :: (List.range 32).map (64 + ·) }

/-- HostFrames: a bad frame, one of each kind, a session with no frame and one that is open. -/
theorem witness_frames :
    hosted.agentReady = true ∧ frameOk [] = false ∧ (∀ p ∈ [(1, 0, 256), (5, 0, 0), (7, 15, 16), (7, 0, 0)],
      frameOk (frame p.1 p.2.1 p.2.2) = true ∧ frameKind (frame p.1 p.2.1 p.2.2) = p.1) ∧
    (hosted.session 1).frames = [] ∧ (hosted.session 1).fseq ≠ 0 ∧
    ((hosted.modSession 1 fun x => { x with open0 := true }).session 1).open0 = true := by decide +kernel

/-- The state in which the message with a first word and a second word is the next. -/
def messaged (w0 w1 : Nat) : State :=
  let s := ({ hosted with helms := [(256, { Helm.fresh with ready := true })] } : State).ringPut 1 1
  { s with mem := memWrite s.mem 0x10000 (leBytes w0 8 ++ leBytes w1 8) }

/-- HostMessages: a message of each kind, and one with a reserved bit set. -/
theorem witness_messages :
    (∀ kind ∈ [1, 2, 3, 4, 5, 6, 7, 8, 9], ((messaged (kind * 2 ^ 56) 63).message).map (fun w => ((pw w 0).toNat, (pw w 1).toNat)) =
      some (kind * 2 ^ 56, 63)) ∧
    ((messaged (6 * 2 ^ 56 + 2 ^ 55) 0).message).map (fun w => field (pw w 0) 55 32) = some (2 ^ 23) ∧
    ((messaged (2 * 2 ^ 56) 0).copyq 0).open < 256 ∧ ((messaged (3 * 2 ^ 56) 0).copyq 0).copies = [] ∧
    (messaged (6 * 2 ^ 56) 255).keys.find 255 = none ∧ (messaged (9 * 2 ^ 56) 0).attestReason (leBytes 0 64) = none := by decide +kernel

/-- PodAndService: addresses of the own and of another package, an access that waits for the pod, a plane that is late and one that is not,
and a busy command of PKG.ULCMD. -/
theorem witness_pod :
    paPkg 0x1000 = State.reset.pkgNum ∧ paPkg (2 ^ 43) ≠ State.reset.pkgNum ∧ State.reset.acc? 7 = none ∧
    (flying .read 0x80 (.pod 3 0)).acc? 7 ≠ none ∧
    (∃ x ∈ ({ flying .read 0x80 (.pod 31 0) with cycle := 2 ^ 40 } : State).accs, ∃ u ∈ x.units, u.late 31 (2 ^ 40) = true) ∧
    ({ State.reset with ulcmd := 0x0110000000000000 ||| 0x0000004000000000 } : State).log 1 = none := by decide +kernel

/-- PodAndService: an access to a byte that no die holds, one to a home that is ready, and one that fails; a command of PKG.ULCMD that is
being done. -/
theorem witness_pod_access :
    State.reset.physCheck (2 ^ 38 - 8) = some 7 ∧ paPkg (2 ^ 38 - 8) = 0 ∧
    (let s : State := { State.reset with readyBits := [65, 2224] }
     s.physCheck 0x1000 = none ∧ s.homeReady 0x1000 = true ∧
     (match s.podPerform (s.podAccess 0x380 0x1000 8 0) 0x380 0x1000 8 with | .done _ _ => true | _ => false) = true ∧
     (match ({ s with poison := [32] } : State).podPerform (s.podAccess 0x380 0x1000 8 0) 0x380 0x1000 8 with
      | .fail _ _ => true | _ => false) = true) ∧
    (let w : Word := 0x0110000000000000
     ({ State.reset with ulcmd := w ||| 0x0000004000000000 } : State).ulcmdIs w 1 = true) := by decide +kernel

/-- A session that is busy with a command for a region of die 0, RID 1. -/
def debugging (cmd : Word) (dh : Bool) (key phase : Nat) : State :=
  { State.reset with
    regions := [(1, { placedRegion 0 with dh := dh, cfg := { (placedRegion 0).cfg with keyid := key } })]
    sessions := [(2, { Session.fresh with busy := true, command := cmd, sel := 1, phase := phase })] }

/-- DebugAccess and DebugRun: a session that is busy, without a region, with a sealed one, with one that runs and with one that is halted. -/
theorem witness_debug :
    (let s := debugging 0x1000000000000000 false 0 0
     (s.selRegion (s.session 2).sel).map (·.1) = some 1 ∧ s.haltedFor 1 = false ∧ s.selRegion 5 = none ∧
     ((s.regions.find 1).map fun r => r.sealedTo 2) = some false ∧ field (s.session 2).command 63 56 = 0x10) ∧
    (debugging 0x1100000000000000 true 0 0).haltedFor 1 = true ∧
    (((debugging 0x3000000000000000 true 7 0).regions.find 1).map fun r => (r.sealedTo 2, r.cfg.keyid, decide (r.misses < 8))) = some (true, 7, true) ∧
    (debugging 0x2000000000000000 true 0 0).backBad 1 0 ≠ none := by decide +kernel

/-- DebugRun: a stop counted for the placed task; ACCREG reads its register 31. -/
theorem witness_step_task :
    let s : State := { placed 0x0400000000102000 with sessions := (debugging 0x0080000000000000 true 0 0).sessions }
    (s.regions.find 1).map (fun r => (s.stepTask 1 r 1).isSome) = some true ∧
    (s.regions.find 1).map (fun r => (s.spotOf 1 r 1).isSome) = some true := by decide +kernel

/-- TraceRecords: a region whose window ends with kills counted, and one that samples. -/
theorem witness_trace :
    let tr (ctl : Word) : TraceSt := { (placedRegion 0).trace with ctl := ctl, kills := [0, 3], elided := 2 }
    (List.range 8).filter (fun g => (tr 0).kills.getD g 0 ≠ 0) = [1] ∧ (1024 : Nat) % 1024 = 0 ∧ flag (tr 0x1000000000000000).ctl 60 = true ∧
    flag (tr 0x0800000000000000).ctl 59 = true ∧ field (tr 0x0140000000000000).ctl 57 53 = 10 ∧ 1024 % 2 ^ 10 = 0 := by decide +kernel

/-! ## Witnesses: the step, firing, faults -/

/-- StepRunsDecoded: the step of every placed word is the meaning of the instruction it decodes to. -/
def stepsTo (p : Nat × Instr) : Bool :=
  let s := State.reset.placeWord p.1
  match s.agenda with
  | .issue a :: r =>
    let t : State := { s with agenda := r }
    (match t.pickIssue a with
     | some (c, _) => (t.preciseStop c).isNone && (match t.win c.agent with
       | some w => (match decodeWord (slotWord (t.blockStore c.agent) w.baddr c.slot).toNat with | .ok i => decide (i = p.2) | .error _ => false)
       | none => false)
     | none => false)
  | _ => false

theorem witness_step : (∀ p ∈ integerWords ++ controlWords, stepsTo p = true) ∧
    (({ State.reset with agenda := [.issue (.task 0 0 0)] } : State).pickIssue (.task 0 0 0)).isNone = true ∧
    isEvent (.blockCommit (.task 0 0 0)) = true ∧ State.reset.agenda = [] := by decide +kernel

/-- FiringOutcomes and OperandsJudge: each verdict of an ADD, predicated or not. -/
def addF (pr : Pr) : FmtG := ⟨pr, .i32, .scalar, .rne, false, 0, 0, 0, .slot 1 .l, .none⟩

/-- A placed ADD with a predicate and a token in one of its fields. -/
def adding (pr : Pr) (x : Fld) (t : Token) : Option Verdict :=
  match encode (.add (addF pr)) with
  | some w => (withTok x t (placed w)).judged 0x10 (.g (addF pr))
  | none => none

theorem witness_verdicts :
    adding .always .l (wordTok 1) = some .go ∧ adding .always .l nullToken = some .null ∧ adding .always .r (stopToken 7) = some (.pass 7) ∧
    adding .onTrue .p (wordTok 0) = some .dead ∧ adding .onTrue .p (wordTok 1) = some .go ∧ adding .onTrue .p nullToken = some .null ∧
    State.reset.judged 0x10 (.g (addF .always)) = none := by decide +kernel

/-- SendTargets: a window in which a register and a slot field have received nothing, and a task that holds a fault. -/
theorem witness_send :
    ((placed 0x0400000000102000).win (.task 0 0 0)).map (fun w => (w.regs.find 31, w.regs.find 39, w.slots.length)) = some (none, none, 1) ∧
    ((placed 0x0400000000102000).task (.task 0 0 0)).fault = none ∧
    (let s := (placed 0x0400000000102000).blockFault (.task 0 0 0) (some 0) 7 3 0
     (s.task (.task 0 0 0)).fault ≠ none ∧ s.paused (.task 0 0 0) = false) := by decide +kernel

/-- FiringFrame: an instruction that answers next, with no log and no trace. -/
theorem witness_frame :
    opFields (.readReg ⟨.always, .i8, .scalar, .rne, false, 0, 0, 0, .slot 1 .l, .none⟩) =
      some (0x04, .g ⟨.always, .i8, .scalar, .rne, false, 0, 0, 0, .slot 1 .l, .none⟩) ∧
    (match exec (.readReg ⟨.always, .i8, .scalar, .rne, false, 0, 0, 0, .slot 1 .l, .none⟩) (placed 0x0400000000102000) with
      | .next _ => true | _ => false) = true ∧
    (placed 0x0400000000102000).logs = [] ∧ (∀ e ∈ (placed 0x0400000000102000).regions, e.2.trace.on = false) := by decide +kernel

/-- FaultTaken: a task that runs in a region with an empty mailbox; the same with a record in it; and one that does not run. -/
theorem witness_fault :
    ((placed 0x0400000000102000).task (.task 0 0 0)).st = .active ∧ (State.reset.task (.task 0 0 0)).st ≠ .active ∧
    State.reset.paused (.task 0 0 0) = false ∧
    (placed 0x0400000000102000).mailKey ((placed 0x0400000000102000).regionOf (.task 0 0 0)) = 1 ∧
    ((placed 0x0400000000102000).regions.find 1).map (·.mail.isNone) = some true ∧
    ((placed 0xD000000000102000).task (.helm 256)).st = .active := by decide +kernel

/-- ResumeReturns: a region whose mailbox holds a block fault, a TRAP and a break. -/
theorem witness_resume :
    let s (c d : Nat) := (placed 0x0400000000102000).blockFault (.task 0 0 0) (some 0) c d 0
    ((s 1 0).regions.find 1).map (fun r => (r.mail.map (·.fclass), r.latched.length)) = some (some 1, 0) ∧
    ((s 9 0).regions.find 1).map (fun r => r.mail.map (·.strm)) = some (some false) ∧
    ((s 10 255).regions.find 1).map (fun r => r.mail.map (·.detail)) = some (some 255) ∧
    (((s 10 255).modTask (.task 0 0 0) fun t => { t with after := some 4 }).task (.task 0 0 0)).after = some 4 ∧
    ((s 11 0).regions.find 1).map (fun r => r.mail.map (·.fclass)) = some (some 11) ∧ ((s 1 0).win (.task 0 0 0)).isSome = true := by
  decide +kernel

/-- MemoryStaysCanonical and MemoryCanonical: the memory after reset, one with a byte, and a step that answers next. -/
theorem witness_memory :
    Memory.wf State.reset.mem = true ∧ Memory.wf (memWrite [] 5 [1, 0, 3]) = true ∧ memWrite [] 5 [1, 0, 3] = [(5, 1), (7, 3)] ∧
    Memory.wf [(5, 0)] = false ∧ Memory.wf [(5, 1), (5, 2)] = false ∧
    (match step { State.reset with agenda := [.tick] } with | .next t => t.cycle == 1 | _ => false) = true := by decide +kernel

/-- DecodeEncode and EncodeDecode: words and their instructions, both ways. -/
theorem witness_encode : ∀ p ∈ memoryWords, encode p.2 = some p.1 ∧ WellFormed p.2 ∧ p.1 < 2 ^ 64 := by decide +kernel

/-! ## What well-formedness refuses, and what the decoder rejects -/

/-- Why an instruction is not well formed; none when its fields are accepted. -/
def refusal (i : Instr) : Option Reason := match opFields i with | some (op, f) => ruleOf op f | none => none

/-- One ill-formed term for each check (R230): a shape, a type, an unused field, a reserved value, an immediate out of range; and a term
whose sub-field names another constructor. -/
theorem test_ill_formed :
    refusal (.add ⟨.always, .i32, .digit, .rne, false, 0, 0, 0, .none, .none⟩) = some .shape ∧
    refusal (.add ⟨.always, .f32, .scalar, .rne, false, 0, 0, 0, .none, .none⟩) = some .type ∧
    refusal (.mulh ⟨.always, .i32, .scalar, .rne, true, 0, 0, 0, .none, .none⟩) = some .unused ∧
    refusal (.cmp ⟨.always, .i32, .scalar, .rne, false, 0, 0, 6, .none, .none⟩) = some .rsvdval ∧
    refusal (.movi ⟨.always, .i8, .scalar, 256, .low, .none⟩) = some .immrange ∧
    (¬ WellFormed (.add ⟨.always, .i32, .digit, .rne, false, 0, 0, 0, .none, .none⟩)) ∧
    (¬ WellFormed (.cancelCopies ⟨.always, .i8, .scalar, 0, 0, 3, .none, .none⟩)) ∧
    WellFormed (.movi ⟨.always, .i8, .scalar, 127, .low, .none⟩) := by decide

/-- The rejected words that the spec works out (R217, R218), and a reserved and a free opcode (R471). -/
theorem test_decode_rejects : decodeTableWord 64 0x8010000188004208 = none ∧ decodeTableWord 64 0x80100000D0004208 = none ∧
    decodeTableWord 64 0x0210000000014208 = none ∧ decodeTableWord 64 0xF100000000000000 = none ∧ decodeTableWord 64 0x0A00000000000000 = none := by
  decide

/-! ## One step each -/

/-- What register 3 receives, as its low `w` bits, and the flags, when an instruction whose target it is fires on operands L and R. -/
def fire (i : Instr) (w l r : Nat) : Option (Nat × Nat) :=
  match encode i with
  | none => none
  | some n =>
    let s := withTok .r (wordTok r) (withTok .l (wordTok l) (placed n))
    ((after i s).win (.task 0 0 0)).bind fun x => match x.regs.find 3 with
      | some (some p) => some (p.toNat % 2 ^ w, x.flags)
      | _ => none

/-- Fields of an integer instruction whose target is register 3. -/
def intF (ty : Ty) (sat : Bool) : FmtG := ⟨.always, ty, .scalar, .rne, sat, 0, 0, 0, .sreg 3, .none⟩

/-- R255: division by zero gives all ones and DZ; the least number by -1 saturates with SAT and wraps without; the remainder keeps the
dividend. -/
theorem test_division : fire (.div (intF .i32 false)) 32 7 0 = some (0xFFFFFFFF, fDZ) ∧
    fire (.div (intF .i32 true)) 32 0x80000000 0xFFFFFFFF = some (0x7FFFFFFF, fSAT) ∧
    fire (.div (intF .i32 false)) 32 0x80000000 0xFFFFFFFF = some (0x80000000, 0) ∧
    fire (.rem (intF .i32 false)) 32 7 0 = some (7, fDZ) ∧
    fire (.rem (intF .i8 false)) 8 0xF9 2 = some (0xFF, 0) := by decide +kernel

/-- R254: a sum wraps without SAT and takes the nearer bound with it. -/
theorem test_addition : fire (.add (intF .i8 false)) 8 127 1 = some (128, 0) ∧ fire (.add (intF .i8 true)) 8 127 1 = some (127, fSAT) ∧
    fire (.sub (intF .n16 true)) 16 0 1 = some (0, fSAT) := by decide +kernel

/-- R256: a shift by the width or more drops every bit; SRA fills with the sign. -/
theorem test_shifts : fire (.shl (intF .i32 false)) 32 1 32 = some (0, 0) ∧ fire (.shr (intF .i32 false)) 32 0x80000000 31 = some (1, 0) ∧
    fire (.sra (intF .i32 false)) 32 0x80000000 40 = some (0xFFFFFFFF, 0) ∧ fire (.rot (intF .i8 false)) 8 0x81 9 = some (3, 0) := by
  decide +kernel

/-- R275: 1.0 + 2.0 and 1.0 / 0 at F32 (encodings of the IEEE binary32 format). -/
theorem test_float : fire (.fadd ⟨.always, .f32, .scalar, .rne, false, 0, 0, 0, .sreg 3, .none⟩) 32 0x3F800000 0x40000000 = some (0x40400000, 0) ∧
    fire (.fdiv ⟨.always, .f32, .scalar, .rne, false, 0, 0, 0, .sreg 3, .none⟩) 32 0x3F800000 0 = some (0x7F800000, fDZ) := by decide +kernel

/-- R70: a byte that nothing has written, one that is written, and one that is written back to 0. -/
theorem test_memory : memGet [] 5 = 0 ∧ memGet (memWrite [] 5 [7]) 5 = 7 ∧ memWrite (memWrite [] 5 [7]) 5 [0] = [] := by decide

end Sys2Proof.Tests
end

/-! # Proofs: what the dataflow and the integer instructions deliver

A ready instruction delivers a token and flags that its operands fix: `fireTok_delivers` says so for any of them, and the
`lift1_ready`, `lift2_ready` and `lift3_ready` of Laws/Fire for those that compute element by element. What remains for each
instruction is that its own element function is the one of the statement. -/

namespace Sys2Proof.Machine

/-! ## The token of a firing -/

/-- A ready instruction whose token the state fixes delivers that token. -/
theorem fireTok_delivers {s : State} {op : Nat} {f : Fmt} {lat : Nat} {res : State → Agent → Nat → Slot → Token × Nat}
    {r : Token × Nat} (hr : ∀ w sl, s.slotHere = some (w, sl) → res s s.here.agent s.here.slot sl = r)
    (h : s.ready op f = true) : fireTok s op f lat res = .next (s.delivered op f lat r) := by
  obtain ⟨w, sl, hsl, hfire⟩ := fireTok_ready lat res h
  rw [hfire, hr w sl hsl]

/-- One element in every lane, or alone with SH 00, is the result of 32 equal lanes, with no flag. -/
theorem spread_eq_resultTok (sh : Sh) (ty : Ty) (e : Nat) :
    (spread sh ty e, 0) = resultTok sh ty (List.replicate 32 (plain e)) := by
  by_cases hv : sh = .vector <;> simp [spread, resultTok, plain, hv]

/-- READ's token: a word for s0 to s31, a vector for v0 to v7 (R246). -/
theorem readReg_token (t : TaskCtx) (n : Nat) :
    (if n < 32 then wordTok (t.readReg n).toNat else vecTok (t.readReg n).toNat) =
      if n < 32 then wordTok (t.getS n).toNat else vecTok (t.getV (n - 32)).toNat := by
  by_cases hn : n < 32
  · simp only [TaskCtx.readReg, if_pos hn, BitVec.toNat_setWidth_of_le (show 64 ≤ 2048 by decide)]
  · simp only [TaskCtx.readReg, if_neg hn]

/-- Settles O1: each token is the one that the instruction's operand fields and its task fix. -/
theorem dataflowTokens : Obligations.DataflowTokens := by
  intro s
  refine ⟨fun f h => ?movi, fun f h => ?nullTok, fun f h => ?readReg, fun f h => ?sel, fun f h => ?stopTok, fun f h => ?color⟩
  case movi =>
    change execMovi f s = _
    exact fireTok_delivers (fun _ _ _ => spread_eq_resultTok f.sh f.ty _) h
  case nullTok =>
    change execNullTok f s = _
    exact fireTok_delivers (fun _ _ _ => rfl) h
  case readReg =>
    change execReadReg f s = _
    exact fireTok_delivers (fun _ _ _ => by simp only [readReg_token]) h
  case sel =>
    change execSel f s = _
    exact fireTok_delivers (fun w sl hsl => by simp only [operand_eq hsl]; rfl) h
  case stopTok =>
    change execStopTok f s = _
    exact fireTok_delivers (fun _ _ _ => rfl) h
  case color =>
    change execColor f s = _
    exact fireTok_delivers (fun _ _ _ => spread_eq_resultTok f.sh .i64 _) h

/-! ## Elements -/

/-- A result without a flag has the encoding it is made of. -/
theorem pureRes_plain {g e e' : Nat} (h : e = e') : (pureRes g e).bits = (plain e').1 ∧ (pureRes g e).flags = (plain e').2 :=
  ⟨h, rfl⟩

/-- The model's res(y) is the statements' (R254). -/
theorem resInt_eq_resAt (t : Ty) (sat : Bool) (y : Int) : resInt t sat y = resAt t sat y := by
  simp only [resInt, resAt, Bool.and_eq_true, decide_eq_true_eq]
  by_cases hlo : y < t.lo <;> simp only [hlo, if_true, if_false]

/-- An instruction that delivers res(y) has its encoding and its flag. -/
theorem intRes_resAt {t : Ty} {sat : Bool} {g : Nat} {y y' : Int} (h : y = y') :
    (intRes t sat g y).bits = (resAt t sat y').1 ∧ (intRes t sat g y).flags = (resAt t sat y').2 := by
  rw [intRes, resInt_eq_resAt, h]
  exact ⟨rfl, rfl⟩

/-- A comparison's answer does not depend on which operand is tested first. -/
theorem ite_le_eq_ite_lt (x y : Int) (a b : Nat) : (if x ≤ y then a else b) = if y < x then b else a := by
  by_cases h : y < x
  · rw [if_pos h, if_neg (Int.not_le.mpr h)]
  · rw [if_neg h, if_pos (Int.not_lt.mp h)]

theorem natAbs_eq_ite (x : Int) : (x.natAbs : Int) = if x < 0 then -x else x := by
  split <;> omega

/-- The bits a bitwise instruction keeps: bit 0 of a PRED, else the w bits of the type (R252). -/
theorem predMask_eq (t : Ty) (b : Nat) : predMask t b = b % 2 ^ (if t = .pred then 1 else t.width) := by
  unfold predMask; split <;> rfl

/-- Settles O3: each element function is res(y) of the exact result, or the result itself where it is always in range. -/
theorem integerArithmetic : Obligations.IntegerArithmetic := by
  refine ⟨fun s f => ⟨?add, ?sub, ?mul, ?mulh, ?min, ?max, ?abs, ?neg, ?madd⟩, fun s f => ⟨?addi, ?andi, ?ori, ?xori, ?cmpi⟩⟩
  case add => exact lift2_ready 1 none fun _ _ _ => intRes_resAt rfl
  case sub => exact lift2_ready 1 none fun _ _ _ => intRes_resAt rfl
  case mul => exact lift2_ready 3 none fun _ _ _ => intRes_resAt rfl
  case mulh => exact lift2_ready 3 none fun _ _ _ => pureRes_plain rfl
  case min => exact lift2_ready 1 none fun _ a b => pureRes_plain (ite_le_eq_ite_lt _ _ a b)
  case max => exact lift2_ready 1 none fun _ a b => pureRes_plain (ite_le_eq_ite_lt _ _ b a)
  case abs => exact lift1_ready 1 none none fun _ _ => intRes_resAt (natAbs_eq_ite _)
  case neg => exact lift1_ready 1 none none fun _ _ => intRes_resAt rfl
  case madd => exact lift3_ready 3 fun _ _ _ _ => intRes_resAt rfl
  case addi => exact lift1_ready 1 none none fun _ _ => pureRes_plain rfl
  case andi => exact lift1_ready 1 none none fun _ _ => pureRes_plain (predMask_eq _ _)
  case ori => exact lift1_ready 1 none none fun _ _ => pureRes_plain (predMask_eq _ _)
  case xori => exact lift1_ready 1 none none fun _ _ => pureRes_plain (predMask_eq _ _)
  case cmpi => exact lift1_ready 1 none (some .pred) fun _ _ => pureRes_plain (by simp only [bit, decide_eq_true_eq]; rfl)

/-! ## Division -/

/-- The one quotient of a signed type that is out of its range: its least value by -1 (R255). -/
abbrev LeastByNegOne (t : Ty) (a b : Nat) : Prop := t.isSigned = true ∧ t.intVal a = -(2 ^ (t.width - 1)) ∧ t.intVal b = -1

theorem LeastByNegOne.ne_zero {t : Ty} {a b : Nat} : LeastByNegOne t a b → t.intVal b ≠ 0 := by
  rintro ⟨-, -, hb⟩; rw [hb]; decide

theorem lo_of_isSigned {t : Ty} (h : t.isSigned = true) : t.lo = -(2 ^ (t.width - 1)) := if_pos h

theorem wrapN_hi_of_isSigned {t : Ty} (h : t.isSigned = true) : wrapN t.hi t.width = 2 ^ (t.width - 1) - 1 := by
  revert h; cases t <;> decide

/-- What the model tests for the quotient out of range. -/
theorem leastByNegOne_iff (t : Ty) (a b : Nat) :
    (t.isSigned && t.intVal a == t.lo && t.intVal b == -1) = true ↔ LeastByNegOne t a b := by
  simp only [LeastByNegOne, Bool.and_eq_true, beq_iff_eq, and_assoc]
  exact and_congr_right fun h => by rw [lo_of_isSigned h]

theorem divInt_of_zero {t : Ty} {b : Nat} (h : t.intVal b = 0) (sat : Bool) (g a : Nat) :
    divInt t sat g a b = ⟨2 ^ t.width - 1, fDZ, g⟩ := if_pos h

theorem divInt_of_leastByNegOne {t : Ty} {a b : Nat} (h : LeastByNegOne t a b) (sat : Bool) (g : Nat) :
    divInt t sat g a b = if sat then ⟨2 ^ (t.width - 1) - 1, fSAT, g⟩ else ⟨a, 0, g⟩ := by
  have hb := h.ne_zero
  have ⟨hsigned, _, _⟩ := h
  simp only [divInt, if_neg hb, (leastByNegOne_iff t a b).mpr h, if_true, wrapN_hi_of_isSigned hsigned]

theorem divInt_of_quotient {t : Ty} {a b : Nat} (hb : t.intVal b ≠ 0) (h : ¬ LeastByNegOne t a b) (sat : Bool) (g : Nat) :
    divInt t sat g a b = ⟨wrapN ((t.intVal a).tdiv (t.intVal b)) t.width, 0, g⟩ := by
  simp only [divInt, if_neg hb, if_neg (mt (leastByNegOne_iff t a b).mp h)]

theorem remInt_of_zero {t : Ty} {b : Nat} (h : t.intVal b = 0) (g a : Nat) : remInt t g a b = ⟨a, fDZ, g⟩ := if_pos h

theorem remInt_of_ne_zero {t : Ty} {b : Nat} (h : t.intVal b ≠ 0) (g a : Nat) :
    remInt t g a b = ⟨wrapN (t.intVal a - (t.intVal a).tdiv (t.intVal b) * t.intVal b) t.width, 0, g⟩ := by
  simp only [remInt, if_neg h, Int.tmod_def, Int.mul_comm]

/-- A division by -1 leaves nothing. -/
theorem remInt_of_leastByNegOne {t : Ty} {a b : Nat} (h : LeastByNegOne t a b) (g : Nat) : remInt t g a b = ⟨0, 0, g⟩ := by
  have ⟨_, _, hb⟩ := h
  simp [remInt_of_ne_zero h.ne_zero, hb, wrapN]

/-- Settles O4, by the three cases of R255. -/
theorem integerDivision : Obligations.IntegerDivision := by
  refine fun s f => ⟨lift2_ready (divLatency f.ty) none fun g a b => ?div, lift2_ready (divLatency f.ty) none fun g a b => ?rem⟩
  case div =>
    by_cases hz : f.ty.intVal b = 0
    · rw [divInt_of_zero hz, if_pos hz]; exact ⟨rfl, rfl⟩
    · by_cases hs : LeastByNegOne f.ty a b
      · rw [divInt_of_leastByNegOne hs, if_neg hz, if_pos hs]
        cases f.sat <;> exact ⟨rfl, rfl⟩
      · rw [divInt_of_quotient hz hs, if_neg hz, if_neg hs]; exact ⟨rfl, rfl⟩
  case rem =>
    by_cases hz : f.ty.intVal b = 0
    · rw [remInt_of_zero hz, if_pos hz]; exact ⟨rfl, rfl⟩
    · by_cases hs : LeastByNegOne f.ty a b
      · rw [remInt_of_leastByNegOne hs, if_neg hz, if_pos hs]; exact ⟨rfl, rfl⟩
      · rw [remInt_of_ne_zero hz, if_neg hz, if_neg hs]; exact ⟨rfl, rfl⟩

/-! ## Shifts -/

theorem resAt_sat_of_hi_lt {t : Ty} {y : Int} (h : t.hi < y) : resAt t true y = (wrapN t.hi t.width, fSAT) := by
  have hlo : t.lo ≤ t.hi := by cases t <;> decide
  rw [resAt, if_neg (fun hr => by omega), if_pos rfl, if_neg (by omega)]

theorem resAt_sat_of_lt_lo {t : Ty} {y : Int} (h : y < t.lo) : resAt t true y = (wrapN t.lo t.width, fSAT) := by
  rw [resAt, if_neg (fun hr => by omega), if_pos rfl, if_pos h]

theorem hi_lt_two_pow_128 (t : Ty) : t.hi < 2 ^ 128 := by cases t <;> decide

theorem neg_two_pow_128_lt_lo (t : Ty) : -(2 ^ 128) < t.lo := by cases t <;> decide

theorem two_pow_128_le {b : Nat} (hb : 128 ≤ b) : (2 : Int) ^ 128 ≤ 2 ^ b := by
  have h : 2 ^ 128 ≤ 2 ^ b := Nat.pow_le_pow_right (by decide) hb
  exact_mod_cast h

/-- A positive value shifted by 128 bits or more lies above every type's range. -/
theorem resAt_shift_of_pos (t : Ty) {v : Int} {b : Nat} (hv : 0 < v) (hb : 128 ≤ b) :
    resAt t true (v * 2 ^ b) = (wrapN t.hi t.width, fSAT) := by
  apply resAt_sat_of_hi_lt
  calc t.hi < 2 ^ 128 := hi_lt_two_pow_128 t
    _ ≤ 2 ^ b := two_pow_128_le hb
    _ = 1 * 2 ^ b := (Int.one_mul _).symm
    _ ≤ v * 2 ^ b := Int.mul_le_mul_of_nonneg_right hv (Int.pow_nonneg (by decide))

/-- A negative value shifted by 128 bits or more lies below every type's range. -/
theorem resAt_shift_of_neg (t : Ty) {v : Int} {b : Nat} (hv : v < 0) (hb : 128 ≤ b) :
    resAt t true (v * 2 ^ b) = (wrapN t.lo t.width, fSAT) := by
  apply resAt_sat_of_lt_lo
  calc v * 2 ^ b ≤ -1 * 2 ^ b := Int.mul_le_mul_of_nonneg_right (by omega) (Int.pow_nonneg (by decide))
    _ = -(2 ^ b) := by rw [Int.neg_mul, Int.one_mul]
    _ ≤ -(2 ^ 128) := Int.neg_le_neg (two_pow_128_le hb)
    _ < t.lo := neg_two_pow_128_lt_lo t

/-- A saturating shift needs no amount above 128: the sign of the value alone decides the result from there on. -/
theorem resAt_shift_min_128 (t : Ty) (v : Int) (b : Nat) : resAt t true (v * 2 ^ min b 128) = resAt t true (v * 2 ^ b) := by
  rcases Nat.le_total b 128 with hb | hb
  · rw [Nat.min_eq_left hb]
  · rw [Nat.min_eq_right hb]
    rcases Int.lt_trichotomy v 0 with hv | rfl | hv
    · rw [resAt_shift_of_neg t hv (Nat.le_refl 128), resAt_shift_of_neg t hv hb]
    · rw [Int.zero_mul, Int.zero_mul]
    · rw [resAt_shift_of_pos t hv (Nat.le_refl 128), resAt_shift_of_pos t hv hb]

theorem shlInt_wrap (t : Ty) (g a b : Nat) :
    shlInt t false g a b = pureRes g (if b < t.width then a * 2 ^ b % 2 ^ t.width else 0) := rfl

/-- SHL with SAT delivers res(lv · 2^a), for every amount (R256). -/
theorem shlInt_sat (t : Ty) (g a b : Nat) :
    (shlInt t true g a b).bits = (resAt t true (t.intVal a * 2 ^ b)).1 ∧
      (shlInt t true g a b).flags = (resAt t true (t.intVal a * 2 ^ b)).2 := by
  rw [← resAt_shift_min_128]
  exact intRes_resAt rfl

/-- Settles O5: the bitwise element functions keep the bits of R252; SHL with SAT cuts its amount without changing the result. -/
theorem logicAndShifts : Obligations.LogicAndShifts := by
  refine ⟨fun s f => ⟨?and, ?or, ?xor, ?not⟩, fun s f => ⟨?shl, ?shlSat, ?shr, ?sra, ?rot⟩⟩
  case and => exact lift2_ready 1 none fun _ _ _ => pureRes_plain (predMask_eq _ _)
  case or => exact lift2_ready 1 none fun _ _ _ => pureRes_plain (predMask_eq _ _)
  case xor => exact lift2_ready 1 none fun _ _ _ => pureRes_plain (predMask_eq _ _)
  case not => exact lift1_ready 1 none none fun _ _ => pureRes_plain (predMask_eq _ _)
  case shl =>
    intro h hsat
    refine lift2_ready 1 none (fun g a b => ?_) h
    rw [hsat, shlInt_wrap]
    exact pureRes_plain rfl
  case shlSat =>
    intro h hsat
    refine lift2_ready 1 none (fun g a b => ?_) h
    rw [hsat]
    exact shlInt_sat f.ty g a b
  case shr => exact lift2_ready 1 none fun _ _ _ => pureRes_plain rfl
  case sra => exact lift2_ready 1 none fun _ _ _ => pureRes_plain rfl
  case rot => exact lift2_ready 1 none fun _ _ _ => pureRes_plain rfl

end Sys2Proof.Machine

/-! # Proofs: tokens that pass through, bit fields, floats, lanes, atomics -/

namespace Sys2Proof.Machine

/-! ## Tokens that pass through -/

/-- A ready instruction takes effect on its own slot's operands. -/
theorem fireWith_operands {s : State} {op : Nat} {f : Fmt} {go : State → Agent → Nat → Slot → State} {t : State}
    (hgo : ∀ w sl, s.slotHere = some (w, sl) → go s.fired s.here.agent s.here.slot sl = t) (h : s.ready op f = true) :
    fireWith s op f go = .next t := by
  obtain ⟨w, sl, hsl, hfire⟩ := fireWith_ready go h
  rw [hfire, hgo w sl hsl]

/-- MOV opens a group of digits only for a head under SH 10 (R243). -/
theorem movOpens_false {f : FmtG} {tok : Token} (h : f.sh ≠ .digit ∨ tok.kind ≠ .head ∨ tok.stop ≠ 0) :
    (f.sh == .digit && tok.kind == .head && tok.stop == 0) = false := by
  simp only [Bool.and_eq_false_iff, beq_eq_false_iff_ne]
  exact or_assoc.mpr h

/-- Settles O2: each instruction's effect is one or two sendings of the tokens that its operand fields or its channel hold. -/
theorem tokensAndInputs : Obligations.TokensAndInputs := by
  refine ⟨fun s => ⟨fun f h hno => ?mov, fun f h => ?tokt⟩, fun s f tok => ?inTok⟩
  case mov =>
    change execMov f s = _
    refine fireWith_operands (fun w sl hsl => ?_) h
    rw [operand_eq hsl] at hno ⊢
    simp only [movOpens_false hno, Bool.false_eq_true, if_false]
  case tokt =>
    change execTokt f s = _
    refine fireWith_operands (fun w sl hsl => ?_) h
    rw [operand_eq hsl]
    by_cases hk : f.aux.toNat % 8 = 0 <;> simp only [hk, if_true, if_false, bit, beq_iff_eq, decide_eq_true_eq]
  case inTok =>
    intro a i j h htok
    constructor <;> intro hnull
    all_goals
      change execInTok f s = _
      refine fireWith_operands (fun w sl _ => ?_) h
      simp only [show s.fired.inToken s.here.agent s.here.slot (f.aux.toNat % 16) = some tok from htok, hnull]
      rfl

/-! ## Bit fields -/

theorem elem_lt (t : Token) (ty : Ty) : t.elem ty < 2 ^ ty.width := Nat.mod_lt _ (Nat.two_pow_pos _)

theorem laneOf_lt (w : Nat) (p : Payload) (i : Nat) (hw : 0 < w) : laneOf w p i < 2 ^ w := by
  have hwidth : w * i + w - 1 + 1 - w * i = w := by omega
  unfold laneOf fieldN
  rw [hwidth]
  exact Nat.mod_lt _ (Nat.two_pow_pos w)

theorem width_pos (ty : Ty) : 0 < ty.width := by cases ty <;> decide

theorem width_le (ty : Ty) : ty.width ≤ 64 := by cases ty <;> decide

theorem lanes_lt {t : Token} {ty : Ty} {e : Nat} (h : e ∈ t.lanes ty) : e < 2 ^ ty.width := by
  unfold Token.lanes at h
  split at h
  · obtain ⟨i, -, rfl⟩ := List.mem_map.mp h
    exact laneOf_lt _ _ _ (width_pos ty)
  · rw [List.eq_of_mem_replicate h]
    exact elem_lt t ty

theorem mapRes_congr {g g' : Nat → Nat → Res} {l : List Nat} (h : ∀ n, ∀ a ∈ l, g n a = g' n a) (gen : Nat) :
    mapRes g l gen = mapRes g' l gen := by
  induction l generalizing gen with
  | nil => rfl
  | cons a t ih => simp only [mapRes, h gen a List.mem_cons_self, ih fun n b hb => h n b (List.mem_cons_of_mem a hb)]

theorem zipRes_congr {g g' : Nat → Nat → Nat → Res} {l q : List Nat} (h : ∀ n, ∀ a ∈ l, ∀ b, g n a b = g' n a b) (gen : Nat) :
    zipRes g l q gen = zipRes g' l q gen := by
  induction l generalizing q gen with
  | nil => cases q <;> rfl
  | cons a t ih =>
    cases q with
    | nil => rfl
    | cons b u =>
      simp only [zipRes, h gen a List.mem_cons_self b, ih fun n c hc => h n c (List.mem_cons_of_mem a hc)]

/-- An instruction of one operand computes on encodings of its type alone. -/
theorem lift1_congr {g g' : Nat → Nat → Res} {s : State} {op : Nat} {f : Fmt} {lat : Nat} {it ot : Option Ty}
    (h : ∀ n a, a < 2 ^ (outTy f it).width → g n a = g' n a) : lift1 s op f lat it ot g = lift1 s op f lat it ot g' := by
  unfold lift1
  congr 1
  funext s a i sl
  simp only [mapRes_congr (fun n a ha => h n a (lanes_lt ha)), h _ _ (elem_lt _ _)]

/-- An instruction of two operands computes on encodings of its type alone. -/
theorem lift2_congr {g g' : Nat → Nat → Nat → Res} {s : State} {op : Nat} {f : Fmt} {lat : Nat} {ot : Option Ty}
    (h : ∀ n a b, a < 2 ^ f.ty.width → g n a b = g' n a b) : lift2 s op f lat ot g = lift2 s op f lat ot g' := by
  unfold lift2
  congr 1
  funext s a i sl
  simp only [zipRes_congr (fun n a ha b => h n a b (lanes_lt ha)), h _ _ _ (elem_lt _ _)]

/-- An initial part of `range w` on which a predicate holds up to its first failure at `k`. -/
theorem length_takeWhile_range {p : Nat → Bool} {k w : Nat} (hk : k < w) (hp : ∀ i, i < k → p i = true) (hn : p k = false) :
    ((List.range w).takeWhile p).length = k := by
  obtain ⟨r, rfl⟩ : ∃ r, w = k + (r + 1) := ⟨w - k - 1, by omega⟩
  rw [List.range_add, List.takeWhile_append_of_pos (fun i hi => hp i (List.mem_range.mp hi)), List.range_succ_eq_map,
    List.map_cons, List.takeWhile_cons_of_neg (by simpa using hn), List.append_nil, List.length_range]

/-- The leading zero bits of a number are those before its highest set bit (R253). -/
theorem leadZeros_eq {w a : Nat} (ha : a < 2 ^ w) :
    leadZeros w a = ((List.range w).takeWhile fun i => !a.testBit (w - 1 - i)).length := by
  unfold leadZeros
  by_cases h0 : a = 0
  · have hall : (List.range w).takeWhile (fun i => !a.testBit (w - 1 - i)) = List.range w := by
      simpa using List.takeWhile_append_of_pos (l₁ := List.range w) (l₂ := []) (p := fun i => !a.testBit (w - 1 - i))
        fun i _ => by simp [h0]
    rw [if_pos h0, hall, List.length_range]
  · have hlog : Nat.log2 a < w := (Nat.log2_lt h0).mpr ha
    rw [if_neg h0, length_takeWhile_range (k := w - 1 - Nat.log2 a) (by omega)]
    · intro i hi
      have hbig : a < 2 ^ (w - 1 - i) :=
        Nat.lt_of_lt_of_le Nat.lt_log2_self (Nat.pow_le_pow_right (by decide) (by omega))
      simp [Nat.testBit_lt_two_pow hbig]
    · rw [show w - 1 - (w - 1 - Nat.log2 a) = Nat.log2 a by omega]
      simp [Nat.testBit_log2 h0]

/-- A bit as a number. -/
theorem div_two_pow_mod_two (a i : Nat) : a / 2 ^ i % 2 = if a.testBit i then 1 else 0 := by
  rw [Nat.testBit_eq_decide_div_mod_eq]
  by_cases h : a / 2 ^ i % 2 = 1 <;> simp [h]
  omega

theorem sum_map_two_mul (l : List Nat) (f : Nat → Nat) : (l.map fun i => 2 * f i).sum = 2 * (l.map f).sum := by
  induction l with
  | nil => rfl
  | cons x r ih => simp only [List.map_cons, List.sum_cons, ih, Nat.mul_add]

/-- Bits taken in ascending order and put in front of each other come out in descending order (R253). -/
theorem bitRev_eq (w a : Nat) :
    bitRev w a = ((List.range w).map fun i => if a.testBit i then 2 ^ (w - 1 - i) else 0).sum := by
  unfold bitRev
  induction w with
  | zero => rfl
  | succ w ih =>
    have hshift : ∀ i ∈ List.range w, (if a.testBit i then 2 ^ (w + 1 - 1 - i) else 0) =
        2 * if a.testBit i then 2 ^ (w - 1 - i) else 0 := by
      intro i hi
      have hi : i < w := List.mem_range.mp hi
      split
      · rw [← Nat.pow_succ', show w + 1 - 1 - i = w - 1 - i + 1 by omega]
      · rfl
    rw [List.range_succ, List.foldl_append, List.map_append, List.sum_append, List.map_congr_left hshift, sum_map_two_mul, ← ih]
    simp [div_two_pow_mod_two]

/-- A field beyond bit 64 of an encoding is empty. -/
theorem div_two_pow_min {w a b : Nat} (hw : w ≤ 64) (ha : a < 2 ^ w) : a / 2 ^ min b 64 = a / 2 ^ b := by
  rcases Nat.le_total b 64 with hb | hb
  · rw [Nat.min_eq_left hb]
  · have h64 : a < 2 ^ 64 := Nat.lt_of_lt_of_le ha (Nat.pow_le_pow_right (by decide) hw)
    rw [Nat.min_eq_right hb, Nat.div_eq_of_lt h64,
      Nat.div_eq_of_lt (Nat.lt_of_lt_of_le h64 (Nat.pow_le_pow_right (by decide) hb))]

/-- What is shifted beyond bit 64 leaves an encoding. -/
theorem mul_two_pow_min_mod {w : Nat} (hw : w ≤ 64) (m c : Nat) : m * 2 ^ min c 64 % 2 ^ w = m * 2 ^ c % 2 ^ w := by
  rcases Nat.le_total c 64 with hc | hc
  · rw [Nat.min_eq_left hc]
  · rw [Nat.min_eq_right hc, Nat.mod_eq_zero_of_dvd (Nat.dvd_mul_left_of_dvd (Nat.pow_dvd_pow 2 hw) m),
      Nat.mod_eq_zero_of_dvd (Nat.dvd_mul_left_of_dvd (Nat.pow_dvd_pow 2 (Nat.le_trans hw hc)) m)]

theorem bextInt_eq {t : Ty} {a : Nat} (ha : a < 2 ^ t.width) (len b : Nat) :
    bextInt t len a b = if t.isSigned then wrapN (sextN (a / 2 ^ b % 2 ^ len) len) t.width else a / 2 ^ b % 2 ^ len := by
  unfold bextInt
  rw [div_two_pow_min (width_le t) ha]

theorem binsInt_eq (t : Ty) (len a b c : Nat) :
    binsInt t len a b c = (a &&& (2 ^ t.width - 1 - ((2 ^ len - 1) * 2 ^ c) % 2 ^ t.width)) |||
      ((b * 2 ^ c % 2 ^ t.width) &&& ((2 ^ len - 1) * 2 ^ c) % 2 ^ t.width) := by
  unfold binsInt
  simp only [mul_two_pow_min_mod (width_le t)]

/-- Settles O6: each element function is the statement's on every encoding of the type. -/
theorem bitFields : Obligations.BitFields := by
  intro s f
  refine ⟨fun h => ?clz, lift1_ready 1 none none fun _ _ => pureRes_plain rfl,
    lift1_ready 1 none none fun _ a => pureRes_plain (bitRev_eq _ a), fun h => ?bext,
    lift3_ready 1 fun _ a b c => pureRes_plain (binsInt_eq _ _ a b c), lift2_ready 1 none fun _ _ _ => pureRes_plain rfl,
    fun h hcode => ?cmp, fun h => ?shfl⟩
  case clz =>
    change execClz f s = _
    exact (lift1_congr fun n a ha => congrArg (pureRes n) (leadZeros_eq ha)).trans
      (lift1_ready 1 none none (fun _ _ => pureRes_plain rfl) h)
  case bext =>
    change execBext f s = _
    exact (lift2_congr fun n a b ha => congrArg (pureRes n) (bextInt_eq ha _ b)).trans
      (lift2_ready 1 none (fun _ _ _ => pureRes_plain rfl) h)
  case cmp =>
    refine lift2_ready 1 (some .pred) (fun _ a b => pureRes_plain ?_) h
    generalize f.aux.toNat % 8 = code at hcode
    have hcases : code = 0 ∨ code = 1 ∨ code = 2 ∨ code = 3 ∨ code = 4 ∨ code = 5 := by omega
    rcases hcases with rfl | rfl | rfl | rfl | rfl | rfl <;> simp [cmpHolds, bit]
  case shfl =>
    change execShfl f s = _
    exact fireTok_delivers (fun w sl hsl => by simp only [operand_eq hsl]) h

/-! ## Floats -/

/-- A lanewise instruction of one operand that rounds. -/
theorem lift1_rounds {s : State} {op : Nat} {f : Fmt} (lat : Nat) (it ot : Option Ty) {g : Nat → Nat → Res}
    (h : s.ready op f = true) :
    lift1 s op f lat it ot g = .next (s.delivered op f lat (s.round1 f.sh (outTy f it) (outTy f ot) g)) := by
  refine fireTok_delivers (fun w sl hsl => ?_) h
  simp only [State.round1, drawnTok, State.elems, operand_eq hsl, State.genHere]
  by_cases hv : f.sh = .vector <;> simp [hv, mapRes]

/-- A lanewise instruction of two operands that rounds. -/
theorem lift2_rounds {s : State} {op : Nat} {f : Fmt} (lat : Nat) {g : Nat → Nat → Nat → Res} (h : s.ready op f = true) :
    lift2 s op f lat none g = .next (s.delivered op f lat (s.round2 f.sh f.ty g)) := by
  refine fireTok_delivers (fun w sl hsl => ?_) h
  simp only [State.round2, drawnTok, State.elems, operand_eq hsl, State.genHere, outTy]
  by_cases hv : f.sh = .vector <;> simp [hv, zipRes]

/-- A lanewise instruction of three operands that rounds. -/
theorem lift3_rounds {s : State} {op : Nat} {f : Fmt} (lat : Nat) {g : Nat → Nat → Nat → Nat → Res} (h : s.ready op f = true) :
    lift3 s op f lat g = .next (s.delivered op f lat (s.round3 f.sh f.ty g)) := by
  refine fireTok_delivers (fun w sl hsl => ?_) h
  simp only [State.round3, drawnTok, State.elems, operand_eq hsl, State.genHere]
  by_cases hv : f.sh = .vector <;> simp [hv, zip3Res]

/-- Settles O7: each instruction applies the one rounding of R181 to the combined operands. -/
theorem floatArithmetic : Obligations.FloatArithmetic := by
  refine fun s => ⟨fun f => ⟨?fadd, ?fsub, ?fmul, ?ffma, ?fdiv, ?fsqrt⟩, fun f => ⟨?faddi, ?fmuli⟩⟩
  case fadd => exact lift2_rounds 3
  case fsub => exact lift2_rounds 3
  case fmul => exact lift2_rounds 3
  case ffma => exact lift3_rounds 4
  case fdiv => exact lift2_rounds (fdivLatency f.ty)
  case fsqrt => exact lift1_rounds (fdivLatency f.ty) none none
  case faddi => exact lift1_rounds 3 none none
  case fmuli => exact lift1_rounds 3 none none

/-- FMIN and FMAX differ in which operand they take when the first is the less (R278). -/
theorem fminmax_eq (isMax : Bool) (t : Ty) (a b : Nat) :
    fminmax isMax t a b =
      if (Num.decode t a).isNan || (Num.decode t b).isNan then t.nanEnc
      else if decide (cmpNum (Num.decode t a) (Num.decode t b) < 0) ||
          (decide (cmpNum (Num.decode t a) (Num.decode t b) = 0) && (Num.decode t a).neg && !(Num.decode t b).neg) then
        (if isMax then b else a)
      else if isMax then a else b := by
  simp only [fminmax, Bool.or_eq_true, Bool.and_eq_true, decide_eq_true_eq]

/-- Settles O8: selections and sign operations, and one bit for each condition and class. -/
theorem floatSelection : Obligations.FloatSelection := by
  intro s f
  refine ⟨?fmin, ?fmax, ?fabs, ?fneg, ?fcmp, ?fclass⟩
  case fmin => exact lift2_ready 1 none fun _ a b => pureRes_plain (fminmax_eq false _ a b)
  case fmax => exact lift2_ready 1 none fun _ a b => pureRes_plain (fminmax_eq true _ a b)
  case fabs => exact lift1_ready 1 none none fun _ _ => pureRes_plain rfl
  case fneg => exact lift1_ready 1 none none fun _ _ => pureRes_plain rfl
  case fcmp =>
    refine lift2_ready 1 (some .pred) fun _ a b => pureRes_plain ?_
    have hcode : f.aux.toNat % 8 < 8 := Nat.mod_lt _ (by decide)
    generalize f.aux.toNat % 8 = code at hcode
    have hcases : code = 0 ∨ code = 1 ∨ code = 2 ∨ code = 3 ∨ code = 4 ∨ code = 5 ∨ code = 6 ∨ code = 7 := by omega
    rcases hcases with rfl | rfl | rfl | rfl | rfl | rfl | rfl | rfl <;> simp [fcmpHolds, bit]
  case fclass => exact lift1_ready 1 none (some .n16) fun _ _ => pureRes_plain rfl

/-! ## Lanes -/

theorem length_lanes (t : Token) (ty : Ty) : (t.lanes ty).length = 32 := by
  unfold Token.lanes
  split <;> simp

theorem listSet_eq_set {α : Type} (l : List α) (i : Nat) (a : α) : listSet l i a = l.set i a := by
  induction l generalizing i with
  | nil => rfl
  | cons x r ih => cases i with
    | zero => rfl
    | succ i => exact congrArg (x :: ·) (ih i)

/-- Settles O10: each token is the one that the operand vectors and the lane named fix. -/
theorem laneInstructions : Obligations.LaneInstructions := by
  intro s f
  refine ⟨fun h => ?red, fun h => ?pfx, fun h => ?lane, fun h => ?vins, fun h => ?vidx⟩
  case red =>
    change execRed f s = _
    unfold execRed
    refine fireTok_delivers (fun w sl hsl => ?_) h
    rw [operand_eq hsl, State.genHere]
  case pfx =>
    have hlen : (((s.operand .l).lanes f.ty).map (storeElem f.ty)).length = 32 := by rw [List.length_map, length_lanes]
    obtain ⟨x, r, hxr⟩ := List.exists_cons_of_length_eq_add_one (n := 31) hlen
    refine ⟨x, r, hxr, ?_⟩
    change execPfx f s = _
    unfold execPfx
    refine fireTok_delivers (fun w sl hsl => ?_) h
    rw [operand_eq hsl] at hxr
    rw [hxr, State.genHere]
  case lane =>
    change execLane f s = _
    refine fireTok_delivers (fun w sl hsl => ?_) h
    simp only [operand_eq hsl, laneIndex]
    rfl
  case vins =>
    change execVins f s = _
    refine fireTok_delivers (fun w sl hsl => ?_) h
    simp only [operand_eq hsl, listSet_eq_set, laneIndex]
    rfl
  case vidx =>
    change execVidx f s = _
    refine fireTok_delivers (fun w sl hsl => ?_) h
    rw [operand_eq hsl]

/-! ## The fixed tree -/

theorem intVal_emod (t : Ty) (a : Nat) : t.intVal a % (2 : Int) ^ t.width = (a : Int) % 2 ^ t.width := by
  unfold Ty.intVal
  split
  · have hw := width_pos t
    simp only [sextN, if_neg (Nat.pos_iff_ne_zero.mp hw)]
    split <;> simp
  · simp

theorem int_two_pow_pos (w : Nat) : 0 < (2 : Int) ^ w := Int.pow_pos (by decide)

/-- Reading a wrapped integer back gives the integer modulo the width. -/
theorem intVal_wrapN_emod (t : Ty) (y : Int) : t.intVal (wrapN y t.width) % (2 : Int) ^ t.width = y % 2 ^ t.width := by
  rw [intVal_emod, wrapN, Int.toNat_of_nonneg (Int.emod_nonneg _ (Int.ne_of_gt (int_two_pow_pos _))), Int.emod_emod]

theorem wrapN_lt (y : Int) (w : Nat) : wrapN y w < 2 ^ w := by
  have h : y % (2 : Int) ^ w < 2 ^ w := Int.emod_lt_of_pos _ (int_two_pow_pos w)
  have h0 : 0 ≤ y % (2 : Int) ^ w := Int.emod_nonneg _ (Int.ne_of_gt (int_two_pow_pos w))
  unfold wrapN
  exact_mod_cast (Int.toNat_of_nonneg h0).symm ▸ h

/-- A combining operation that wraps the sum of two elements, raises no flag and takes no draw (R286). -/
def WrapsSum (t : Ty) (c : Nat → Nat → Nat → Res) : Prop :=
  ∀ g a b, c g a b = ⟨wrapN (t.intVal a + t.intVal b) t.width, 0, g⟩

theorem combineElem_add_wrapsSum {t : Ty} {rm : Rm} (h : t.isInt = true) :
    WrapsSum t fun g a b => combineElem .add t rm false g a b := by
  intro g a b
  simp only [combineElem, h, if_true, resInt, Bool.false_eq_true, if_false]
  split <;> rfl

/-- One level of the tree keeps the sum modulo the width, and makes the list shorter. -/
theorem treeLevel_wrapsSum {t : Ty} {c : Nat → Nat → Nat → Res} (hc : WrapsSum t c) (l : List Nat) (g : Nat) :
    ∃ q, treeLevel c l 0 g = (q, 0, g) ∧ q.length = (l.length + 1) / 2 ∧
      (q.map t.intVal).sum % (2 : Int) ^ t.width = (l.map t.intVal).sum % 2 ^ t.width ∧
      ((∀ e ∈ l, e < 2 ^ t.width) → ∀ e ∈ q, e < 2 ^ t.width) := by
  match l with
  | [] => exact ⟨[], rfl, rfl, rfl, id⟩
  | [a] => exact ⟨[a], rfl, by simp, rfl, id⟩
  | a :: b :: r =>
    obtain ⟨q, hq, hlen, hsum, hlt⟩ := treeLevel_wrapsSum hc r g
    refine ⟨wrapN (t.intVal a + t.intVal b) t.width :: q, ?_, ?_, ?_, ?_⟩
    · simp [treeLevel, hc g a b, hq]
    · simp only [List.length_cons, hlen]; omega
    · simp only [List.map_cons, List.sum_cons]
      rw [Int.add_emod, intVal_wrapN_emod, hsum, ← Int.add_emod, Int.add_assoc]
    · intro hl e he
      rcases List.mem_cons.mp he with rfl | he
      · exact wrapN_lt _ _
      · exact hlt (fun x hx => hl x (List.mem_cons_of_mem _ (List.mem_cons_of_mem _ hx))) e he

/-- The tree delivers the wrapped sum, whatever the pairing, with no flag. -/
theorem treeReduce_wrapsSum {t : Ty} {c : Nat → Nat → Nat → Res} (hc : WrapsSum t c) (k : Nat) (l : List Nat) (g : Nat)
    (hne : l ≠ []) (hk : l.length ≤ k + 1) (hl : ∀ e ∈ l, e < 2 ^ t.width) :
    treeReduce c k l 0 g = ⟨wrapN (l.map t.intVal).sum t.width, 0, g⟩ := by
  have hsingle (a : Nat) (ha : a < 2 ^ t.width) : a = wrapN ([a].map t.intVal).sum t.width := by
    have hlt : (a : Int) < 2 ^ t.width := by exact_mod_cast ha
    simp [wrapN, intVal_emod, Int.emod_eq_of_lt (Int.natCast_nonneg a) hlt]
  induction k generalizing l with
  | zero =>
    obtain ⟨a, rfl⟩ := List.length_eq_one_iff.mp (Nat.le_antisymm hk (List.length_pos_iff.mpr hne))
    rw [← hsingle a (hl a List.mem_cons_self)]
    rfl
  | succ k ih =>
    match l, hne with
    | [a], _ => rw [← hsingle a (hl a List.mem_cons_self)]; rfl
    | a :: b :: r, _ =>
      obtain ⟨q, hq, hlen, hsum, hlt⟩ := treeLevel_wrapsSum hc (a :: b :: r) g
      simp only [List.length_cons] at hk hlen
      have hqne : q ≠ [] := List.ne_nil_of_length_pos (by omega)
      calc treeReduce c (k + 1) (a :: b :: r) 0 g = treeReduce c k q 0 g := by rw [treeReduce, hq] <;> simp
        _ = ⟨wrapN (q.map t.intVal).sum t.width, 0, g⟩ := ih q hqne (by omega) (hlt hl)
        _ = ⟨wrapN ((a :: b :: r).map t.intVal).sum t.width, 0, g⟩ := by rw [wrapN, hsum, wrapN]

/-- Settles O11: every level of the tree keeps the sum modulo the width. -/
theorem redSum : Obligations.RedSum := by
  intro s f hint hsat hop h
  have hred := (laneInstructions s f).1 h
  rw [hop, hsat] at hred
  rw [hred, show ropOf 0 = .add from rfl, reduceElems,
    treeReduce_wrapsSum (combineElem_add_wrapsSum hint) _ _ _ (List.ne_nil_of_length_eq_add_one (length_lanes _ _)) (by omega)
      fun e he => lanes_lt he]

/-! ## Atomics -/

theorem ite_lt_eq_ite_le (x y : Int) (a b : Nat) : (if x < y then a else b) = if y ≤ x then b else a := by
  by_cases h : x < y
  · rw [if_pos h, if_neg (Int.not_le.mpr h)]
  · rw [if_neg h, if_pos (Int.not_lt.mp h)]

/-- Settles O19, opcode by opcode. -/
theorem atomicResults : Obligations.AtomicResults := by
  intro s x old
  refine ⟨?_, ?min, ?max, ?_, ?_, ?_, ?_, ?_, ?afadd⟩
  case min =>
    intro h
    simp only [State.rmwValue, h, decide_eq_true_eq, ite_lt_eq_ite_le]
  case max =>
    intro h
    simp only [State.rmwValue, h, decide_eq_true_eq, ite_lt_eq_ite_le]
  case afadd =>
    intro h
    simp only [State.rmwValue, h]
    rfl
  all_goals
    intro h
    simp only [State.rmwValue, h]

end Sys2Proof.Machine

/-! # Proofs: the decoder and the encoder -/

namespace Sys2Proof.Machine

/-! ## Codes of the fields -/

theorem fieldN_eq (x hi lo : Nat) : fieldN x hi lo = x / 2 ^ lo % 2 ^ (hi + 1 - lo) := by
  rw [fieldN, Nat.shiftRight_eq_div_pow]

theorem fieldN_lt (x hi lo : Nat) : fieldN x hi lo < 2 ^ (hi + 1 - lo) := Nat.mod_lt _ (Nat.two_pow_pos _)

theorem bit_lt (b : Bool) : bit b < 2 := by cases b <;> decide

theorem bit_beq_one (b : Bool) : (bit b == 1) = b := by cases b <;> rfl

theorem bit_of_beq_one {n : Nat} (h : n < 2) : bit (n == 1) = n := by
  rcases (by omega : n = 0 ∨ n = 1) with rfl | rfl <;> rfl

theorem Ty.code_lt (t : Ty) : t.code < 16 := by cases t <;> decide
theorem Sh.code_lt (t : Sh) : t.code < 3 := by cases t <;> decide
theorem Pr.code_lt (t : Pr) : t.code < 3 := by cases t <;> decide
theorem Rm.code_lt (t : Rm) : t.code < 8 := by cases t <;> decide
theorem Sc.code_lt (t : Sc) : t.code < 6 := by cases t <;> decide
theorem Ord.code_lt (t : Ord) : t.code < 5 := by cases t <;> decide
theorem Ipos.code_lt (t : Ipos) : t.code < 3 := by cases t <;> decide
theorem Fld.code_lt (t : Fld) : t.code < 4 := by cases t <;> decide

theorem Ty.ofCode_code (t : Ty) : Ty.ofCode t.code = t := by cases t <;> rfl
theorem Rm.ofCode_code (t : Rm) : Rm.ofCode t.code = t := by cases t <;> rfl
theorem Fld.ofCode_code (t : Fld) : Fld.ofCode t.code = t := by cases t <;> rfl
theorem Sh.ofCode_code (t : Sh) : Sh.ofCode t.code = some t := by cases t <;> rfl
theorem Pr.ofCode_code (t : Pr) : Pr.ofCode t.code = some t := by cases t <;> rfl
theorem Sc.ofCode_code (t : Sc) : Sc.ofCode t.code = some t := by cases t <;> rfl
theorem Ord.ofCode_code (t : Ord) : Ord.ofCode t.code = some t := by cases t <;> rfl
theorem Ipos.ofCode_code (t : Ipos) : Ipos.ofCode t.code = some t := by cases t <;> rfl

theorem Ty.code_ofCode {n : Nat} (h : n < 16) : (Ty.ofCode n).code = n := by
  have all : ∀ k : Fin 16, (Ty.ofCode k.val).code = k.val := by decide
  exact all ⟨n, h⟩
theorem Rm.code_ofCode {n : Nat} (h : n < 8) : (Rm.ofCode n).code = n := by
  have all : ∀ k : Fin 8, (Rm.ofCode k.val).code = k.val := by decide
  exact all ⟨n, h⟩
theorem Fld.code_ofCode {n : Nat} (h : n < 4) : (Fld.ofCode n).code = n := by
  have all : ∀ k : Fin 4, (Fld.ofCode k.val).code = k.val := by decide
  exact all ⟨n, h⟩

theorem Sh.code_of_ofCode {n : Nat} {t : Sh} (h : Sh.ofCode n = some t) : t.code = n := by
  unfold Sh.ofCode at h; split at h <;> cases h <;> rfl
theorem Pr.code_of_ofCode {n : Nat} {t : Pr} (h : Pr.ofCode n = some t) : t.code = n := by
  unfold Pr.ofCode at h; split at h <;> cases h <;> rfl
theorem Sc.code_of_ofCode {n : Nat} {t : Sc} (h : Sc.ofCode n = some t) : t.code = n := by
  unfold Sc.ofCode at h; split at h <;> cases h <;> rfl
theorem Ord.code_of_ofCode {n : Nat} {t : Ord} (h : Ord.ofCode n = some t) : t.code = n := by
  unfold Ord.ofCode at h; split at h <;> cases h <;> rfl
theorem Ipos.code_of_ofCode {n : Nat} {t : Ipos} (h : Ipos.ofCode n = some t) : t.code = n := by
  unfold Ipos.ofCode at h; split at h <;> cases h <;> rfl

theorem Target.code_lt (t : Target) : t.code < 2048 := by
  cases t with
  | none => decide
  | slot n f => have := f.code_lt; simp only [Target.code]; omega
  | sreg n => simp only [Target.code]; omega
  | vreg n => simp only [Target.code]; omega
  | chan n x => cases x <;> simp [Target.code] <;> omega

/-- The 11 bits of a target name it (R214). -/
theorem Target.ofCode_code (t : Target) : Target.ofCode t.code = some t := by
  cases t with
  | none => rfl
  | slot n f =>
    have hf := f.code_lt
    have hkind : (512 + 4 * n.val + f.code) / 512 % 4 = 1 := by omega
    have hnum : (512 + 4 * n.val + f.code) / 4 % 128 = n.val := by omega
    have hfld : (512 + 4 * n.val + f.code) % 4 = f.code := by omega
    simp [Target.ofCode, Target.code, hkind, hnum, hfld, Fld.ofCode_code]
  | sreg n =>
    have hkind : (1024 + 4 * n.val) / 512 % 4 = 2 := by omega
    have hnum : (1024 + 4 * n.val) / 4 % 128 = n.val := by omega
    have hfld : (1024 + 4 * n.val) % 4 = 0 := by omega
    simp [Target.ofCode, Target.code, hkind, hnum, hfld]
  | vreg n =>
    have hkind : (1024 + 4 * (32 + n.val)) / 512 % 4 = 2 := by omega
    have hnum : (1024 + 4 * (32 + n.val)) / 4 % 128 = 32 + n.val := by omega
    have hfld : (1024 + 4 * (32 + n.val)) % 4 = 0 := by omega
    simp [Target.ofCode, Target.code, hkind, hnum, hfld]
  | chan n x =>
    have hkind : (1536 + 4 * n.val + (if x then 1 else 0)) / 512 % 4 = 3 := by split <;> omega
    have hnum : (1536 + 4 * n.val + (if x then 1 else 0)) / 4 % 128 = n.val := by split <;> omega
    have hfld : (1536 + 4 * n.val + (if x then 1 else 0)) % 4 = if x then 1 else 0 := by split <;> omega
    cases x <;> simp_all [Target.ofCode, Target.code]

/-- Only its own 11 bits name a target: no bit of a target is ignored (R214). -/
theorem Target.code_of_ofCode {c : Nat} {t : Target} (hc : c < 2048) (h : Target.ofCode c = some t) : t.code = c := by
  have hfld : c % 4 < 4 := Nat.mod_lt _ (by decide)
  unfold Target.ofCode at h
  dsimp only at h
  split at h
  · next hk => split at h <;> cases h; simp only [Target.code]; omega
  split at h
  · next hk => split at h <;> cases h; simp only [Target.code, Fld.code_ofCode hfld]; omega
  split at h
  · next hk =>
    split at h
    · cases h
    split at h
    · cases h; simp only [Target.code]; omega
    split at h <;> cases h
    simp only [Target.code]; omega
  split at h
  · split at h
    · cases h; simp only [Target.code, Bool.false_eq_true, if_false]; omega
    split at h <;> cases h
    simp only [Target.code, if_true]; omega
  · cases h

theorem targetOf_code (t : Target) : targetOf t.code = t := by simp [targetOf, Target.ofCode_code]

theorem code_targetOf {c : Nat} (hc : c < 2048) (h : (Target.ofCode c).isNone = false) : (targetOf c).code = c := by
  obtain ⟨t, ht⟩ := Option.isSome_iff_exists.mp (by simpa using h : (Target.ofCode c).isSome)
  simp only [targetOf, ht, Option.getD_some]
  exact Target.code_of_ofCode hc ht

/-! ## A word taken apart and put together -/

/-- The format of a word's fields. -/
def Fmt.format : Fmt → Format
  | .g _ => .g | .i _ => .i | .m _ => .m | .c _ => .c | .t _ => .t | .s _ => .s

end Sys2Proof.Machine

namespace Sys2Proof

open Sys2Proof.Machine

/-- A word is less than 2^64 and holds its opcode in bits [63:56] (R213). -/
theorem wordOf_lt {op : Nat} (_ : op < 256) (f : Fmt) : wordOf op f < 2 ^ 64 ∧ fieldN (wordOf op f) 63 56 = op := by
  have hpr := f.pr.code_lt
  simp only [fieldN_eq]
  cases f with
  | g f =>
    have := f.ty.code_lt; have := f.sh.code_lt; have := f.rm.code_lt; have := bit_lt f.sat
    have := f.ta.code_lt; have := f.tb.code_lt
    simp only [wordOf]; omega
  | i f =>
    have := f.ty.code_lt; have := f.sh.code_lt; have := f.ipos.code_lt; have := f.ta.code_lt
    simp only [wordOf]; omega
  | m f =>
    have := f.ty.code_lt; have := f.sh.code_lt; have := f.sc.code_lt; have := f.ord.code_lt
    have := bit_lt f.loc; have := f.ta.code_lt
    simp only [wordOf]; omega
  | c f => have := f.ta.code_lt; simp only [wordOf]; omega
  | t f =>
    have := f.ty.code_lt; have := f.sh.code_lt; have := f.ta.code_lt; have := f.tb.code_lt
    simp only [wordOf]; omega
  | s f => have := f.ta.code_lt; have := f.tb.code_lt; simp only [wordOf]; omega

/-- The word of fields in a format holds exactly these fields (R216-R221). -/
theorem parseAs_wordOf (op : Nat) (f : Fmt) :
    parseAs f.format (wordOf op f) = { fmt := f, rsvdBit := false, rsvdVal := false, badShape := false, badTarget := false } := by
  cases f with
  | g f =>
    have := f.pr.code_lt; have := f.ty.code_lt; have := f.sh.code_lt; have := f.rm.code_lt
    have := bit_lt f.sat; have := f.ta.code_lt; have := f.tb.code_lt
    have h1 : fieldN (wordOf op (.g f)) 55 54 = f.pr.code := by simp only [fieldN_eq, wordOf, Fmt.pr]; omega
    have h2 : fieldN (wordOf op (.g f)) 53 50 = f.ty.code := by simp only [fieldN_eq, wordOf, Fmt.pr]; omega
    have h3 : fieldN (wordOf op (.g f)) 49 48 = f.sh.code := by simp only [fieldN_eq, wordOf, Fmt.pr]; omega
    have h4 : fieldN (wordOf op (.g f)) 47 45 = f.rm.code := by simp only [fieldN_eq, wordOf, Fmt.pr]; omega
    have h5 : fieldN (wordOf op (.g f)) 44 44 = bit f.sat := by simp only [fieldN_eq, wordOf, Fmt.pr]; omega
    have h6 : fieldN (wordOf op (.g f)) 43 41 = f.kg.toNat := by simp only [fieldN_eq, wordOf, Fmt.pr]; omega
    have h7 : fieldN (wordOf op (.g f)) 40 35 = f.pd.toNat := by simp only [fieldN_eq, wordOf, Fmt.pr]; omega
    have h8 : fieldN (wordOf op (.g f)) 34 22 = f.aux.toNat := by simp only [fieldN_eq, wordOf, Fmt.pr]; omega
    have h9 : fieldN (wordOf op (.g f)) 21 11 = f.ta.code := by simp only [fieldN_eq, wordOf, Fmt.pr]; omega
    have h10 : fieldN (wordOf op (.g f)) 10 0 = f.tb.code := by simp only [fieldN_eq, wordOf, Fmt.pr]; omega
    simp [parseAs, Fmt.format, h1, h2, h3, h4, h5, h6, h7, h8, h9, h10, Pr.ofCode_code, Ty.ofCode_code, Sh.ofCode_code, Rm.ofCode_code, bit_beq_one, 
      targetOf_code, Target.ofCode_code, BitVec.ofNat_toNat]
  | i f =>
    have := f.pr.code_lt; have := f.ty.code_lt; have := f.sh.code_lt; have := f.ipos.code_lt
    have := f.ta.code_lt
    have h1 : fieldN (wordOf op (.i f)) 55 54 = f.pr.code := by simp only [fieldN_eq, wordOf, Fmt.pr]; omega
    have h2 : fieldN (wordOf op (.i f)) 53 50 = f.ty.code := by simp only [fieldN_eq, wordOf, Fmt.pr]; omega
    have h3 : fieldN (wordOf op (.i f)) 49 48 = f.sh.code := by simp only [fieldN_eq, wordOf, Fmt.pr]; omega
    have h4 : fieldN (wordOf op (.i f)) 47 16 = f.imm.toNat := by simp only [fieldN_eq, wordOf, Fmt.pr]; omega
    have h5 : fieldN (wordOf op (.i f)) 15 14 = f.ipos.code := by simp only [fieldN_eq, wordOf, Fmt.pr]; omega
    have h6 : fieldN (wordOf op (.i f)) 13 11 = 0 := by simp only [fieldN_eq, wordOf, Fmt.pr]; omega
    have h7 : fieldN (wordOf op (.i f)) 10 0 = f.ta.code := by simp only [fieldN_eq, wordOf, Fmt.pr]; omega
    simp [parseAs, Fmt.format, h1, h2, h3, h4, h5, h6, h7, Pr.ofCode_code, Ty.ofCode_code, Sh.ofCode_code, Ipos.ofCode_code, 
      targetOf_code, Target.ofCode_code, BitVec.ofNat_toNat]
  | m f =>
    have := f.pr.code_lt; have := f.ty.code_lt; have := f.sh.code_lt; have := f.sc.code_lt
    have := f.ord.code_lt; have := bit_lt f.loc; have := f.ta.code_lt
    have h1 : fieldN (wordOf op (.m f)) 55 54 = f.pr.code := by simp only [fieldN_eq, wordOf, Fmt.pr]; omega
    have h2 : fieldN (wordOf op (.m f)) 53 50 = f.ty.code := by simp only [fieldN_eq, wordOf, Fmt.pr]; omega
    have h3 : fieldN (wordOf op (.m f)) 49 48 = f.sh.code := by simp only [fieldN_eq, wordOf, Fmt.pr]; omega
    have h4 : fieldN (wordOf op (.m f)) 47 43 = f.wv.toNat := by simp only [fieldN_eq, wordOf, Fmt.pr]; omega
    have h5 : fieldN (wordOf op (.m f)) 42 38 = f.pv.toNat := by simp only [fieldN_eq, wordOf, Fmt.pr]; omega
    have h6 : fieldN (wordOf op (.m f)) 37 33 = f.nx.toNat := by simp only [fieldN_eq, wordOf, Fmt.pr]; omega
    have h7 : fieldN (wordOf op (.m f)) 32 30 = f.sc.code := by simp only [fieldN_eq, wordOf, Fmt.pr]; omega
    have h8 : fieldN (wordOf op (.m f)) 29 27 = f.ord.code := by simp only [fieldN_eq, wordOf, Fmt.pr]; omega
    have h9 : fieldN (wordOf op (.m f)) 26 25 = bit f.loc := by simp only [fieldN_eq, wordOf, Fmt.pr]; omega
    have h10 : fieldN (wordOf op (.m f)) 24 11 = f.off.toNat := by simp only [fieldN_eq, wordOf, Fmt.pr]; omega
    have h11 : fieldN (wordOf op (.m f)) 10 0 = f.ta.code := by simp only [fieldN_eq, wordOf, Fmt.pr]; omega
    simp [parseAs, Fmt.format, h1, h2, h3, h4, h5, h6, h7, h8, h9, h10, h11, Pr.ofCode_code, Ty.ofCode_code, Sh.ofCode_code, Sc.ofCode_code, Ord.ofCode_code, bit_beq_one,
      targetOf_code, Target.ofCode_code, BitVec.ofNat_toNat]
    omega
  | c f =>
    have := f.pr.code_lt; have := f.ta.code_lt
    have h1 : fieldN (wordOf op (.c f)) 55 54 = f.pr.code := by simp only [fieldN_eq, wordOf, Fmt.pr]; omega
    have h2 : fieldN (wordOf op (.c f)) 53 51 = f.ex.toNat := by simp only [fieldN_eq, wordOf, Fmt.pr]; omega
    have h3 : fieldN (wordOf op (.c f)) 50 48 = f.ck.toNat := by simp only [fieldN_eq, wordOf, Fmt.pr]; omega
    have h4 : fieldN (wordOf op (.c f)) 47 16 = f.off.toNat := by simp only [fieldN_eq, wordOf, Fmt.pr]; omega
    have h5 : fieldN (wordOf op (.c f)) 15 11 = f.aux.toNat := by simp only [fieldN_eq, wordOf, Fmt.pr]; omega
    have h6 : fieldN (wordOf op (.c f)) 10 0 = f.ta.code := by simp only [fieldN_eq, wordOf, Fmt.pr]; omega
    simp [parseAs, Fmt.format, h1, h2, h3, h4, h5, h6, Pr.ofCode_code, 
      targetOf_code, Target.ofCode_code, BitVec.ofNat_toNat]
  | t f =>
    have := f.pr.code_lt; have := f.ty.code_lt; have := f.sh.code_lt; have := f.ta.code_lt
    have := f.tb.code_lt
    have h1 : fieldN (wordOf op (.t f)) 55 54 = f.pr.code := by simp only [fieldN_eq, wordOf, Fmt.pr]; omega
    have h2 : fieldN (wordOf op (.t f)) 53 50 = f.ty.code := by simp only [fieldN_eq, wordOf, Fmt.pr]; omega
    have h3 : fieldN (wordOf op (.t f)) 49 48 = f.sh.code := by simp only [fieldN_eq, wordOf, Fmt.pr]; omega
    have h4 : fieldN (wordOf op (.t f)) 47 40 = f.sr.toNat := by simp only [fieldN_eq, wordOf, Fmt.pr]; omega
    have h5 : fieldN (wordOf op (.t f)) 39 34 = f.pt.toNat := by simp only [fieldN_eq, wordOf, Fmt.pr]; omega
    have h6 : fieldN (wordOf op (.t f)) 33 22 = f.aux.toNat := by simp only [fieldN_eq, wordOf, Fmt.pr]; omega
    have h7 : fieldN (wordOf op (.t f)) 21 11 = f.ta.code := by simp only [fieldN_eq, wordOf, Fmt.pr]; omega
    have h8 : fieldN (wordOf op (.t f)) 10 0 = f.tb.code := by simp only [fieldN_eq, wordOf, Fmt.pr]; omega
    simp [parseAs, Fmt.format, h1, h2, h3, h4, h5, h6, h7, h8, Pr.ofCode_code, Ty.ofCode_code, Sh.ofCode_code, 
      targetOf_code, Target.ofCode_code, BitVec.ofNat_toNat]
  | s f =>
    have := f.pr.code_lt; have := f.ta.code_lt; have := f.tb.code_lt
    have h1 : fieldN (wordOf op (.s f)) 55 54 = f.pr.code := by simp only [fieldN_eq, wordOf, Fmt.pr]; omega
    have h2 : fieldN (wordOf op (.s f)) 53 40 = f.sel.toNat := by simp only [fieldN_eq, wordOf, Fmt.pr]; omega
    have h3 : fieldN (wordOf op (.s f)) 39 22 = f.aux.toNat := by simp only [fieldN_eq, wordOf, Fmt.pr]; omega
    have h4 : fieldN (wordOf op (.s f)) 21 11 = f.ta.code := by simp only [fieldN_eq, wordOf, Fmt.pr]; omega
    have h5 : fieldN (wordOf op (.s f)) 10 0 = f.tb.code := by simp only [fieldN_eq, wordOf, Fmt.pr]; omega
    simp [parseAs, Fmt.format, h1, h2, h3, h4, h5, Pr.ofCode_code, 
      targetOf_code, Target.ofCode_code, BitVec.ofNat_toNat]

/-- A field whose code is not reserved holds that code. -/
theorem code_getD {α : Type} {ofCode : Nat → Option α} {code : α → Nat} (hcode : ∀ {n t}, ofCode n = some t → code t = n)
    {n : Nat} (d : α) (h : (ofCode n).isNone = false) : code ((ofCode n).getD d) = n := by
  cases ht : ofCode n with
  | none => rw [ht] at h; cases h
  | some t => exact hcode ht

/-- The bits of a word from one position on are a field and the bits above it. -/
theorem shiftRight_eq_field (w hi lo n : Nat) (h : lo + n = hi + 1) : w >>> lo = 2 ^ n * (w >>> (hi + 1)) + fieldN w hi lo := by
  have hn : hi + 1 - lo = n := by omega
  rw [fieldN, hn, ← h, Nat.shiftRight_add, Nat.shiftRight_eq_div_pow _ n, Nat.div_add_mod]

theorem toNat_ofNat_fieldN (w hi lo : Nat) {n : Nat} (h : hi + 1 - lo = n) :
    (BitVec.ofNat n (fieldN w hi lo)).toNat = fieldN w hi lo := by
  rw [BitVec.toNat_ofNat, Nat.mod_eq_of_lt (h ▸ fieldN_lt w hi lo)]

/-- A word with no reserved code is the word of its fields: its format ignores no bit (R216-R221). -/
theorem wordOf_parseAs (k : Format) {w : Nat} (hw : w < 2 ^ 64) (hbit : (parseAs k w).rsvdBit = false)
    (hval : (parseAs k w).rsvdVal = false) (hshape : (parseAs k w).badShape = false)
    (htgt : (parseAs k w).badTarget = false) : wordOf (fieldN w 63 56) (parseAs k w).fmt = w := by
  have hty : (Ty.ofCode (fieldN w 53 50)).code = fieldN w 53 50 := Ty.code_ofCode (fieldN_lt w 53 50)
  have hhi : (Target.ofCode (fieldN w 21 11)).isNone = false → (targetOf (fieldN w 21 11)).code = fieldN w 21 11 :=
    code_targetOf (fieldN_lt w 21 11)
  have hlo : (Target.ofCode (fieldN w 10 0)).isNone = false → (targetOf (fieldN w 10 0)).code = fieldN w 10 0 :=
    code_targetOf (fieldN_lt w 10 0)
  have htop : w >>> (63 + 1) = 0 := by rw [Nat.shiftRight_eq_div_pow, Nat.div_eq_of_lt hw]
  have hbits : w >>> 0 = w := Nat.shiftRight_zero
  cases k with
  | g =>
    obtain ⟨hta, htb⟩ := Bool.or_eq_false_iff.mp htgt
    simp only [parseAs, wordOf, Fmt.pr, hty, hhi hta, hlo htb, code_getD Pr.code_of_ofCode _ hval,
      code_getD Sh.code_of_ofCode _ hshape, Rm.code_ofCode (fieldN_lt w 47 45), bit_of_beq_one (fieldN_lt w 44 44),
      toNat_ofNat_fieldN]
    grind only [shiftRight_eq_field w 63 56 8 rfl, shiftRight_eq_field w 55 54 2 rfl, shiftRight_eq_field w 53 50 4 rfl,
      shiftRight_eq_field w 49 48 2 rfl, shiftRight_eq_field w 47 45 3 rfl, shiftRight_eq_field w 44 44 1 rfl,
      shiftRight_eq_field w 43 41 3 rfl, shiftRight_eq_field w 40 35 6 rfl, shiftRight_eq_field w 34 22 13 rfl,
      shiftRight_eq_field w 21 11 11 rfl, shiftRight_eq_field w 10 0 11 rfl]
  | i =>
    obtain ⟨hpr, hipos⟩ := Bool.or_eq_false_iff.mp hval
    have hzero : fieldN w 13 11 = 0 := by simpa [parseAs] using hbit
    simp only [parseAs, wordOf, Fmt.pr, hty, hlo htgt, code_getD Pr.code_of_ofCode _ hpr,
      code_getD Sh.code_of_ofCode _ hshape, code_getD Ipos.code_of_ofCode _ hipos, toNat_ofNat_fieldN]
    grind only [shiftRight_eq_field w 63 56 8 rfl, shiftRight_eq_field w 55 54 2 rfl, shiftRight_eq_field w 53 50 4 rfl,
      shiftRight_eq_field w 49 48 2 rfl, shiftRight_eq_field w 47 16 32 rfl, shiftRight_eq_field w 15 14 2 rfl,
      shiftRight_eq_field w 13 11 3 rfl, shiftRight_eq_field w 10 0 11 rfl]
  | m =>
    obtain ⟨hcodes, hloc⟩ := Bool.or_eq_false_iff.mp hval
    obtain ⟨hpsc, hord⟩ := Bool.or_eq_false_iff.mp hcodes
    obtain ⟨hpr, hsc⟩ := Bool.or_eq_false_iff.mp hpsc
    have hloc : fieldN w 26 25 < 2 := Nat.not_le.mp (of_decide_eq_false hloc)
    simp only [parseAs, wordOf, Fmt.pr, hty, hlo htgt, code_getD Pr.code_of_ofCode _ hpr,
      code_getD Sh.code_of_ofCode _ hshape, code_getD Sc.code_of_ofCode _ hsc, code_getD Ord.code_of_ofCode _ hord,
      bit_of_beq_one hloc, toNat_ofNat_fieldN]
    grind only [shiftRight_eq_field w 63 56 8 rfl, shiftRight_eq_field w 55 54 2 rfl, shiftRight_eq_field w 53 50 4 rfl,
      shiftRight_eq_field w 49 48 2 rfl, shiftRight_eq_field w 47 43 5 rfl, shiftRight_eq_field w 42 38 5 rfl,
      shiftRight_eq_field w 37 33 5 rfl, shiftRight_eq_field w 32 30 3 rfl, shiftRight_eq_field w 29 27 3 rfl,
      shiftRight_eq_field w 26 25 2 rfl, shiftRight_eq_field w 24 11 14 rfl, shiftRight_eq_field w 10 0 11 rfl]
  | c =>
    simp only [parseAs, wordOf, Fmt.pr, hlo htgt, code_getD Pr.code_of_ofCode _ hval, toNat_ofNat_fieldN]
    grind only [shiftRight_eq_field w 63 56 8 rfl, shiftRight_eq_field w 55 54 2 rfl, shiftRight_eq_field w 53 51 3 rfl,
      shiftRight_eq_field w 50 48 3 rfl, shiftRight_eq_field w 47 16 32 rfl, shiftRight_eq_field w 15 11 5 rfl,
      shiftRight_eq_field w 10 0 11 rfl]
  | t =>
    obtain ⟨hta, htb⟩ := Bool.or_eq_false_iff.mp htgt
    simp only [parseAs, wordOf, Fmt.pr, hty, hhi hta, hlo htb, code_getD Pr.code_of_ofCode _ hval,
      code_getD Sh.code_of_ofCode _ hshape, toNat_ofNat_fieldN]
    grind only [shiftRight_eq_field w 63 56 8 rfl, shiftRight_eq_field w 55 54 2 rfl, shiftRight_eq_field w 53 50 4 rfl,
      shiftRight_eq_field w 49 48 2 rfl, shiftRight_eq_field w 47 40 8 rfl, shiftRight_eq_field w 39 34 6 rfl,
      shiftRight_eq_field w 33 22 12 rfl, shiftRight_eq_field w 21 11 11 rfl, shiftRight_eq_field w 10 0 11 rfl]
  | s =>
    obtain ⟨hta, htb⟩ := Bool.or_eq_false_iff.mp htgt
    simp only [parseAs, wordOf, Fmt.pr, hhi hta, hlo htb, code_getD Pr.code_of_ofCode _ hval, toNat_ofNat_fieldN]
    grind only [shiftRight_eq_field w 63 56 8 rfl, shiftRight_eq_field w 55 54 2 rfl, shiftRight_eq_field w 53 40 14 rfl,
      shiftRight_eq_field w 39 22 18 rfl, shiftRight_eq_field w 21 11 11 rfl, shiftRight_eq_field w 10 0 11 rfl]

/-! ## Opcodes and instructions -/

/-- An instruction is made of the opcode and the fields that it stands for (R223, R224). -/
theorem opFields_of_mkInstr {op : Nat} {f : Fmt} {i : Instr} (h : mkInstr op f = some i) : opFields i = some (op, f) := by
  cases f <;> simp only [mkInstr] at h <;> split at h <;> try split at h
  all_goals cases h
  all_goals rfl

/-- An opcode that makes an instruction is assigned, with the format of the fields (R223). -/
theorem formatOf_of_mkInstr {op : Nat} {f : Fmt} {i : Instr} (h : mkInstr op f = some i) :
    formatOf op = some f.format ∧ 0 < op ∧ op < 0xF0 := by
  cases f <;> simp only [mkInstr] at h <;> split at h <;> try split at h
  all_goals cases h
  all_goals exact ⟨rfl, by decide, by decide⟩

/-- A well-formed instruction of a block has an opcode and fields that its description accepts and that make it. -/
theorem wellFormed_encode {i : Instr} {w : Nat} (hi : WellFormed i) (hw : encode i = some w) :
    ∃ op f, w = wordOf op f ∧ ruleOf op f = none ∧ mkInstr op f = some i := by
  obtain ⟨⟨op, f⟩, hof, rfl⟩ := Option.map_eq_some_iff.mp hw
  simp only [WellFormed, ruleAccepts, hof, Bool.and_eq_true, beq_iff_eq] at hi
  exact ⟨op, f, rfl, hi⟩

/-- A judgement that gives an instruction found no reserved code, fields that the opcode accepts, and an instruction of them. -/
theorem judge_eq_ok {op : Nat} {p : Parsed} {i : Instr} (h : judge op p = .ok i) :
    p.rsvdBit = false ∧ p.rsvdVal = false ∧ p.badShape = false ∧ p.badTarget = false ∧
    ruleOf op p.fmt = none ∧ mkInstr op p.fmt = some i := by
  unfold judge at h
  split at h; · cases h
  split at h; · cases h
  split at h; · cases h
  split at h; · cases h
  split at h; · cases h
  split at h; · cases h
  split at h
  · cases h; simp_all
  · cases h

/-- A word that decodes has an assigned opcode, and its fields in the opcode's format are judged to be the instruction. -/
theorem decodeWord_eq_ok {w : Nat} {i : Instr} (h : decodeWord w = .ok i) :
    ∃ k, formatOf (fieldN w 63 56) = some k ∧ judge (fieldN w 63 56) (parseAs k w) = .ok i := by
  unfold decodeWord at h
  dsimp only at h
  split at h; · cases h
  split at h
  · cases h
  · next k hk => exact ⟨k, hk, h⟩

/-- The word of accepted fields decodes to the instruction that they make. -/
theorem decodeWord_wordOf {op : Nat} {f : Fmt} {i : Instr} (hrule : ruleOf op f = none) (hi : mkInstr op f = some i) :
    decodeWord (wordOf op f) = .ok i := by
  obtain ⟨hformat, hpos, hlt⟩ := formatOf_of_mkInstr hi
  obtain ⟨-, hop⟩ := wordOf_lt (by omega : op < 256) f
  have hassigned : (decide (op = 0) || decide (0xF0 ≤ op)) = false := by simp; omega
  simp [decodeWord, hop, hassigned, hformat, parseAs_wordOf op f, judge, hrule, hi]

/-! ## Bytes -/

theorem length_leBytes (n k : Nat) : (leBytes n k).length = k := by
  induction k generalizing n with
  | zero => rfl
  | succ k ih => simp [leBytes, ih]

theorem leNat_leBytes (n k : Nat) : leNat (leBytes n k) = n % 256 ^ k := by
  induction k generalizing n with
  | zero => simp [leBytes, leNat, Nat.mod_one]
  | succ k ih => simp only [leBytes, leNat, BitVec.toNat_ofNat, ih, Nat.pow_succ', Nat.mod_mul (x := n) (a := 256)]

theorem decodeBytes_leBytes {w : Nat} (hw : w < 2 ^ 64) : decodeBytes (leBytes w 8) = decodeWord w := by
  have hlen := length_leBytes w 8
  rw [decodeBytes, if_neg (by omega), List.take_of_length_le (by omega), leNat_leBytes, Nat.mod_eq_of_lt (by simpa using hw)]

end Sys2Proof

namespace Sys2Proof.Machine

/-- Settles O50: the word of accepted fields holds them, so that the judgement of the decoder finds the instruction they make. -/
theorem decodeEncode : Obligations.DecodeEncode := by
  intro i w hi hw
  obtain ⟨op, f, rfl, hrule, hmk⟩ := wellFormed_encode hi hw
  obtain ⟨-, -, hlt⟩ := formatOf_of_mkInstr hmk
  obtain ⟨hw64, -⟩ := wordOf_lt (by omega : op < 256) f
  have hword := decodeWord_wordOf hrule hmk
  have hbytes := (decodeBytes_leBytes hw64).trans hword
  refine ⟨hw64, hword, hbytes, ?_⟩
  rw [decodeTableWord, Nat.mod_eq_of_lt hw64, hbytes]
  simp

/-- Settles O51: with no reserved code, the fields of a word give every bit of it back. -/
theorem encodeDecode : Obligations.EncodeDecode := by
  intro w i hw h
  obtain ⟨k, -, hjudge⟩ := decodeWord_eq_ok h
  obtain ⟨hbit, hval, hshape, htgt, hrule, hmk⟩ := judge_eq_ok hjudge
  have hof := opFields_of_mkInstr hmk
  refine ⟨?_, ?_⟩
  · simp [WellFormed, ruleAccepts, hof, hrule, hmk]
  · simp [encode, hof, wordOf_parseAs k hw hbit hval hshape htgt]

end Sys2Proof.Machine

/-! # Proofs: what every instruction does before its own effect, and where its tokens go -/

namespace Sys2Proof.Machine

/-! ## The frame of every instruction -/

/-- Every instruction of a block runs in the frame of `fireWith`, with its own opcode and fields (R158). -/
theorem exec_eq_fireWith {i : Instr} {op : Nat} {f : Fmt} (h : opFields i = some (op, f)) (s : State) :
    ∃ go, exec i s = fireWith s op f go := by
  cases i <;> cases h
  all_goals
    simp only [exec, lift1, lift2, lift3,
      execMov, execMovi, execNullTok, execReadReg, execSel, execInTok, execStopTok, execTokt, execColor, execAdd, execSub,
      execMul, execMulh, execDiv, execRem, execMin, execMax, execAbs, execNeg, execAnd, execOr, execXor, execNot, execShl,
      execShr, execSra, execRot, execClz, execPopc, execBrev, execBext, execBins, execMadd, execLea, execCmp, execAddi,
      execAndi, execOri, execXori, execCmpi, execShfl, execFadd, execFsub, execFmul, execFfma, execFdiv, execFsqrt, execFmin,
      execFmax, execFabs, execFneg, execFcmp, execFclass, execCvt, execFrint, execFscale, execFaddi, execFmuli, execFexp2,
      execRed, execPfx, execLane, execVins, execVidx, execDsrc, execDsink, execDadd, execDsub, execDmul, execDdiv, execDsqrt,
      execDfma, execDrelu, execDmax, execDmin, execDthr, execDexp2, execDacc, execDred, execDscl, execTload, execTswap,
      execMmrow, execMmout, execMmzero, execTdir, execTclass, execTfill, execShape, execShapeq, execSbind, execSbar, execScan,
      execIsect, execUnionS, execRepeatS, execSacc, execGather, execScatter, execScata, execLd, execSt, execLdv, execStv,
      execLdw, execStf, execClr, execAadd, execAmin, execAmax, execAand, execAor, execAxor, execAswp, execAcas, execAfadd,
      execFence, execMwait, execPref, execWback, execInval, execRput, execRget, execRfree, execRstat, execBr, execBri, execCall,
      execCalli, execRet, execSpawn, execRetc, execHalt, execYield, execWaypt, execTrap, execBrk, execBarw, execBara, execBart,
      execSemw, execSema, execSemr, execEvt, execCopy, execBatch, execWaitb, execLaunch, execSplice, execCancelLaunch,
      execCancelCopies, execQstat, execCstat, execCsrr, execCsrw, execMailr, execResume, execAbort, execChload, execChact,
      execPreempt, execCksave, execCkrest, execTlbi, execAlmr, execAlmw, execReckRdbudget, execReckWrbudget, execReckRdctr,
      execSound, execIdle, execAttest]
    exact ⟨_, rfl⟩

/-- An instruction whose slot may not fire changes nothing (R158). -/
theorem fireWith_not_pending {s : State} (op : Nat) (f : Fmt) (go : State → Agent → Nat → Slot → State)
    (h : s.pendingHere = none) : fireWith s op f go = .next s := by
  unfold fireWith
  dsimp only
  split
  · rfl
  next w hw =>
  split
  · rfl
  next sl hsl =>
  have hstop : ¬ (sl.st = .waiting ∧ w.stopped = false ∧ (s.task s.here.agent).st = .active) := by
    simpa [State.pendingHere, State.slotHere, hw, hsl] using h
  rw [if_pos]
  simp only [Bool.or_eq_true, decide_eq_true_eq]
  grind

/-- An instruction that is judged to wait or to be unable to fire changes nothing. -/
theorem fireWith_idle {s : State} {op : Nat} {f : Fmt} (go : State → Agent → Nat → Slot → State)
    (h : s.judged op f = none ∨ s.judged op f = some .wait ∨ s.judged op f = some .dead) : fireWith s op f go = .next s := by
  cases hp : s.pendingHere with
  | none => exact fireWith_not_pending op f go hp
  | some p =>
    obtain ⟨w, sl⟩ := p
    rw [fireWith_pending op f go hp]
    simp only [State.judged, hp, reduceCtorEq, Option.some.injEq, false_or] at h
    rcases h with h | h <;> rw [h]

/-- An instruction with its operands there but not what else it needs changes nothing. -/
theorem fireWith_not_ready {s : State} {op : Nat} {f : Fmt} (go : State → Agent → Nat → Slot → State)
    (hgo : s.judged op f = some .go) (h : s.ready op f = false) : fireWith s op f go = .next s := by
  cases hp : s.pendingHere with
  | none => exact fireWith_not_pending op f go hp
  | some p =>
    obtain ⟨w, sl⟩ := p
    have hcan : s.canGo s.here.agent op f w s.here.slot = false := by simpa [State.ready, hp, hgo] using h
    simp only [State.judged, hp, Option.some.injEq] at hgo
    simp [fireWith_pending op f go hp, hgo, hcan]

/-- Settles O53: every instruction of a block runs in one frame, which says what happens before its own effect. -/
theorem firingOutcomes : Obligations.FiringOutcomes := by
  intro s i op f hi
  obtain ⟨go, hexec⟩ := exec_eq_fireWith hi s
  refine ⟨fun h => ?_, fun hgo h => ?_, fun w sl hp => ⟨fun h => ?_, fun k h => ?_⟩⟩
  · rw [hexec, fireWith_idle go h]
  · rw [hexec, fireWith_not_ready go hgo h]
  all_goals
    simp only [State.judged, hp, Option.some.injEq] at h
    rw [hexec, fireWith_pending op f go hp, h]

/-! ## The operands' verdict -/

/-- No arrival stands first only where there is none. -/
theorem firstAt_eq_none {l : List (Fld × Arrival)} : firstAt l = none ↔ l = [] := by
  rcases List.eq_nil_or_concat l with rfl | ⟨r, e, rfl⟩
  · simp [firstAt]
  · simp only [firstAt, List.concat_eq_append, List.foldl_append, List.foldl_cons, List.foldl_nil]
    split <;> simp

/-- With no arrival that satisfies a condition, none stands first. -/
theorem firstAt_filter_none {l : List (Fld × Arrival)} {p : Fld × Arrival → Bool} (h : ∀ e ∈ l, p e = false) :
    firstAt (l.filter p) = none := by
  rw [firstAt_eq_none, List.filter_eq_nil_iff]
  intro e he
  simp [h e he]

/-- With an arrival that satisfies a condition, one stands first. -/
theorem firstAt_filter_some {l : List (Fld × Arrival)} {p : Fld × Arrival → Bool} (h : ∃ e ∈ l, p e = true) :
    ∃ n, firstAt (l.filter p) = some n := by
  cases hn : firstAt (l.filter p) with
  | some n => exact ⟨n, rfl⟩
  | none =>
    obtain ⟨e, he, hp⟩ := h
    rw [firstAt_eq_none, List.filter_eq_nil_iff] at hn
    exact absurd hp (hn e he)

/-- Is a token offered a stop token that decides (R239)? -/
def decidingStop (op : Nat) (e : Fld × Arrival) : Bool := e.2.tok.stop != 0 && (e.1 == .p || !ownStop op e.1)

/-- Is a token offered a predicate that does not match PR (R158)? -/
def predicateMiss (f : Fmt) (e : Fld × Arrival) : Bool :=
  e.1 == .p && f.pr != .always && e.2.tok.stop == 0 && !e.2.tok.isNull && !prMatches f.pr e.2.tok

/-- The verdict, by which of the three kinds of deciding tokens stands first (R158, R239). -/
theorem verdict_eq (s : State) (a : Agent) (op : Nat) (f : Fmt) (fed : Bool) (sl : Slot) {n m k : Option Nat}
    (hn : firstAt ((s.offers a op f sl s.cycle).filter fun e => e.2.tok.isNull) = n)
    (hm : firstAt ((s.offers a op f sl s.cycle).filter (predicateMiss f)) = m)
    (hk : firstAt ((s.offers a op f sl s.cycle).filter (decidingStop op)) = k) :
    s.verdict a op f fed sl =
      if noLater n m && noLater n k then .null
      else if noLater m k then (if isM op && n.isSome then .null else .dead)
      else if k.isSome then .pass ((s.offers a op f sl s.cycle).foldl (fun m e => max m e.2.tok.stop) 0)
      else if (awaited op f fed ++ (if (chlOf op f).isSome then [Fld.l] else [])).all
          (fun x => (s.offers a op f sl s.cycle).any fun e => e.1 == x) then .go else .wait := by
  subst hn hm hk
  rfl

/-- Settles O54: of the three kinds of deciding tokens at most one is there, and it stands first. -/
theorem operandsJudge : Obligations.OperandsJudge := by
  intro s a op f fed sl os null stop miss need
  have hnull : ∀ e : Fld × Arrival, ¬ null e → e.2.tok.isNull = false := fun e h => by simpa [null] using h
  have hstop : ∀ e : Fld × Arrival, stop e ↔ decidingStop op e = true := fun e => by
    simp [stop, decidingStop]
  have hmiss : ∀ e : Fld × Arrival, miss e ↔ predicateMiss f e = true := fun e => by
    simp [miss, predicateMiss, and_assoc]
  refine ⟨fun h => ?_, fun ⟨e, he, hn⟩ h => ?_, fun ⟨e, he, hm⟩ h => ?_, fun ⟨e, he, hs⟩ h => ?_⟩
  · rw [verdict_eq s a op f fed sl (firstAt_filter_none fun e he => hnull e (h e he).1)
      (firstAt_filter_none fun e he => by simpa [hmiss] using (h e he).2.2)
      (firstAt_filter_none fun e he => by simpa [hstop] using (h e he).2.1)]
    simp only [noLater, Bool.false_and, Bool.false_eq_true, if_false, Option.isSome_none]
    exact ite_congr (propext (by simp only [List.all_eq_true, List.any_eq_true, beq_iff_eq, need, os])) (fun _ => rfl) fun _ => rfl
  · obtain ⟨n, hn⟩ := firstAt_filter_some (p := fun e => e.2.tok.isNull) ⟨e, he, hn⟩
    rw [verdict_eq s a op f fed sl hn (firstAt_filter_none fun e he => by simpa [hmiss] using (h e he).2)
      (firstAt_filter_none fun e he => by simpa [hstop] using (h e he).1)]
    simp [noLater]
  · obtain ⟨m, hm⟩ := firstAt_filter_some (p := predicateMiss f) ⟨e, he, (hmiss e).mp hm⟩
    rw [verdict_eq s a op f fed sl (firstAt_filter_none fun e he => hnull e (h e he).1) hm
      (firstAt_filter_none fun e he => by simpa [hstop] using (h e he).2)]
    simp [noLater]
  · obtain ⟨k, hk⟩ := firstAt_filter_some (p := decidingStop op) ⟨e, he, (hstop e).mp hs⟩
    rw [verdict_eq s a op f fed sl (firstAt_filter_none fun e he => hnull e (h e he).1)
      (firstAt_filter_none fun e he => by simpa [hmiss] using (h e he).2) hk]
    simp [noLater, os]

/-! ## Where a sent token goes -/

/-- A token that an agent without a fault sends reaches its target. -/
theorem send_of_no_fault {s : State} {a : Agent} (h : (s.task a).fault = none) (i op : Nat) (f : Fmt) (tgt : Target) (tok : Token)
    (lat : Nat) : s.send a i op f tgt tok lat =
      match tgt with
      | .none => s
      | .slot n x => s.give a i n.val x tok lat
      | .sreg n => s.giveReg a i n.val (regValue n.val tok)
      | .vreg n => s.giveReg a i (32 + n.val) (regValue (32 + n.val) tok)
      | .chan n x => s.giveChan a i n.val x op f tok := by
  cases tgt <;> simp [State.send, h]

/-- A register's first delivery of an attempt is kept for the commit (R240). -/
theorem giveReg_first {s : State} {a : Agent} {w : Win} (hw : s.win a = some w) (i : Nat) {n : Nat} (v : Option Payload)
    (h : w.regs.find n = none) : s.giveReg a i n v = s.modWin a fun w => { w with regs := w.regs.put n v } := by
  simp [State.giveReg, hw, h]

/-- A register's second delivery is TWICE (R160). -/
theorem giveReg_twice {s : State} {a : Agent} {w : Win} (hw : s.win a = some w) (i : Nat) {n : Nat} (v : Option Payload)
    (h : w.regs.find n ≠ none) : s.giveReg a i n v = s.blockFault a (some i) fcWmask bcTwice 0 := by
  simp [State.giveReg, hw, Option.isSome_iff_ne_none.mpr h]

/-- A field that keeps a token gains it, unless its slot cannot fire any more (R158). -/
theorem give_keep {s : State} {a : Agent} {w : Win} {n op : Nat} {f : Fmt} {sl : Slot} {y : Fld} {tok : Token} (i lat : Nat)
    (hw : s.win a = some w) (hsl : w.slots[n]? = some sl) (hf : s.fieldsAt a w.baddr n = some (op, f))
    (hskip : (sl.fld y).skip = 0) (hkeep : reach op f sl y tok = .keep) :
    s.give a i n y tok lat =
      if sl.st = .waiting ∧ y ≠ .p ∧ tok.isNull = false ∧ s.verdictAt a op f false sl (s.cycle + lat) = .dead then
        s.setSlot a n fun sl => sl.setFld y { sl.fld y with got := true }
      else s.setSlot a n fun sl => sl.setFld y (sl.fld y |>.push tok (s.cycle + lat) (i + 1)) := by
  simp only [State.give, hw, hsl, hf, hskip, hkeep, ne_eq, not_true_eq_false, if_false, Bool.and_eq_true, beq_iff_eq, bne_iff_ne,
    Bool.not_eq_true', and_assoc]

/-- Settles O55: a sending is judged by its agent's fault, then by its target, as `send_of_no_fault` and the rules of each target say. -/
theorem sendTargets : Obligations.SendTargets := by
  intro s a i op f tok lat w hw
  refine ⟨fun hfault hp t => ?_, fun hfault => ?_⟩
  · simp [State.send, Option.isSome_iff_ne_none.mpr hfault, hp]
  simp only [send_of_no_fault hfault]
  refine ⟨trivial, fun n h => ?sreg, fun n h => ?vreg, fun n h => ?twice, fun n x sl op' f' hsl hf hskip hkeep => ?slot, fun n x h => ?chan⟩
  case sreg =>
    rw [giveReg_first hw i _ h, regValue]
    by_cases hs : tok.stop = 0 <;> simp [hs]
  case vreg =>
    have hvec : ¬32 + n.val < 32 := by omega
    rw [giveReg_first hw i _ h, regValue]
    by_cases hs : tok.stop = 0 <;> simp [hs, hvec]
  case twice => exact giveReg_twice hw i _ h
  case slot =>
    rw [give_keep i lat hw hsl hf hskip hkeep]
    exact ⟨fun h => if_neg h, fun h => if_pos h⟩
  case chan => simp [State.giveChan, hw, h]

end Sys2Proof.Machine

/-! # Proofs: the state at reset, one step, words written out, and memory's canonical form -/

namespace Sys2Proof.Machine

/-! ## Words written out -/

/-- Settles O49: the decoder is run on each word. -/
theorem decodedWords : Obligations.DecodedWords := by
  exact ⟨rfl, rfl, rfl, rfl, rfl, rfl, rfl, rfl, rfl, rfl, rfl, rfl⟩

/-! ## The state at reset -/

/-- Settles O47: every part of the state at reset is written out in it; no agent's table lists anything. -/
theorem resetState : Obligations.ResetState := by
  refine ⟨rfl, fun _ => rfl, rfl, rfl, rfl, rfl, rfl, rfl, rfl, rfl, fun _ => rfl, rfl, rfl, rfl, fun _ => by simp [State.reset],
    fun a => ?_, fun _ => rfl, fun _ => rfl, fun _ => rfl, rfl⟩
  cases a <;> rfl

/-! ## Memory's canonical form -/

/-- The first entry of a canonical memory is the lowest address that reads as something. -/
theorem memGet_head {lo k : Nat} {b : Byte} {r : List Host.Cell} (h : memWfFrom lo ((k, b) :: r) = true) :
    memGet ((k, b) :: r) k = b ∧ b ≠ memDefault ∧ lo ≤ k ∧ memWfFrom (k + 1) r = true := by
  simp only [memWfFrom, Bool.and_eq_true, decide_eq_true_eq, bne_iff_ne] at h
  exact ⟨by simp [memGet], h.1.2, h.1.1, h.2⟩

/-- Behind its first entry a canonical memory reads as its rest. -/
theorem memGet_tail {k a : Nat} {b : Byte} {r : List Host.Cell} (h : k < a) : memGet ((k, b) :: r) a = memGet r a := by
  simp [memGet, show ¬ a < k by omega, show ¬ a = k by omega]

/-- Canonical memories that read the same are the same list. -/
theorem eq_of_memGet_eq {lo : Nat} {m n : List Host.Cell} (hm : memWfFrom lo m = true) (hn : memWfFrom lo n = true)
    (h : ∀ a, memGet m a = memGet n a) : m = n := by
  induction m generalizing lo n with
  | nil =>
    cases n with
    | nil => rfl
    | cons e r =>
      obtain ⟨hget, hne, -, -⟩ := memGet_head hn
      exact absurd ((h e.1).trans hget).symm hne
  | cons e r ih =>
    obtain ⟨k, b⟩ := e
    obtain ⟨hk, hb, -, hr⟩ := memGet_head hm
    cases n with
    | nil => exact absurd (hk.symm.trans (h k)) hb
    | cons e' r' =>
      obtain ⟨k', b'⟩ := e'
      obtain ⟨hk', hb', -, hr'⟩ := memGet_head hn
      have hkey : k = k' := by
        rcases Nat.lt_trichotomy k k' with hlt | heq | hgt
        · exact absurd (by rw [← hk, h k]; simp [memGet, hlt]) hb
        · exact heq
        · exact absurd (by rw [← hk', ← h k']; simp [memGet, hgt]) hb'
      subst hkey
      have hbyte : b = b' := by rw [← hk, ← hk', h k]
      have hrest : r = r' := ih hr hr' fun a => by
        by_cases ha : a < k + 1
        · rw [memGet_below hr ha, memGet_below hr' ha]
        · rw [← memGet_tail (b := b) (r := r) (by omega : k < a), h a, memGet_tail (by omega)]
      rw [hbyte, hrest]

/-- Settles O52: entries rise and are never the default, so that contents fix the list; a write is one byte after another. -/
theorem memoryCanonical : Obligations.MemoryCanonical := by
  refine fun m n hm hn => ⟨fun h => eq_of_memGet_eq hm hn h, fun a bs =>
    ⟨memWrite_wf a bs hm, fun c hc => memGet_memWrite_out a c bs hm hc, fun i hi => ?_⟩⟩
  rw [memGet_memWrite_in a bs hm i hi, List.getElem?_eq_getElem hi, Option.getD_some]

/-! ## One step -/

/-- A change of a cell that keeps its tasks keeps every task. -/
theorem task_modCell_of {f : Cell → Cell} (s : State) (k : Nat) (h : (f (s.cell k)).tasks = (s.cell k).tasks) (b : Agent) :
    (s.modCell k f).task b = s.task b := by
  cases b with
  | helm n => rfl
  | task d p t =>
    simp only [State.task, Cell.task, cell_modCell]
    split
    · next hk => rw [h, hk]
    · rfl

/-- A change of a helm core that keeps its task keeps every task. -/
theorem task_modHelm_of {f : Helm → Helm} (s : State) (n : Nat) (h : (f (s.helm n)).task = (s.helm n).task) (b : Agent) :
    (s.modHelm n f).task b = s.task b := by
  cases b with
  | task d p t => rfl
  | helm m =>
    simp only [State.task, helm_modHelm]
    split
    · next hn => rw [h, hn]
    · rfl

@[simp] theorem task_setEngSt (s : State) (a : Agent) (e : EngSt) (b : Agent) : (s.setEngSt a e).task b = s.task b := by
  cases a with
  | task d p t => exact task_modCell_of s _ rfl b
  | helm n => exact task_modHelm_of s _ rfl b

/-- Agents see their block's words through their context. -/
theorem blockStore_congr {s t : State} {a : Agent} (htask : (t.task a).cctx = (s.task a).cctx)
    (hcell : ∀ k, (t.cell k).cctxs = (s.cell k).cctxs) (hhelm : ∀ n, (t.helm n).blocks = (s.helm n).blocks) :
    t.blockStore a = s.blockStore a := by
  cases a with
  | helm n => exact hhelm n
  | task d p k =>
    have htask : ((t.cell (cellKey d p)).task k).cctx = ((s.cell (cellKey d p)).task k).cctx := htask
    simp only [State.blockStore, State.cfgOf, Cell.cctx, hcell, htask]

theorem cctxs_setEngSt (s : State) (a : Agent) (e : EngSt) (k : Nat) : ((s.setEngSt a e).cell k).cctxs = (s.cell k).cctxs := by
  cases a with
  | task d p t => simp only [State.setEngSt, cell_modCell]; split <;> simp_all
  | helm n => rfl

theorem blocks_setEngSt (s : State) (a : Agent) (e : EngSt) (n : Nat) : ((s.setEngSt a e).helm n).blocks = (s.helm n).blocks := by
  cases a with
  | task d p t => rfl
  | helm m => simp only [State.setEngSt, helm_modHelm]; split <;> simp_all

theorem cctxs_modTask (s : State) (a : Agent) (f : TaskCtx → TaskCtx) (k : Nat) :
    ((s.modTask a f).cell k).cctxs = (s.cell k).cctxs := by
  cases a with
  | task d p t => simp only [State.modTask, cell_modCell]; split <;> simp_all
  | helm n => rfl

theorem blocks_modTask (s : State) (a : Agent) (f : TaskCtx → TaskCtx) (n : Nat) :
    ((s.modTask a f).helm n).blocks = (s.helm n).blocks := by
  cases a with
  | task d p t => rfl
  | helm m => simp only [State.modTask, helm_modHelm]; split <;> simp_all

/-- An issue of an instruction that its engine picks runs it (R162). -/
theorem prepare_eq_run {t : State} {a : Agent} {c : Cand} {e : EngSt} {w : Win} {i : Instr} (hpick : t.pickIssue a = some (c, e))
    (hstop : t.preciseStop c = none) (hw : t.win c.agent = some w)
    (hi : decodeWord (slotWord (t.blockStore c.agent) w.baddr c.slot).toNat = .ok i) :
    t.prepare a = .run { (t.setEngSt a e).modTask c.agent fun t => { t with skip := none } with
      here := { agent := c.agent, slot := c.slot } } i := by
  have hwin : ((t.setEngSt a e).modTask c.agent fun t => { t with skip := none }).win c.agent = some w := by
    rw [State.win, task_modTask_same, task_setEngSt]
    exact hw
  have hstore : ((t.setEngSt a e).modTask c.agent fun t => { t with skip := none }).blockStore c.agent = t.blockStore c.agent := by
    refine blockStore_congr ?_ (fun k => ?_) (fun n => ?_)
    · rw [task_modTask_same, task_setEngSt]
    · rw [cctxs_modTask, cctxs_setEngSt]
    · rw [blocks_modTask, blocks_setEngSt]
  simp only [State.prepare, hpick, hstop, hwin, State.instrAt, hstore, hi]

/-! ## The passing of a cycle -/

/-- What a key of a table holds after every entry has changed. -/
theorem find_map_entries {α : Type} (t : Table α) (g : Nat × α → α) (k : Nat) :
    Table.find (t.map fun e => (e.1, g e)) k = (t.find k).map fun a => g (k, a) := by
  induction t with
  | nil => rfl
  | cons e r ih =>
    obtain ⟨j, a⟩ := e
    by_cases hj : j = k
    · subst hj; simp [Table.find]
    · simpa [Table.find, hj] using ih

theorem cell_tick (s : State) (k : Nat) : s.tick.cell k = { s.cell k with inCycle := 0, unitsUsed := [] } := by
  simp only [State.tick, State.cell, Table.get, find_map_entries _ (fun e : Nat × Cell => { e.2 with inCycle := 0, unitsUsed := [] })]
  cases s.cells.find k <;> rfl

theorem helm_tick (s : State) (k : Nat) : s.tick.helm k = { s.helm k with inCycle := 0, unitsUsed := [] } := by
  simp only [State.tick, State.helm, Table.get, find_map_entries _ (fun e : Nat × Helm => { e.2 with inCycle := 0, unitsUsed := [] })]
  cases s.helms.find k <;> rfl

/-- The counters of a region after a cycle: THROT rises under a throttle level while it may run and its account is open (R384). -/
def Region.throttled (r : Region) : Region :=
  if r.level = 0 || r.closedAt.isSome || !(r.st == .active || r.st == .gating) then r else { r with cur := listModify r.cur 7 (· + 1) }

theorem region_tick (s : State) (k : Nat) : s.tick.regions.find k = (s.regions.find k).map Region.throttled := by
  rw [← find_map_entries s.regions (fun e => e.2.throttled)]
  simp only [State.tick]
  congr 1
  refine List.map_congr_left fun e _ => ?_
  unfold Region.throttled
  split <;> rfl

theorem cur_throttled (r : Region) : r.throttled.cur =
    if r.level ≠ 0 ∧ r.closedAt = none ∧ (r.st = .active ∨ r.st = .gating) then listModify r.cur 7 (· + 1) else r.cur := by
  have hcond : (r.level = 0 || r.closedAt.isSome || !(r.st == .active || r.st == .gating)) = true ↔
      ¬ (r.level ≠ 0 ∧ r.closedAt = none ∧ (r.st = .active ∨ r.st = .gating)) := by
    simp only [Bool.or_eq_true, decide_eq_true_eq, Bool.not_eq_true', Bool.or_eq_false_iff, beq_eq_false_iff_ne,
      Option.isSome_iff_ne_none]
    grind
  unfold Region.throttled
  by_cases h : r.level ≠ 0 ∧ r.closedAt = none ∧ (r.st = .active ∨ r.st = .gating)
  · rw [if_neg (by rw [hcond]; exact Classical.not_not.mpr h), if_pos h]
  · rw [if_pos (hcond.mpr h), if_neg h]

/-- Settles O48: a step is what its agenda names; an issue runs what `prepare` finds, and a tick changes the entries of three tables. -/
theorem stepRunsDecoded : Obligations.StepRunsDecoded := by
  refine ⟨fun s r => ⟨?issue, ?idle, ?tick, ?event, ?free⟩, fun s => ⟨rfl, rfl, rfl, rfl, rfl, fun a => ?agents, fun k r h => ?regions⟩⟩
  case issue =>
    intro a c e w i hag t hpick hstop hw hi
    simp only [step, hag, happen]
    rw [prepare_eq_run hpick hstop hw hi]
  case idle =>
    intro a hag hpick
    simp only [step, hag, happen, State.prepare, hpick]
  case tick =>
    intro hag
    simp only [step, hag, happen]
  case event =>
    intro i hag hi
    simp only [step, hag, happen, hi, if_true]
  case free =>
    intro hag
    simp only [step, hag]
  case agents =>
    cases a with
    | task d p k => simp [State.task, State.engSt, cell_tick, Cell.task]
    | helm n => simp [State.task, State.engSt, helm_tick]
  case regions => exact ⟨r.throttled, by rw [region_tick, h, Option.map_some], cur_throttled r⟩

end Sys2Proof.Machine

/-! # Proofs: what the operations on memory, banks and logs leave alone -/

namespace Sys2Proof.Machine

/-! ## What a change of memory leaves alone

Storing bytes, logging them, writing a bank back and tracing change memory, its marks, the bank lines and caches, accesses of no
task, logs and the writer of a trace. `State.quiet` is everything else, so that "leaves alone" is one equation; `MemOp` says with it
that memory stays canonical. -/

/-- A cell without its tiles. -/
def Cell.untiled (c : Cell) : Cell := { c with tiles := [] }

/-- A die without its remote-data cache. -/
def Die.uncached (d : Die) : Die := { d with rdc := [] }

/-- A region without its trace. -/
def Region.untraced (r : Region) : Region := { r with trace := (Region.fresh 0).trace }

/-- The parts of a state that no operation on memory changes. -/
structure Quiet where
  rest : State
  cell : Nat → Cell
  die : Nat → Die
  region : Nat → Option Region

/-- Those parts of a state. -/
def State.quiet (s : State) : Quiet where
  rest := { s with mem := [], presence := [], poison := [], ktag := [], entries := [], logown := [], lineAgent := [], lineRun := []
                   cells := [], dies := [], regions := [], accs := [], nextAcc := 0, logs := [] }
  cell k := (s.cell k).untiled
  die d := (s.die d).uncached
  region k := (s.regions.find k).map Region.untraced

/-- One state comes from another by operations on memory alone. None of them makes a log. -/
structure MemOp (s t : State) : Prop where
  quiet : t.quiet = s.quiet
  wf : Memory.wf s.mem = true → Memory.wf t.mem = true
  nolog : s.logs = [] → t.logs = []

namespace MemOp

variable {s t u : State}

theorem refl (s : State) : MemOp s s := ⟨rfl, id, id⟩

theorem trans (h : MemOp s t) (h' : MemOp t u) : MemOp s u := ⟨h'.quiet.trans h.quiet, h'.wf ∘ h.wf, h'.nolog ∘ h.nolog⟩

/-- A change that keeps memory itself and the logs. -/
theorem of_mem_eq (hq : t.quiet = s.quiet) (hm : t.mem = s.mem) (hl : t.logs = s.logs := by rfl) : MemOp s t :=
  ⟨hq, fun h => hm ▸ h, fun h => hl ▸ h⟩

theorem foldl {α : Type} {g : State → α → State} (h : ∀ s x, MemOp s (g s x)) (l : List α) (s : State) : MemOp s (l.foldl g s) := by
  induction l generalizing s with
  | nil => exact refl s
  | cons x r ih => exact (h s x).trans (ih _)

theorem ite {p : Prop} [Decidable p] (h : p → MemOp s t) (h' : ¬ p → MemOp s u) : MemOp s (if p then t else u) := by
  split
  · next hp => exact h hp
  · next hp => exact h' hp

theorem modCell {f : Cell → Cell} (s : State) (k : Nat) (h : ∀ c, (f c).untiled = c.untiled) : MemOp s (s.modCell k f) := by
  refine of_mem_eq ?_ rfl
  simp only [State.quiet, cell_modCell]
  congr 1
  funext j
  split
  · next hk => rw [h, hk]
  · rfl

theorem modTile (s : State) (k n : Nat) (f : Tile → Tile) : MemOp s (s.modCell k fun c => c.modTile n f) := modCell s k fun _ => rfl

theorem modDie {f : Die → Die} (s : State) (d : Nat) (h : ∀ x, (f x).uncached = x.uncached) : MemOp s (s.modDie d f) := by
  refine of_mem_eq ?_ rfl
  simp only [State.quiet, die_modDie]
  congr 1
  funext j
  split
  · next hk => rw [h, hk]
  · rfl

theorem modRegion {f : Region → Region} (s : State) (k : Nat) (h : ∀ r, (f r).untraced = r.untraced) : MemOp s (s.modRegion k f) := by
  refine of_mem_eq ?_ (modRegion_mem s k f) (modRegion_logs s k f)
  simp only [State.quiet, region_modRegion, State.cell, State.die, modRegion_cells, modRegion_dies]
  congr 1
  · unfold State.modRegion; split <;> rfl
  · funext j
    split
    · next hk => subst hk; cases s.regions.find k <;> simp [h]
    · rfl

end MemOp

/-- What an append or a logged write gives is a state that operations on memory alone lead to. -/
structure LogRes.From (s : State) (r : LogRes) : Prop where
  done : ∀ t, r = .done t → MemOp s t

namespace LogRes

variable {s t : State}

theorem from_done (h : MemOp s t) : From s (.done t) := ⟨by rintro _ ⟨⟩; exact h⟩
theorem from_full (ln key pa : Nat) : From s (.full ln key pa) := ⟨by rintro _ ⟨⟩⟩
theorem from_wait : From s .wait := ⟨by rintro _ ⟨⟩⟩
theorem from_diverge (ln : Nat) : From s (.diverge ln) := ⟨by rintro _ ⟨⟩⟩

theorem from_ite {p : Prop} [Decidable p] {r r' : LogRes} (h : p → From s r) (h' : ¬ p → From s r') :
    From s (if p then r else r') := by
  split
  · next hp => exact h hp
  · next hp => exact h' hp

/-- Operations on memory may come before. -/
theorem From.after {r : LogRes} (h : From t r) (h' : MemOp s t) : From s r := ⟨fun u hu => h'.trans (h.done u hu)⟩

/-- Operations on memory may come after a result that was done. -/
theorem From.then {r r' : LogRes} (h : From s r) (ht : r = .done t) (h' : From t r') : From s r' := h'.after (h.done t ht)

theorem From.heldAt {r : LogRes} (h : From s r) (pa : Nat) : From s (r.heldAt pa) := by
  cases r with
  | full ln key pa' => exact from_full ln key pa
  | _ => exact h

end LogRes

/-! ## Bytes at home -/

theorem memOp_setMem {m : List Host.Cell} (s : State) (k : Table Nat) (h : Memory.wf s.mem = true → Memory.wf m = true) :
    MemOp s { s with mem := m, ktag := k } := ⟨rfl, h, id⟩

theorem memOp_rekey (s : State) (k line : Nat) : MemOp s (s.rekey k line) := by
  unfold State.rekey
  split
  · exact .refl s
  · exact memOp_setMem s _ (memWrite_wf _ _)

theorem memOp_rekeyFor (s : State) (k pa n : Nat) : MemOp s (s.rekeyFor k pa n) := by
  refine MemOp.foldl (fun s l => ?_) _ s
  split
  · exact .refl s
  · dsimp only
    split
    · exact memOp_rekey s k l
    · exact (memOp_rekey s k l).trans (.of_mem_eq rfl rfl)

theorem memOp_plainWrite (s : State) (k pa : Nat) (bs : List Byte) : MemOp s (s.plainWrite k pa bs) :=
  (MemOp.foldl (fun s l => memOp_rekey s k l) (linesOf pa bs.length) s).trans ⟨rfl, memWrite_wf pa bs, id⟩

theorem memOp_markLine (s : State) (line : Nat) : MemOp s (s.markLine line) := .of_mem_eq rfl rfl

theorem memOp_updateDir (s : State) (attr : Attr) (pa n : Nat) : MemOp s (s.updateDir attr pa n) := by
  unfold State.updateDir
  split
  · exact .refl s
  · refine MemOp.foldl (fun s j => ?_) _ s
    exact .of_mem_eq rfl rfl

theorem memOp_storeBytes (s : State) (attr : Attr) (pa : Nat) (bs : List Byte) : MemOp s (s.storeBytes attr pa bs) :=
  have hwrite : MemOp (s.rekeyFor attr.conf pa bs.length) { s.rekeyFor attr.conf pa bs.length with
      mem := memWrite (s.rekeyFor attr.conf pa bs.length).mem pa bs
      poison := unmarked (s.rekeyFor attr.conf pa bs.length).poison pa bs.length } := ⟨rfl, memWrite_wf pa bs, id⟩
  (memOp_rekeyFor s ..).trans (hwrite.trans (memOp_updateDir _ attr pa bs.length))

theorem memOp_setAccs (s : State) (l : List Access) (n : Nat) : MemOp s { s with accs := l, nextAcc := n } := .of_mem_eq rfl rfl

theorem memOp_openUnits (s : State) (op : Nat) (us : List AUnit) (about : Nat) : MemOp s (s.openUnits op us about) := by
  unfold State.openUnits
  split
  · exact .refl s
  · exact .of_mem_eq rfl rfl

/-! ## Logs -/

theorem memOp_modLog (s : State) (ln : Nat) (f : ULog → ULog) : MemOp s (s.modLog ln f) := by
  unfold State.modLog
  split
  next l hl => exact ⟨rfl, id, fun h => by rw [h] at hl; cases hl⟩
  next => exact .refl s

theorem memOp_logHeader (s : State) (ln : Nat) : MemOp s (s.logHeader ln) := by
  unfold State.logHeader
  split
  · exact memOp_plainWrite ..
  · exact .refl s

theorem memOp_logPointers (s : State) (ln : Nat) : MemOp s (s.logPointers ln) := by
  unfold State.logPointers
  split
  · exact .refl s
  · exact MemOp.foldl (fun s e => memOp_plainWrite ..) _ s

theorem memOp_horizon (s : State) (ln cause : Nat) : MemOp s (s.horizon ln cause) :=
  (memOp_modLog s ln _).trans (memOp_logHeader _ ln)

theorem memOp_horizonIf (s : State) (p : Prop) [Decidable p] (ln cause : Nat) : MemOp s (if p then s.horizon ln cause else s) :=
  MemOp.ite (fun _ => memOp_horizon ..) fun _ => .refl s

theorem memOp_endReplay (s : State) (ln : Nat) : MemOp s (s.endReplay ln) :=
  (memOp_modLog s ln _).trans (memOp_logHeader _ ln)

theorem memOp_passRecords (s : State) (ln key n : Nat) : MemOp s (s.passRecords ln key n) := memOp_modLog ..

theorem memOp_putNote (s : State) (ln key v : Nat) : MemOp s (s.putNote ln key v) := memOp_modLog ..

theorem memOp_countLine (s : State) (line : Nat) : MemOp s (s.countLine line) := .of_mem_eq rfl rfl

theorem memOp_turnLine (s : State) (line c n : Nat) : MemOp s (s.turnLine line c n) := .of_mem_eq rfl rfl

theorem memOp_putForeign (s : State) (n0 n1 : Nat) : MemOp s (s.putForeign n0 n1) := by
  unfold State.putForeign
  dsimp only
  split
  · exact memOp_plainWrite ..
  · exact (memOp_plainWrite ..).trans (.of_mem_eq rfl rfl)

theorem from_replayForeign (ln key fuel : Nat) (s : State) : (s.replayForeign ln key fuel).From s := by
  induction fuel generalizing s with
  | zero => exact LogRes.from_done (.refl s)
  | succ fuel ih =>
    unfold State.replayForeign
    split
    · exact LogRes.from_done (.refl s)
    split
    · exact LogRes.from_done (.refl s)
    dsimp only
    split
    · split
      · exact (ih _).after ((memOp_passRecords ..).trans (memOp_turnLine ..))
      · exact LogRes.from_done (.refl s)
    split
    · split
      · exact LogRes.from_diverge ln
      · exact (ih _).after (((memOp_putForeign ..).trans (memOp_passRecords ..)).trans (memOp_countLine ..))
    · exact LogRes.from_done (.refl s)

theorem from_foreignNow (s : State) (ln key : Nat) : (s.foreignNow ln key).From s := by
  unfold State.foreignNow
  split
  · split
    · exact from_replayForeign ..
    · exact LogRes.from_done (.refl s)
  · exact LogRes.from_done (.refl s)

theorem from_append (s : State) (ln key w0 w1 : Nat) : (s.append ln key w0 w1).From s := by
  unfold State.append
  have hnow := from_foreignNow s ln key
  split
  next t ht =>
    refine LogRes.From.after ?_ (hnow.done t ht)
    split
    · exact LogRes.from_done (.refl t)
    dsimp only
    split
    · exact LogRes.from_done (.refl t)
    split
    · split
      · exact LogRes.from_done (memOp_passRecords ..)
      split
      · exact LogRes.from_diverge ln
      · exact LogRes.from_wait
    split
    · exact LogRes.from_full ln key _
    · exact LogRes.from_done ((memOp_plainWrite ..).trans (memOp_modLog ..))
  next => exact hnow

theorem from_orderLine (s : State) (ln : Nat) (ag : Option Agent) (pa : Nat) : (s.orderLine ln ag pa).From s := by
  unfold State.orderLine
  have hnow := from_foreignNow s ln (s.sliceOf pa)
  dsimp only
  split
  next t ht =>
    refine LogRes.From.after ?_ (hnow.done t ht)
    split
    · exact LogRes.from_wait
    split
    · exact LogRes.from_done (memOp_countLine ..)
    have hput : MemOp t (if optB (t.log ln) (·.replaying (s.sliceOf pa)) then t
        else t.putNote ln (s.sliceOf pa) (t.lineRun.get (pa / 128) 0)) :=
      MemOp.ite (fun _ => .refl t) fun _ => memOp_putNote ..
    refine LogRes.From.after ?_ hput
    generalize (if optB (t.log ln) (·.replaying (s.sliceOf pa)) then t
        else t.putNote ln (s.sliceOf pa) (t.lineRun.get (pa / 128) 0)) = u0
    split
    next u hu => exact (from_append ..).then hu (LogRes.from_done (memOp_turnLine ..))
    next => exact from_append ..
  next => exact hnow

theorem from_logWord (s : State) (src : Src) (attr : Attr) (wd v : Nat) (pres : Bool) : (s.logWord src attr wd v pres).From s := by
  unfold State.logWord
  dsimp only
  split
  · split
    · exact LogRes.from_done (.refl s)
    split
    · exact LogRes.from_done (memOp_horizon ..)
    split
    next t ht =>
      refine (from_orderLine ..).then ht ?_
      split
      next u hu => exact (from_append ..).then hu (from_append ..)
      next => exact from_append ..
    next => exact from_orderLine ..
  · refine LogRes.From.after ?_ (memOp_horizonIf s (decide (s.ownerLog (wd * 8) ≠ 0) && decide (s.ownerLog (wd * 8) ≠ src.lognum))
      (s.ownerLog (wd * 8)) 4)
    generalize (if (decide (s.ownerLog (wd * 8) ≠ 0) && decide (s.ownerLog (wd * 8) ≠ src.lognum)) = true then
        s.horizon (s.ownerLog (wd * 8)) 4 else s) = u0
    by_cases hlog : src.lognum = 0
    · rw [if_pos hlog]
      exact LogRes.from_done (.refl _)
    rw [if_neg hlog]
    split
    next t ht =>
      refine (from_orderLine ..).then ht ?_
      by_cases hattr : (!attr.log || !src.blockLog) = true
      · rw [if_pos hattr]
        exact LogRes.from_done (.refl t)
      · rw [if_neg hattr]
        exact (from_append ..).after (MemOp.ite (fun _ => .of_mem_eq rfl rfl) fun _ => .refl t)
    next => exact from_orderLine ..

theorem from_logWords (s : State) (src : Src) (attr : Attr) (pres : Bool) (pa : Nat) (bs : List Byte) (wds : List Nat) :
    (s.logWords src attr pres pa bs wds).From s := by
  induction wds generalizing s with
  | nil => exact LogRes.from_done (.refl s)
  | cons wd r ih =>
    unfold State.logWords
    dsimp only
    have hword := from_logWord s src attr wd (mergedWord s.mem wd pa bs)
      ((pres && ((src.joins || decide (pa ≤ 8 * wd)) && decide (8 * wd + 8 ≤ pa + bs.length))) || s.presence.contains wd)
    split
    next t ht => exact (ih t).after (hword.done t ht)
    next => exact hword.heldAt _

/-! ## Writes at home and in banks -/

theorem memOp_rdcStore (s : State) (d pa : Nat) (bs : List Byte) : MemOp s (s.rdcStore d pa bs) := by
  refine MemOp.foldl (fun s line => ?_) _ s
  split
  · exact .refl s
  · exact MemOp.modDie s d fun _ => rfl

theorem memOp_freeHeld (s : State) (src : Src) (pa n : Nat) : MemOp s (s.freeHeld src pa n) :=
  MemOp.ite (fun _ => .refl s) fun _ => .of_mem_eq rfl rfl

theorem from_homeWrite (s : State) (src : Src) (attr : Attr) (pres : Bool) (pa : Nat) (bs : List Byte) :
    (s.homeWrite src attr pres pa bs).From s := by
  unfold State.homeWrite
  split
  · exact LogRes.from_wait
  · refine LogRes.From.after ?_ (memOp_rekeyFor s attr.conf pa bs.length)
    dsimp only
    split
    next t ht =>
      refine (from_logWords ..).then ht (LogRes.from_done ?_)
      refine ((memOp_freeHeld t src pa bs.length).trans (memOp_storeBytes _ attr pa bs)).trans ?_
      exact MemOp.ite (fun _ => .refl _) fun _ => memOp_rdcStore ..
    next => exact from_logWords ..

theorem memOp_backHome (s : State) (cell tile : Nat) (l : BankLine) (pa : Nat) (attr : Attr) :
    MemOp s (s.backHome cell tile l pa attr) := by
  unfold State.backHome
  dsimp only
  refine MemOp.trans (memOp_horizonIf s (decide (s.ownerLog pa ≠ 0) && decide (s.ownerLog pa ≠ s.bankLog cell tile))
    (s.ownerLog pa) 4) ?_
  refine MemOp.trans (MemOp.foldl (fun s r => memOp_storeBytes s attr (pa + r.1) (l.bytes r)) l.runs _) ?_
  exact MemOp.ite (fun _ => memOp_markLine ..) fun _ => .refl _

theorem memOp_bankPod (s : State) (op cell tile pa : Nat) (parts : List (Nat × Nat × Nat)) (marked : Bool) :
    MemOp s (s.bankPod op cell tile pa parts marked) := by
  unfold State.bankPod
  dsimp only
  split
  · exact (memOp_setAccs s _ _).trans (memOp_horizon ..)
  · exact memOp_setAccs ..

theorem memOp_writeBack (s : State) (cell tile line : Nat) : MemOp s (s.writeBack cell tile line) := by
  unfold State.writeBack
  split
  · split
    · exact .refl s
    · dsimp only
      exact MemOp.trans (MemOp.ite (fun _ => memOp_backHome ..) fun _ => memOp_bankPod ..) (MemOp.modTile ..)
  · exact .refl s

theorem memOp_writeBackTile (s : State) (cell tile : Nat) : MemOp s (s.writeBackTile cell tile) :=
  MemOp.foldl (fun _ _ => memOp_writeBack ..) _ s

theorem memOp_bankAlloc (s : State) (cell tile line : Nat) : MemOp s (s.bankAlloc cell tile line) := by
  unfold State.bankAlloc
  dsimp only
  split
  · exact .refl s
  · refine MemOp.trans ?_ (MemOp.modTile ..)
    split
    · split
      · exact (memOp_writeBack ..).trans (MemOp.modTile ..)
      · exact .refl s
    · exact .refl s

theorem from_bankOrder (s : State) (src : Src) (pa : Nat) : (s.bankOrder src pa).From s := by
  unfold State.bankOrder
  split
  · exact from_orderLine ..
  · exact LogRes.from_done (.refl s)

theorem memOp_bankPut (s : State) (cell tile line off : Nat) (bs : List Byte) (dirty : Bool) :
    MemOp s (s.bankPut cell tile line off bs dirty) := MemOp.modTile ..

theorem from_bankWrite (s : State) (src : Src) (attr : Attr) (cell tile line off : Nat) (bs : List Byte) :
    (s.bankWrite src attr cell tile line off bs).From s := by
  unfold State.bankWrite
  refine LogRes.From.after ?_ (memOp_bankAlloc s cell tile line)
  generalize s.bankAlloc cell tile line = u
  dsimp only
  split
  · exact LogRes.from_done (memOp_bankPut ..)
  next pa _ _ =>
  generalize (if paPkg pa = u.pkgNum then u.ownerLog pa else 0) = own
  refine LogRes.from_ite (fun _ => LogRes.from_ite (fun _ => ?_) fun _ => ?_) fun _ => ?_
  · exact LogRes.from_done ((memOp_bankPut ..).trans (memOp_bankPod ..))
  · split
    next t ht => exact (from_homeWrite ..).then ht (LogRes.from_done (memOp_bankPut ..))
    next => exact from_homeWrite ..
  · refine LogRes.From.after ?_ (memOp_horizonIf u (!src.foreign && decide (own ≠ 0) && decide (own ≠ src.lognum)) own 4)
    generalize (if (!src.foreign && decide (own ≠ 0) && decide (own ≠ src.lognum)) = true then u.horizon own 4 else u) = v
    split
    next t ht => exact (from_bankOrder ..).then ht (LogRes.from_done (memOp_bankPut ..))
    next => exact from_bankOrder ..

/-! ## Traces -/

theorem memOp_traceBytes (k : Nat) (r : Region) (bs : List Byte) (s : State) (va : Nat) {t : State}
    (h : s.traceBytes k r va bs = some t) : MemOp s t := by
  induction bs generalizing s va with
  | nil => cases h; exact .refl _
  | cons b rest ih =>
    unfold State.traceBytes at h
    split at h
    · split at h
      · obtain ⟨p, -, rfl⟩ := Option.map_eq_some_iff.mp h
        exact memOp_openUnits ..
      · refine MemOp.trans ?_ (ih _ _ h)
        split
        · split
          next u hu => exact (from_bankWrite ..).done u hu
          next => exact .refl _
        · exact (memOp_storeBytes ..).trans (memOp_rdcStore ..)
    · cases h

theorem memOp_traceFault (s : State) (k : Nat) : MemOp s (s.traceFault k) := MemOp.modRegion s k fun _ => rfl

theorem memOp_tracePut (s : State) (k : Nat) (bs : List Byte) : MemOp s (s.tracePut k bs) := by
  unfold State.tracePut
  split
  · exact .refl s
  next r _ =>
    split
    next t ht => exact (memOp_traceBytes k r bs s _ ht).trans (MemOp.modRegion t k fun _ => rfl)
    next => exact memOp_traceFault s k

theorem memOp_traceWrap (s : State) (k : Nat) : MemOp s (s.traceWrap k) := by
  refine MemOp.modRegion s k fun r => ?_
  dsimp only
  split
  · rfl
  · split <;> rfl

theorem memOp_traceSync (s : State) (k : Nat) : MemOp s (s.traceSync k) := by
  unfold State.traceSync
  split
  · split
    · exact (memOp_tracePut ..).trans (MemOp.modRegion _ k fun _ => rfl)
    · exact .refl s
  · exact .refl s

theorem memOp_traceRec (s : State) (k head : Nat) (body : List Byte) : MemOp s (s.traceRec k head body) := by
  have hstart := (memOp_traceWrap s k).trans (memOp_traceSync _ k)
  unfold State.traceRec
  dsimp only
  split
  · exact hstart
  split
  · exact hstart
  next r _ _ =>
    have hroom := MemOp.ite (fun _ => hstart) fun (_ : ¬ (BitVec.ofNat 8 head ::
        varint (((s.traceWrap k).traceSync k).cycle - r.trace.lastCyc) ++ body).length ≤ 4096 - r.trace.wptr % 4096) =>
      ((hstart.trans (memOp_tracePut _ k (List.replicate (4096 - r.trace.wptr % 4096) 0))).trans (memOp_traceWrap _ k)).trans
        (memOp_traceSync _ k)
    split
    · exact hroom
    split
    · exact hroom
    · exact (hroom.trans (memOp_tracePut _ k _)).trans (MemOp.modRegion _ k fun _ => rfl)

theorem memOp_traceEvent (s : State) (k ev arg : Nat) : MemOp s (s.traceEvent k ev arg) := by
  unfold State.traceEvent
  split
  · split
    · exact memOp_traceRec ..
    · exact .refl s
  · exact .refl s

theorem memOp_traceNode (s : State) (a : Agent) (slot : Nat) : MemOp s (s.traceNode a slot) := by
  unfold State.traceNode
  dsimp only
  split
  · exact .refl s
  split
  · exact .refl s
  split
  · exact .refl s
  · exact (memOp_traceRec ..).trans (MemOp.modRegion _ _ fun _ => rfl)

end Sys2Proof.Machine

/-! # Proofs: taking a fault and returning from it -/

namespace Sys2Proof.Machine

/-! ## What operations on memory keep, part by part -/

theorem foldl_view {α β : Type} (v : State → β) {g : State → α → State} (h : ∀ s x, v (g s x) = v s) (l : List α) (s : State) :
    v (l.foldl g s) = v s := by
  induction l generalizing s with
  | nil => rfl
  | cons x r ih => exact (ih _).trans (h s x)

section
variable {s t : State} (h : MemOp s t)
include h

theorem MemOp.untiled (k : Nat) : (t.cell k).untiled = (s.cell k).untiled := congrFun (congrArg Quiet.cell h.quiet) k

theorem MemOp.cycle : t.cycle = s.cycle := congrArg (fun q => q.rest.cycle) h.quiet
theorem MemOp.helms : t.helms = s.helms := congrArg (fun q => q.rest.helms) h.quiet
theorem MemOp.readyBits : t.readyBits = s.readyBits := congrArg (fun q => q.rest.readyBits) h.quiet

theorem MemOp.helm (n : Nat) : t.helm n = s.helm n := by simp only [State.helm, h.helms]

theorem MemOp.task (a : Agent) : t.task a = s.task a := by
  cases a with
  | task d p k =>
    have hk := congrArg (fun c : Cell => c.task k) (h.untiled (cellKey d p))
    exact hk
  | helm n => exact congrArg Helm.task (h.helm n)

theorem MemOp.win (a : Agent) : t.win a = s.win a := congrArg TaskCtx.win (h.task a)

/-- A region stays, with another trace at most. -/
theorem MemOp.region {k : Nat} {r : Region} (hr : s.regions.find k = some r) :
    ∃ r', t.regions.find k = some r' ∧ r'.untraced = r.untraced := by
  have hq : (t.regions.find k).map Region.untraced = (s.regions.find k).map Region.untraced :=
    congrFun (congrArg Quiet.region h.quiet) k
  rw [hr, Option.map_some] at hq
  exact Option.map_eq_some_iff.mp hq

end

/-! ## Mailboxes -/

/-- What a region's mailbox holds, and the region's state. -/
structure Mailbox where
  mail : Option FaultRec
  mailAt : Nat
  latched : List FaultRec
  st : RegSt

/-- A region's mailbox. -/
def Region.mailbox (r : Region) : Mailbox := ⟨r.mail, r.mailAt, r.latched, r.st⟩

/-- The mailboxes of a state. -/
def State.mailboxes (s : State) (k : Nat) : Option Mailbox := (s.regions.find k).map Region.mailbox

theorem mailboxes_modRegion {f : Region → Region} (s : State) (k : Nat) (h : ∀ r, (f r).mailbox = r.mailbox) :
    (s.modRegion k f).mailboxes = s.mailboxes := by
  funext j
  simp only [State.mailboxes, region_modRegion]
  split
  · next hk => subst hk; cases s.regions.find k <;> simp [h]
  · rfl

theorem MemOp.mailboxes {s t : State} (h : MemOp s t) : t.mailboxes = s.mailboxes := by
  have hview : ∀ u : State, u.mailboxes = fun k => (u.quiet.region k).map Region.mailbox := fun u => by
    funext k
    simp only [State.mailboxes, State.quiet, Option.map_map]
    rfl
  rw [hview, hview, h.quiet]

/-- The mailbox that serves a region depends only on which regions there are. -/
theorem mailKey_congr {s t : State} (h : t.mailboxes = s.mailboxes) (k : Nat) : t.mailKey k = s.mailKey k := by
  have hsome : (t.regions.find (k - 2 ^ 23)).isSome = (s.regions.find (k - 2 ^ 23)).isSome := by
    simpa only [State.mailboxes, Option.isSome_map] using congrArg Option.isSome (congrFun h (k - 2 ^ 23))
  simp only [State.mailKey, hsome]

/-- A region with a given mailbox. -/
theorem mailbox_of_find {s t : State} (h : t.mailboxes = s.mailboxes) {k : Nat} {r : Region} (hr : s.regions.find k = some r) :
    ∃ r', t.regions.find k = some r' ∧ r'.mailbox = r.mailbox := by
  have hk := congrFun h k
  simp only [State.mailboxes, hr, Option.map_some] at hk
  exact Option.map_eq_some_iff.mp hk

/-- A record reaches an empty mailbox (R388). -/
theorem report_empty {s : State} {k : Nat} {r : Region} (f : FaultRec) (quiet : Bool) (hr : s.regions.find (s.mailKey k) = some r)
    (hmail : r.mail = none) :
    ∃ r', (s.report k f quiet).regions.find (s.mailKey k) = some r' ∧ r'.mail = some f ∧ r'.notifyWait = !quiet ∧ r'.st = r.st := by
  have hop := memOp_logPointers s (s.logOf k)
  obtain ⟨u, hu, hbox⟩ := mailbox_of_find hop.mailboxes hr
  have hu_mail : u.mail = none := (congrArg Mailbox.mail hbox).trans hmail
  have hu_st : u.st = r.st := congrArg Mailbox.st hbox
  simp only [State.report, mailKey_congr hop.mailboxes, region_modRegion, if_true, hu, Option.map_some, hu_mail]
  exact ⟨_, rfl, rfl, rfl, hu_st⟩

/-- A record behind one of an earlier cycle is latched (R388). -/
theorem report_latched {s : State} {k : Nat} {r : Region} {g : FaultRec} (f : FaultRec) (quiet : Bool)
    (hr : s.regions.find (s.mailKey k) = some r) (hmail : r.mail = some g) (hat : r.mailAt ≠ s.cycle) :
    ∃ r', (s.report k f quiet).regions.find (s.mailKey k) = some r' ∧ r'.mail = some g ∧ r'.latched = r.latched ++ [f] := by
  have hop := memOp_logPointers s (s.logOf k)
  obtain ⟨u, hu, hbox⟩ := mailbox_of_find hop.mailboxes hr
  have hu_mail : u.mail = some g := (congrArg Mailbox.mail hbox).trans hmail
  have hu_at : u.mailAt ≠ (s.logPointers (s.logOf k)).cycle := by
    rw [hop.cycle, show u.mailAt = r.mailAt from congrArg Mailbox.mailAt hbox]
    exact hat
  have hu_latched : u.latched = r.latched := congrArg Mailbox.latched hbox
  refine ⟨{ u with latched := u.latched ++ [f] }, ?_, hu_mail, by simp only [hu_latched]⟩
  simp only [State.report, mailKey_congr hop.mailboxes, region_modRegion, if_true, hu, Option.map_some, hu_mail,
    decide_eq_false hu_at, Bool.false_and, Bool.false_eq_true, if_false]

theorem task_report (s : State) (k : Nat) (f : FaultRec) (quiet : Bool) (a : Agent) : (s.report k f quiet).task a = s.task a := by
  simp only [State.report, task_modRegion]
  exact (memOp_logPointers s _).task a

/-! ## Claims let go -/

theorem memOp_modAcc (s : State) (id : Nat) (f : Access → Access) : MemOp s (s.modAcc id f) := .of_mem_eq rfl rfl

theorem memOp_letClaims (s : State) (p : Access → Bool) : MemOp s (s.letClaims p) := by
  refine MemOp.foldl (fun s x => ?_) _ s
  split
  · exact .refl s
  · exact ((memOp_modAcc ..).trans (memOp_openUnits ..)).trans (memOp_openUnits ..)

/-- Letting claims go keeps every task, and every mailbox. -/
theorem releaseClaims_keeps (s : State) (a : Agent) (seq : Nat) :
    (∀ b, (s.releaseClaims a seq).task b = s.task b) ∧ (s.releaseClaims a seq).mailboxes = s.mailboxes ∧
    (s.releaseClaims a seq).cycle = s.cycle :=
  have h := memOp_letClaims s fun x => x.agent == a && x.seq == seq
  ⟨h.task, h.mailboxes, h.cycle⟩

/-! ## Taking a fault -/

/-- The task context of a block that has faulted (R161). -/
def TaskCtx.faulted (t : TaskCtx) (f : FaultRec) : TaskCtx := { t with st := .halted, succ := none, fault := some f }

/-- An agent's block stops at a fault: its reads and messages are withdrawn, its claims let go (R161, R309). -/
def State.stopBlock (s : State) (a : Agent) (f : FaultRec) (seq : Nat) : State :=
  let s := s.modTask a fun t => t.faulted f
  ({ s with accs := s.accs.filter fun x => !withdrawn a seq x
            kills := s.kills.filter fun m => !(m.agent == a && m.seq == seq) } : State).releaseClaims a seq

theorem stopBlock_keeps (s : State) (a : Agent) (f : FaultRec) (seq : Nat) :
    (s.stopBlock a f seq).task a = (s.task a).faulted f ∧ (s.stopBlock a f seq).mailboxes = s.mailboxes ∧
      (s.stopBlock a f seq).cycle = s.cycle := by
  obtain ⟨htask, hbox, hcyc⟩ := releaseClaims_keeps { s.modTask a fun t => t.faulted f with
    accs := (s.modTask a fun t => t.faulted f).accs.filter fun x => !withdrawn a seq x
    kills := (s.modTask a fun t => t.faulted f).kills.filter fun m => !(m.agent == a && m.seq == seq) } a seq
  refine ⟨(htask a).trans ?_, hbox.trans ?_, hcyc.trans ?_⟩
  · have hsame := task_modTask_same s a fun t => t.faulted f
    cases a <;> exact hsame
  all_goals cases a <;> rfl

/-- A task's fault, after its block has stopped: the matrix unit, its colours and its requests for one are let go, and the record is
reported. -/
theorem takeFault_task_eq (s : State) (d p k : Nat) (f : FaultRec) : ∃ (cols : List Nat) (seq : Nat),
    s.takeFault (.task d p k) f =
      ((cols.foldl (fun t c => t.freeColour (s.regionOf (.task d p k)) c)
        ((s.stopBlock (.task d p k) f seq).modCell (cellKey d p) fun c => { c with mat := c.mat.abandon k seq })).modRegion
          (s.regionOf (.task d p k)) fun r => { r with spawnQ := r.spawnQ.filter fun e => e.1 != .task d p k }).report
        (s.regionOf (.task d p k)) f false :=
  ⟨_, _, rfl⟩

/-- A task's fault is reported from a state in which the task has stopped and mailboxes are as before. -/
theorem takeFault_task (s : State) (d p k : Nat) (f : FaultRec) :
    ∃ u : State, s.takeFault (.task d p k) f = u.report (s.regionOf (.task d p k)) f false ∧
      u.task (.task d p k) = (s.task (.task d p k)).faulted f ∧ u.mailboxes = s.mailboxes ∧ u.cycle = s.cycle := by
  let key := s.regionOf (.task d p k)
  obtain ⟨cols, seq, heq⟩ := takeFault_task_eq s d p k f
  obtain ⟨htask, hbox, hcyc⟩ := stopBlock_keeps s (.task d p k) f seq
  let v := (s.stopBlock (.task d p k) f seq).modCell (cellKey d p) fun c => { c with mat := c.mat.abandon k seq }
  have hfree : ∀ (u : State) (c : Nat), (u.freeColour key c).task (.task d p k) = u.task (.task d p k) ∧
      (u.freeColour key c).mailboxes = u.mailboxes ∧ (u.freeColour key c).cycle = u.cycle := fun u c =>
    ⟨task_modRegion .., mailboxes_modRegion _ _ fun _ => rfl, modRegion_cycle ..⟩
  refine ⟨(cols.foldl (fun s c => s.freeColour key c) v).modRegion key fun r =>
    { r with spawnQ := r.spawnQ.filter fun e => e.1 != .task d p k }, heq, ?_, ?_, ?_⟩
  · rw [task_modRegion, foldl_view (fun u => u.task (.task d p k)) (fun u c => (hfree u c).1), ← htask]
    exact task_modCell_of _ _ rfl _
  · refine (mailboxes_modRegion _ _ ?_).trans ?_
    · exact fun _ => rfl
    rw [foldl_view State.mailboxes (fun u c => (hfree u c).2.1), ← hbox]
    rfl
  · rw [modRegion_cycle, foldl_view State.cycle (fun u c => (hfree u c).2.2), ← hcyc]
    rfl

/-- A faulting helm core stops, and its ready bit clears (R177). -/
theorem takeFault_helm (s : State) (n : Nat) (f : FaultRec) :
    (s.takeFault (.helm n) f).task (.helm n) = (s.task (.helm n)).faulted f ∧ ((s.takeFault (.helm n) f).helm n).ready = false ∧
      2277 + n ∉ (s.takeFault (.helm n) f).readyBits := by
  let u := (s.stopBlock (.helm n) f (((s.win (.helm n)).map (·.seq)).getD 0)).modHelm n fun h => { h with ready := false }
  have heq : s.takeFault (.helm n) f = { u with readyBits := setDel u.readyBits (2277 + n) } := rfl
  rw [heq]
  refine ⟨?_, ?_, by simp [setDel]⟩
  · change u.task (.helm n) = _
    exact (task_modHelm_of _ n rfl (.helm n)).trans (stopBlock_keeps ..).1
  · change (u.helm n).ready = false
    exact congrArg Helm.ready (helm_modHelm_same ..)

/-- The task of an agent that takes a fault stops with its record. -/
theorem task_takeFault (s : State) (a : Agent) (f : FaultRec) : (s.takeFault a f).task a = (s.task a).faulted f := by
  cases a with
  | helm n => exact (takeFault_helm s n f).1
  | task d p k =>
    obtain ⟨u, hu, htask, -⟩ := takeFault_task s d p k f
    rw [hu, task_report, htask]

/-- Settles O57: a fault reaches the mailbox, and the trace of the event touches nothing else. -/
theorem faultTaken : Obligations.FaultTaken := by
  intro s a slot c d addr t rec0
  refine ⟨⟨rfl, rfl, rfl, rfl, rfl⟩, fun hst hp => ?_, fun hst => ?_⟩
  · have hno : ((s.task a).st == .active || s.paused a) = false := by simp [hst, hp]
    simp only [t, State.blockFault, hno, Bool.false_eq_true, if_false]
  have ht : t = (s.takeFault a rec0).traceEvent (s.regionOf a) 2 c := by
    simp only [t, State.blockFault, hst, beq_self_eq_true, Bool.true_or, if_true, rec0]
  have hop : MemOp (s.takeFault a rec0) t := ht ▸ memOp_traceEvent ..
  have htask : t.task a = (s.task a).faulted rec0 := (hop.task a).trans (task_takeFault s a rec0)
  refine ⟨by rw [htask]; rfl, by rw [htask]; rfl, by rw [htask]; rfl, by rw [htask]; rfl, by rw [htask]; rfl, by rw [htask]; rfl,
    by rw [State.win, htask]; rfl, fun n ha => ?_, fun e p k r ha hr hmail => ?_, fun e p k r g ha hr hmail hat => ?_⟩
  · subst ha
    obtain ⟨-, hready, hbit⟩ := takeFault_helm s n rec0
    exact ⟨by rw [hop.helm, hready], by rw [hop.readyBits]; exact hbit⟩
  all_goals
    subst ha
    obtain ⟨u, hu, -, hbox, hcyc⟩ := takeFault_task s e p k rec0
    obtain ⟨ru, hru, hrubox⟩ := mailbox_of_find hbox hr
    rw [← mailKey_congr hbox] at hru
  · obtain ⟨rv, hrv, hvmail, hvwait, hvst⟩ := report_empty rec0 false hru ((congrArg Mailbox.mail hrubox).trans hmail)
    rw [← hu] at hrv
    obtain ⟨rt, hrt, htrace⟩ := hop.region hrv
    rw [mailKey_congr hbox] at hrt
    exact ⟨rt, hrt, (congrArg Region.mail htrace).trans hvmail, (congrArg Region.notifyWait htrace).trans hvwait,
      (congrArg Region.st htrace).trans (hvst.trans (congrArg Mailbox.st hrubox))⟩
  · obtain ⟨rv, hrv, hvmail, hvlatched⟩ := report_latched rec0 false hru ((congrArg Mailbox.mail hrubox).trans hmail)
      (by rw [hcyc, show ru.mailAt = r.mailAt from congrArg Mailbox.mailAt hrubox]; exact hat)
    rw [← hu] at hrv
    obtain ⟨rt, hrt, htrace⟩ := hop.region hrv
    rw [mailKey_congr hbox] at hrt
    exact ⟨rt, hrt, (congrArg Region.mail htrace).trans hvmail, (congrArg Region.latched htrace).trans
      (hvlatched.trans (by rw [show ru.latched = r.latched from congrArg Mailbox.latched hrubox]))⟩

/-! ## The return from a fault -/

theorem memOp_askFills (s : State) (d : Nat) : MemOp s (s.askFills d) := by
  refine .of_mem_eq ?_ rfl
  have hcell : ∀ k, ((s.askFills d).cell k).untiled = (s.cell k).untiled := fun k => by
    let ask (e : Nat × Cell) : Cell := if e.1 / 256 = d then
      { e.2 with tiles := e.2.tiles.map fun e => (e.1, { e.2 with lines := e.2.lines.map fun e => (e.1, { e.2 with bad := none }) }) } else e.2
    have hcells : (s.askFills d).cells = s.cells.map fun e => (e.1, ask e) := by
      simp only [State.askFills, ask]
      refine List.map_congr_left fun e _ => ?_
      split <;> rfl
    rw [State.cell, State.cell, hcells, Table.get, Table.get, find_map_entries]
    cases s.cells.find k with
    | none => rfl
    | some c =>
      simp only [Option.map_some, Option.getD_some, ask]
      split <;> rfl
  simp only [State.quiet, hcell]
  rfl

theorem retryFault_regions (s : State) (f : FaultRec) : (s.retryFault f).regions = s.regions := by
  unfold State.retryFault
  dsimp only
  repeat' split
  all_goals rfl

/-- The state in which a region's fault is tried again: its mailbox is clear (R396). -/
def State.cleared (s : State) (k : Nat) : State :=
  (s.modRegion k fun r => { r with mail := none, mailRst := false, latched := [], moved := s.cycle, notifyWait := false }).askFills (keyDie k)

theorem resumeRegion_eq {s : State} {k : Nat} {r : Region} {f : FaultRec} (hr : s.regions.find k = some r) (hmail : r.mail = some f)
    (hlatched : r.latched = []) : s.resumeRegion k = (s.cleared k).retryFault f := by
  simp only [State.resumeRegion, hr, hmail, hlatched, List.append_nil, List.foldl_cons, List.foldl_nil, State.cleared]

theorem task_cleared (s : State) (k : Nat) (a : Agent) : (s.cleared k).task a = s.task a := by
  rw [State.cleared, (memOp_askFills ..).task, task_modRegion]

/-- The task that a fault's record names. -/
def FaultRec.agent (f : FaultRec) : Agent := .task f.die f.pcell f.task

theorem retryFault_block {s : State} {f : FaultRec} {w : Win} (hs : f.strm = false) (hlo : 1 ≤ f.fclass) (hhi : f.fclass ≤ 9)
    (hw : s.win f.agent = some w) :
    s.retryFault f = s.modTask f.agent fun t => { t with st := .active, fault := none, win := some (s.restartWin f.agent w) } := by
  have hclass : f.fclass ≠ fcTrap ∧ f.fclass ≠ fcBrk ∧ f.fclass ≠ fcWatch ∧ f.fclass ≠ fcLogFull ∧ f.fclass ≠ fcStalled ∧
      f.fclass ≠ fcFetch ∧ f.fclass ≠ fcLinkDown := by
    simp only [fcTrap, fcBrk, fcWatch, fcLogFull, fcStalled, fcFetch, fcLinkDown]; omega
  obtain ⟨h1, h2, h3, h4, h5, h6, h7⟩ := hclass
  have hw' : s.win (.task f.die f.pcell f.task) = some w := hw
  simp [State.retryFault, hs, h1, h2, h3, h4, h5, h6, h7, hw', FaultRec.agent]

theorem retryFault_trap {s : State} {f : FaultRec} {b : Nat} (hs : f.strm = false) (hc : f.fclass = fcTrap) (hd : f.detail < 256)
    (hafter : (s.task f.agent).after = some b) :
    s.retryFault f = (s.modTask f.agent fun t => { t with fault := none }).startBlock f.agent b := by
  have hafter' : (s.task (.task f.die f.pcell f.task)).after = some b := hafter
  simp [State.retryFault, hs, hc, hd, hafter', FaultRec.agent]

theorem retryFault_brk {s : State} {f : FaultRec} (hs : f.strm = false) (hc : f.fclass = fcBrk) :
    s.retryFault f = s.modTask f.agent fun t =>
      { t with st := .active, fault := none, win := t.win.map fun w => { w with stopped := false } } := by
  simp [State.retryFault, hs, hc, FaultRec.agent, fcTrap, fcBrk]

/-- A block that starts is its task's firing block, with the next number of its cell (R157). -/
theorem task_startBlock (s : State) (d p k b : Nat) : ∃ w, w.baddr = b ∧
    (s.startBlock (.task d p k) b).task (.task d p k) =
      { s.task (.task d p k) with st := .active, win := some w, succ := none, after := none } := by
  let u := s.modCell (cellKey d p) fun c => { c with seq := (s.cell (cellKey d p)).seq + 1 }
  refine ⟨u.openWin (.task d p k) b ((s.cell (cellKey d p)).seq + 1), rfl, ?_⟩
  change (u.modTask (.task d p k) _).task (.task d p k) = _
  rw [task_modTask_same, task_modCell_of s _ rfl]

/-- Settles O58: RESUME clears the mailbox and retries the one fault that stood in it, each kind as `retryFault` says. -/
theorem resumeReturns : Obligations.ResumeReturns := by
  intro s k r f hr hmail hlatched t a
  have ht : t = (s.cleared k).retryFault f := resumeRegion_eq hr hmail hlatched
  have htask : (s.cleared k).task f.agent = s.task a := task_cleared s k a
  have hwin : (s.cleared k).win f.agent = s.win a := congrArg TaskCtx.win htask
  refine ⟨?region, fun w hs hlo hhi hw => ?block, fun b hs hc hd hafter => ?trap, fun hs hc => ?brk⟩
  case region =>
    refine ⟨{ r with mail := none, mailRst := false, latched := [], moved := s.cycle, notifyWait := false }, ?_, rfl, rfl, rfl, rfl⟩
    rw [ht, retryFault_regions]
    change (State.modRegion s k _).regions.find k = _
    rw [region_modRegion, if_pos rfl, hr, Option.map_some]
  case block =>
    have hone : (t.task a) = { s.task a with st := .active, fault := none, win := some ((s.cleared k).restartWin f.agent w) } := by
      rw [ht, retryFault_block hs hlo hhi (hwin.trans hw)]
      exact (task_modTask_same ..).trans (by rw [htask])
    exact ⟨by rw [hone], by rw [hone], by rw [hone], (s.cleared k).restartWin f.agent w, by rw [State.win, hone], rfl, rfl, rfl, rfl, rfl, rfl⟩
  case trap =>
    have hstart := retryFault_trap hs hc hd ((congrArg TaskCtx.after htask).trans hafter)
    obtain ⟨w, hb, hone⟩ := task_startBlock ((s.cleared k).modTask f.agent fun t => { t with fault := none }) f.die f.pcell f.task b
    have hone : t.task a = { (s.cleared k).modTask f.agent (fun t => { t with fault := none }) |>.task f.agent with
        st := .active, win := some w, succ := none, after := none } := by rw [ht, hstart]; exact hone
    rw [task_modTask_same] at hone
    exact ⟨by rw [hone], by rw [hone], w, by rw [State.win, hone], hb⟩
  case brk =>
    have hone : t.task a = { s.task a with st := .active, fault := none, win := (s.task a).win.map fun w => { w with stopped := false } } := by
      rw [ht, retryFault_brk hs hc]
      exact (task_modTask_same ..).trans (by rw [htask])
    refine ⟨by rw [hone], by rw [hone], fun w hw => ⟨{ w with stopped := false }, ?_, rfl, rfl, rfl⟩⟩
    have hw' : (s.task a).win = some w := hw
    rw [State.win, hone, hw', Option.map_some]

end Sys2Proof.Machine

/-! # Proofs: what a firing leaves alone; control, shape records, colours, and what acts at commit -/

namespace Sys2Proof.Machine

/-! ## What counting a firing leaves alone

`State.calm` is what stays of a state when an instruction fires: everything but memory's own parts, the firing blocks, and the marks of
movement of cells and regions. -/

/-- A region without its trace, its charge and its marks of movement. -/
def Region.still (r : Region) : Region :=
  { r with trace := (Region.fresh 0).trace, energy := 0, windowE := 0, moved := 0, everFired := false, fillCells := [], fillDone := none }

/-- A cell without its tiles, its contexts and its mark of movement. -/
def Cell.still (c : Cell) : Cell := { c with tiles := [], tasks := [], cctxs := [], lastBusy := 0 }

/-- A configuration context without its mark of movement. -/
def CfgCtx.still (x : CfgCtx) : CfgCtx := { x with firedOnce := false }

/-- The parts of a state that counting a firing does not change. -/
structure Calm where
  rest : State
  cell : Nat → Cell
  ctx : Nat → Nat → TaskCtx
  cctx : Nat → Nat → CfgCtx
  die : Nat → Die
  region : Nat → Option Region
  helm : Nat → Helm

/-- A task context without its firing block. -/
def TaskCtx.windowless (t : TaskCtx) : TaskCtx := { t with win := none }

/-- A helm core without its firing block. -/
def Helm.windowless (h : Helm) : Helm := { h with task := h.task.windowless }

/-- Those parts, of what operations on memory leave alone. -/
def Quiet.calm (q : Quiet) : Calm where
  rest := { q.rest with helms := [] }
  cell k := (q.cell k).still
  ctx k n := ((q.cell k).task n).windowless
  cctx k n := ((q.cell k).cctx n).still
  die := q.die
  region k := (q.region k).map Region.still
  helm n := (q.rest.helm n).windowless

/-- Those parts of a state. -/
def State.calm (s : State) : Calm := s.quiet.calm

theorem MemOp.calm {s t : State} (h : MemOp s t) : t.calm = s.calm := congrArg Quiet.calm h.quiet

theorem calm_eq_of {s t : State} (hrest : t.calm.rest = s.calm.rest) (hcell : t.calm.cell = s.calm.cell) (hctx : t.calm.ctx = s.calm.ctx)
    (hcctx : t.calm.cctx = s.calm.cctx) (hdie : t.calm.die = s.calm.die) (hregion : t.calm.region = s.calm.region)
    (hhelm : t.calm.helm = s.calm.helm) : t.calm = s.calm := by
  cases ht : t.calm; cases hs : s.calm
  simp_all

/-- A change of a cell's firing blocks, or of its marks of movement. -/
theorem calm_modCell {f : Cell → Cell} (s : State) (k : Nat)
    (hcell : ∀ c, (f c).still = c.still) (htask : ∀ c n, ((f c).task n).windowless = (c.task n).windowless)
    (hcctx : ∀ c n, ((f c).cctx n).still = (c.cctx n).still) : (s.modCell k f).calm = s.calm := by
  have hat : ∀ j, ((s.modCell k f).cell j).still = (s.cell j).still ∧
      (∀ n, (((s.modCell k f).cell j).task n).windowless = ((s.cell j).task n).windowless) ∧
      ∀ n, (((s.modCell k f).cell j).cctx n).still = ((s.cell j).cctx n).still := fun j => by
    rw [cell_modCell]
    split
    · next hk => subst hk; exact ⟨hcell _, htask _, hcctx _⟩
    · exact ⟨rfl, fun _ => rfl, fun _ => rfl⟩
  refine calm_eq_of rfl ?_ ?_ ?_ rfl rfl rfl
  · funext j; exact (hat j).1
  · funext j n; exact (hat j).2.1 n
  · funext j n; exact (hat j).2.2 n

theorem calm_modRegion {f : Region → Region} (s : State) (k : Nat) (h : ∀ r, (f r).still = r.still) :
    (s.modRegion k f).calm = s.calm := by
  have hregion : ∀ u : State, u.calm.region = fun j => (u.regions.find j).map Region.still := fun u => by
    funext j
    simp only [State.calm, Quiet.calm, State.quiet, Option.map_map]
    rfl
  refine calm_eq_of ?_ ?_ ?_ ?_ ?_ ?region ?_
  case region =>
    simp only [hregion, region_modRegion]
    funext j
    split
    · next hk => subst hk; cases s.regions.find k <;> simp [h]
    · rfl
  all_goals
    unfold State.modRegion
    split <;> rfl

theorem calm_modWin (s : State) (a : Agent) (f : Win → Win) : (s.modWin a f).calm = s.calm := by
  cases a with
  | task d p t =>
    refine calm_modCell s _ (fun _ => rfl) (fun c n => ?_) fun _ _ => rfl
    simp only [Cell.task, get_put]
    split
    · next hn => subst hn; rfl
    · rfl
  | helm n =>
    have hat : ∀ j, ((s.modWin (.helm n) f).helm j).windowless = (s.helm j).windowless := fun j => by
      rw [State.modWin, State.modTask, helm_modHelm]
      split
      · next hn => subst hn; rfl
      · rfl
    exact calm_eq_of rfl rfl rfl rfl rfl rfl (funext hat)

theorem calm_setSlot (s : State) (a : Agent) (i : Nat) (g : Slot → Slot) : (s.setSlot a i g).calm = s.calm := calm_modWin ..

/-- Counting a firing leaves alone what `calm` names. -/
theorem calm_countFiring (s : State) (a : Agent) (i : Nat) (st : SlotSt) : (s.countFiring a i st).calm = s.calm := by
  have htrace := (memOp_traceNode s a i).calm
  cases a with
  | helm n => exact (calm_modWin ..).trans ((calm_setSlot ..).trans htrace)
  | task d p t =>
    refine (calm_modCell _ _ ?_ ?_ ?_).trans ((calm_modRegion _ _ ?_).trans ((calm_modRegion _ _ ?_).trans
      ((calm_modWin ..).trans ((calm_setSlot ..).trans htrace))))
    · exact fun _ => rfl
    · exact fun _ _ => rfl
    · intro c n
      simp only [Cell.modCctx, Cell.cctx, get_put]
      split
      · next hn => subst hn; rfl
      · rfl
    · exact fun _ => rfl
    · exact fun _ => rfl

theorem calm_fired (s : State) : s.fired.calm = s.calm := calm_countFiring ..

/-! ## What such a change keeps, part by part -/

section
variable {s t : State} (h : t.calm = s.calm)
include h

theorem cell_of_calm (k : Nat) : (t.cell k).still = (s.cell k).still := congrFun (congrArg Calm.cell h) k

theorem ctx_of_calm (k n : Nat) : ((t.cell k).task n).windowless = ((s.cell k).task n).windowless :=
  congrFun (congrFun (congrArg Calm.ctx h) k) n

theorem cctx_of_calm (k n : Nat) : ((t.cell k).cctx n).still = ((s.cell k).cctx n).still :=
  congrFun (congrFun (congrArg Calm.cctx h) k) n

theorem helm_of_calm (n : Nat) : (t.helm n).windowless = (s.helm n).windowless := congrFun (congrArg Calm.helm h) n

theorem task_of_calm (a : Agent) : (t.task a).windowless = (s.task a).windowless := by
  cases a with
  | task d p k => exact ctx_of_calm h ..
  | helm n => exact congrArg Helm.task (helm_of_calm h n)

theorem cycle_of_calm : t.cycle = s.cycle := congrArg (fun c : Calm => c.rest.cycle) h

theorem cfgOf_of_calm (a : Agent) : (t.cfgOf a).still = (s.cfgOf a).still := by
  cases a with
  | helm n => rfl
  | task d p k =>
    have hctx : ((t.cell (cellKey d p)).task k).cctx = ((s.cell (cellKey d p)).task k).cctx :=
      (congrArg TaskCtx.cctx (ctx_of_calm h (cellKey d p) k) :)
    simp only [State.cfgOf, hctx]
    exact cctx_of_calm h ..

theorem regionOf_of_calm (a : Agent) : t.regionOf a = s.regionOf a :=
  (congrArg CfgCtx.region (cfgOf_of_calm h a) :)

theorem blockStore_of_calm (a : Agent) : t.blockStore a = s.blockStore a := by
  cases a with
  | task d p k => exact (congrArg CfgCtx.blocks (cfgOf_of_calm h (.task d p k)) :)
  | helm n => exact (congrArg Helm.blocks (helm_of_calm h n) :)

theorem fieldsAt_of_calm (a : Agent) (b i : Nat) : t.fieldsAt a b i = s.fieldsAt a b i := by
  simp only [State.fieldsAt, State.instrAt, blockStore_of_calm h]

theorem actsFor_of_calm (a : Agent) : t.actsFor a = s.actsFor a := by
  cases a with
  | task d p k =>
    exact congrArg (fun n => (cellKey d p, k, n)) (congrArg TaskCtx.cctx (ctx_of_calm h (cellKey d p) k) :)
  | helm n => exact congrArg selectedOf (congrArg Helm.csel (helm_of_calm h n) :)

theorem recordIndex_of_calm (a : Agent) (sr : Nat) : t.recordIndex a sr = s.recordIndex a sr := by
  have hbase : ∀ k n, ((t.cell k).task n).shapeb = ((s.cell k).task n).shapeb := fun k n =>
    (congrArg TaskCtx.shapeb (ctx_of_calm h k n) :)
  simp only [State.recordIndex, actsFor_of_calm h, hbase]

theorem shapes_of_calm (k : Nat) : (t.cell k).shapes = (s.cell k).shapes := (congrArg Cell.shapes (cell_of_calm h k) :)

theorem recordOf_of_calm (a : Agent) (sr : Nat) : t.recordOf a sr = s.recordOf a sr := by
  have howned : ∀ k n, ((t.cell k).cctx n).shapes = ((s.cell k).cctx n).shapes := fun k n =>
    (congrArg CfgCtx.shapes (cctx_of_calm h k n) :)
  simp only [State.recordOf, recordIndex_of_calm h, actsFor_of_calm h, howned, shapes_of_calm h]

end

/-! ## The slot that has fired -/

theorem getElem?_listModify {α : Type} (l : List α) (i j : Nat) (f : α → α) :
    (listModify l i f)[j]? = if i = j then l[j]?.map f else l[j]? := by
  induction l generalizing i j with
  | nil => simp [listModify]
  | cons x r ih =>
    cases i with
    | zero => cases j <;> simp [listModify]
    | succ i => cases j <;> simp [listModify, ih]

theorem win_setSlot (s : State) (a : Agent) (i : Nat) (g : Slot → Slot) :
    (s.setSlot a i g).win a = (s.win a).map fun w => { w with slots := listModify w.slots i g } := win_modWin_same ..

/-- What a firing makes of the firing block of its agent: its slot has fired, and it has fired one instruction more. -/
def Win.count1 (w : Win) (i : Nat) (st : SlotSt) (cycle : Nat) : Win :=
  { w with slots := listModify w.slots i fun sl => { sl with st := st, ord := cycle * 1024 + w.count }, count := w.count + 1 }

theorem win_countFiring {s : State} {a : Agent} {w : Win} (hw : s.win a = some w) (i : Nat) (st : SlotSt) :
    (s.countFiring a i st).win a = some (w.count1 i st s.cycle) := by
  have hop := memOp_traceNode s a i
  have hslot : (((s.traceNode a i).setSlot a i fun sl =>
      { sl with st := st, ord := (s.traceNode a i).cycle * 1024 + w.count }).modWin a
        fun w => { w with count := w.count + 1 }).win a = some (w.count1 i st s.cycle) := by
    rw [win_modWin_same, win_setSlot, hop.win, hw, hop.cycle]
    rfl
  unfold State.countFiring
  simp only [hop.win a, hw]
  cases a with
  | helm n => exact hslot
  | task d p t =>
    dsimp only
    rw [State.win, task_modCell_of _ _ rfl, task_modRegion, State.spend, task_modRegion]
    exact hslot

/-- The slot for which an instruction fired. -/
theorem slotHere_fired {s : State} {w : Win} {sl : Slot} (h : s.slotHere = some (w, sl)) :
    ∃ w' sl', s.fired.win s.here.agent = some w' ∧ w'.slots[s.here.slot]? = some sl' ∧ sl'.st = .fired ∧ w'.baddr = w.baddr ∧
      w'.exit = w.exit ∧ w'.kept = w.kept := by
  unfold State.slotHere at h
  split at h
  · cases h
  next w0 hw =>
    split at h
    · cases h
    next sl0 hsl =>
      cases h
      refine ⟨_, { sl with st := .fired, ord := s.cycle * 1024 + w.count }, win_countFiring hw s.here.slot .fired, ?_, rfl, rfl, rfl, rfl⟩
      simp [Win.count1, getElem?_listModify, hsl]

/-! ## Shape records -/

theorem recordOf_eq (s : State) (a : Agent) (sr : Nat) : s.recordOf a sr =
    if ((s.cell (s.actsFor a).1).cctx (s.actsFor a).2.2).shapes.contains (s.recordIndex a sr) then
      .ok ((s.cell (s.actsFor a).1).shapes.get (s.recordIndex a sr) [0, 0, 0, 0])
    else .error scNorec := rfl

/-- Settles O14: a firing leaves the records and their owners alone, so that the record read is the one of the state before. -/
theorem shapeRecords : Obligations.ShapeRecords := by
  intro s f a i t q n owned p
  have hcalm := calm_fired s
  have hrec : s.recordOf a f.sr.toNat = if owned then .ok p else .error scNorec := recordOf_eq ..
  have hfired : s.fired.recordOf a f.sr.toNat = if owned then .ok p else .error scNorec := (recordOf_of_calm hcalm ..).trans hrec
  refine ⟨fun h hown => ?read, fun h hown => ?unread, fun h hown => ⟨?write, shapes_of_calm hcalm _, ?slot⟩, fun h hown => ?unwritten,
    fun sl hown => ?commit⟩
  case read =>
    change execShapeq f s = _
    refine fireWith_operands (fun w sl _ => ?_) h
    simp only [hown, if_true] at hfired
    change (match s.fired.recordOf a f.sr.toNat with | .error c => _ | .ok p => _) = _
    rw [hfired]
  case unread =>
    change execShapeq f s = _
    refine fireWith_operands (fun w sl _ => ?_) h
    simp only [hown, Bool.false_eq_true, if_false] at hfired
    change (match s.fired.recordOf a f.sr.toNat with | .error c => _ | .ok p => _) = _
    rw [hfired]
    rfl
  case write =>
    change execShape f s = _
    refine fireWith_operands (fun w sl _ => ?_) h
    simp only [hown, if_true] at hfired
    change (match s.fired.recordOf a f.sr.toNat with | .error c => _ | .ok p => _) = _
    rw [hfired]
  case slot =>
    obtain ⟨w, sl, hsl, -⟩ := fireWith_ready (fun s _ _ _ => s) h
    obtain ⟨w', sl', hw', hsl', hst, -⟩ := slotHere_fired hsl
    exact ⟨w', sl', hw', hsl', hst⟩
  case unwritten =>
    change execShape f s = _
    refine fireWith_operands (fun w sl _ => ?_) h
    simp only [hown, Bool.false_eq_true, if_false] at hfired
    change (match s.fired.recordOf a f.sr.toNat with | .error c => _ | .ok p => _) = _
    rw [hfired]
    rfl
  case commit =>
    simp only [hown, if_true] at hrec
    simp only [State.commitOp, if_true, State.commitShape]
    rw [hrec]
    rfl

/-! ## Exits, calls and breaks -/

theorem win_modTask_of {f : TaskCtx → TaskCtx} (s : State) (a : Agent) (h : ∀ t, (f t).win = t.win) : (s.modTask a f).win a = s.win a := by
  rw [State.win, task_modTask_same, h, State.win]

theorem mem_modTask (s : State) (a : Agent) (f : TaskCtx → TaskCtx) : (s.modTask a f).mem = s.mem := by cases a <;> rfl

/-- An exit is taken once: the next one of the attempt is a fault. -/
theorem takeExit_again {s : State} {a : Agent} {w : Win} (i op next code : Nat) (hw : s.win a = some w) (hexit : w.exit ≠ none) :
    s.takeExit a i op next code = s.blockFault a (some i) 0x06 2 0 := by
  cases he : w.exit with
  | none => exact absurd he hexit
  | some e => simp [State.takeExit, hw, he, fcNoExit, bcMultiExit]

theorem takeExit_first {s : State} {a : Agent} {w : Win} (i op next code : Nat) (hw : s.win a = some w) (hexit : w.exit = none) :
    s.takeExit a i op next code =
      (s.modWin a fun w => { w with exit := some ⟨i, op, next, code⟩ }).modTask a fun t =>
        { t with succ := if op = 0xA7 then none else some next } := by
  simp [State.takeExit, hw, hexit]

theorem addrInL_eq {s : State} (a : Agent) (w : Token) :
    s.addrInL a w = if w.kind = .word ∧ w.stop = 0 ∧ w.w64 < 4096 ∧ w.w64 ∈ blockStarts (s.blockStore a) then some w.w64 else none := by
  simp [State.addrInL, and_assoc]

/-- A target that is no block's address traps. -/
theorem indirect_bad {s : State} {a : Agent} {w : Token} (i op : Nat) (ok : State → State)
    (h : ¬(w.kind = .word ∧ w.stop = 0 ∧ w.w64 < 4096 ∧ w.w64 ∈ blockStarts (s.blockStore a))) :
    s.indirect a i op w ok = s.blockFault a (some i) 0x0A 0x100 0 := by
  rw [State.indirect, addrInL_eq, if_neg h]
  rfl

theorem indirect_good {s : State} {a : Agent} {w : Token} (i op : Nat) (ok : State → State)
    (h : w.kind = .word ∧ w.stop = 0 ∧ w.w64 < 4096 ∧ w.w64 ∈ blockStarts (s.blockStore a)) :
    s.indirect a i op w ok = ok (s.takeExit a i op w.w64 0) := by
  rw [State.indirect, addrInL_eq, if_pos h]

/-- An exit with its successor at OFF, when it fires. -/
theorem fireExit_ready {s : State} {op : Nat} {f : FmtC} (h : s.ready op (.c f) = true) :
    fireExit s op f = .next (s.fired.takeExit s.here.agent s.here.slot op (offTarget f (s.fired.baddrOf s.here.agent)) (codeOf f)) := by
  unfold fireExit
  exact fireWith_operands (fun _ _ _ => rfl) h

/-- Settles O20: each exit's own case, and the calls' return word. -/
theorem controlInstructions : Obligations.ControlInstructions := by
  refine ⟨fun s a i op next code w hw => ⟨fun he => ?first, takeExit_again i op next code hw⟩,
    fun s f => ⟨?_, ?_, ?_, ?_, ?_, ?_, ?_, ?_, ?_, ?_, ?_, ?_⟩, fun s a w hw => ?word⟩
  case first =>
    rw [takeExit_first i op next code hw he]
    refine ⟨{ w with exit := some ⟨i, op, next, code⟩ }, ?_, rfl, ?_, rfl, rfl, ?_⟩
    · refine (win_modTask_of _ _ ?_).trans ?_
      · exact fun _ => rfl
      · rw [win_modWin_same, hw]
        rfl
    · rw [task_modTask_same]
    · rw [mem_modTask, modWin_mem]
  case word => simp [State.returnWord, State.baddrOf, hw, cdiv]
  all_goals intro h
  iterate 5 exact fireExit_ready h
  · change execCall f s = _
    exact fireWith_operands (fun _ _ _ => rfl) h
  · intro hg
    change execBri f s = _
    refine fireWith_operands (fun w sl hsl => ?_) h
    rw [operand_eq hsl] at hg ⊢
    exact indirect_good _ _ _ hg
  · intro hb
    change execBri f s = _
    refine fireWith_operands (fun w sl hsl => ?_) h
    rw [operand_eq hsl] at hb
    exact indirect_bad _ _ _ hb
  · intro hg
    change execRet f s = _
    refine fireWith_operands (fun w sl hsl => ?_) h
    rw [operand_eq hsl] at hg ⊢
    exact indirect_good _ _ _ hg
  · intro hb
    change execRet f s = _
    refine fireWith_operands (fun w sl hsl => ?_) h
    rw [operand_eq hsl] at hb
    exact indirect_bad _ _ _ hb
  · intro hg
    change execCalli f s = _
    refine fireWith_operands (fun w sl hsl => ?_) h
    rw [operand_eq hsl] at hg ⊢
    exact indirect_good _ _ _ hg
  · intro hb
    change execCalli f s = _
    refine fireWith_operands (fun w sl hsl => ?_) h
    rw [operand_eq hsl] at hb
    exact indirect_bad _ _ _ hb

/-! ## Colours -/

/-- A stop leaves its task halted, with its record. -/
theorem task_takeStop (s : State) (a : Agent) (f : FaultRec) (quiet : Bool) :
    (s.takeStop a f quiet).task a =
      { s.task a with st := .halted, fault := some f, win := (s.task a).win.map fun w => { w with stopped := true } } := by
  cases a with
  | task d p k => rw [State.takeStop, task_report, task_modTask_same]
  | helm n => exact (task_modHelm_of (f := fun h => { h with ready := false }) _ _ rfl (.helm n)).trans (task_modTask_same ..)

/-- Settles O21: SPAWN, RETC and BRK when they fire, and the grant of a colour. -/
theorem coloursAndBreak : Obligations.ColoursAndBreak := by
  refine ⟨fun s f => ⟨fun h => ?spawn, fun h => ?retc, fun h => ?brk⟩, fun s k r a i c n op f hr hfirst hrec hdue => ⟨fun hfree => ?none,
    fun hc hat hfree hchoice hf => ?grant⟩⟩
  case spawn =>
    change execSpawn f s = _
    exact fireWith_operands (fun _ _ _ => rfl) h
  case retc =>
    change execRetc f s = _
    refine fireWith_operands (fun w sl hsl => ?_) h
    rw [operand_eq hsl]
  case brk =>
    change ∃ u, execBrk f s = _ ∧ _
    unfold execBrk
    refine ⟨_, fireWith_operands (fun _ _ _ => rfl) h, ?_⟩
    rw [(memOp_traceEvent ..).task, task_takeStop]
    exact ⟨rfl, _, rfl, rfl, rfl, rfl⟩
  all_goals
    have hnone : r.spawnQ.find? (fun e => s.choiceDue e.1 1 e.2.1) = none := List.find?_eq_none.2 fun x hx => by simp [hdue x hx]
  case none =>
    change execSpawnGrant k s = _
    simp only [execSpawnGrant, hr, hnone, Option.orElse, hfirst, hrec]
    rw [hfree]
    simp
  case grant =>
    have hpick : (if s.cycle ≤ c || s.cycle < r.spawnAt then none else some n) = some n := by
      simp [Nat.not_le.2 hc, Nat.not_lt.2 hat]
    change execSpawnGrant k s = _
    simp only [execSpawnGrant, hr, hnone, Option.orElse, hfirst, hrec, hfree, hpick, hchoice]
    rw [hf]

/-! ## What acts at commit -/

/-- Settles O23. -/
theorem lateOperationsFire : Obligations.LateOperationsFire := by
  have hlate : ∀ (s : State) op f, s.ready op f = true → fireLate s op f = .next s.fired := fun _ _ _ h =>
    fireWith_operands (fun _ _ _ => rfl) h
  intro s
  refine ⟨fun f => ⟨?_, ?_, ?_, ?_, ?_, ?_⟩, fun f => ⟨?_, ?_, ?_, ?_, ?_, ?_, ?_, ?_, ?_, ?_, ?_, ?_, ?_⟩⟩
  all_goals exact hlate s _ _

/-- Settles O25. -/
theorem csrWrites : Obligations.CsrWrites := by
  intro s d p t i g sl
  refine ⟨?_, ?_, ?_, ?_, ?_, ?_, ?_⟩
  all_goals
    intro hn
    simp only [State.commitOp, State.csrWrite, State.csrWriteAt, hn]
    rfl

theorem onRegion_busy {s : State} {a : Agent} {h : Word} {k : Nat} (i : Nat) (go : State → CommitRes) (hk : keyOfHandle h = some k)
    (hbusy : s.opUnderWay a k = true) : s.onRegion a i h go = .done s (some (wordTok 3)) := by
  simp only [State.onRegion, hk, hbusy, if_true]
  rfl

/-- Where no other operation is under way, an operation on a region is what it does, and a wait holds the region. -/
theorem onRegion_free {s : State} {a : Agent} {h : Word} (i : Nat) (go : State → CommitRes)
    (hfree : ∀ k, keyOfHandle h = some k → s.opUnderWay a k = false) :
    (∀ u t, go s = .done u t → s.onRegion a i h go = .done u t) ∧
    ∀ u k, keyOfHandle h = some k → go s = .wait u → s.onRegion a i h go = .wait (u.holdOp a i k) := by
  cases hk : keyOfHandle h with
  | none => exact ⟨fun u t hgo => by simp [State.onRegion, hk, hgo], fun u k h => by cases h⟩
  | some j =>
    refine ⟨fun u t hgo => by simp [State.onRegion, hk, hfree j hk, hgo], fun u k h hgo => ?_⟩
    cases h
    simp [State.onRegion, hk, hfree j hk, hgo]

theorem key_of_regionAt {s : State} {h : Word} {k : Nat} {r : Region} (hr : s.regionAt h = some (k, r)) : keyOfHandle h = some k := by
  unfold State.regionAt at hr
  split at hr
  · next j hj =>
    cases hf : s.regions.find j <;> simp [hf] at hr
    rw [hj, hr.1]
  · cases hr

/-- Settles O24. -/
theorem commitOperations : Obligations.CommitOperations := by
  refine ⟨fun s a i sl => ⟨fun g => ⟨rfl, fun hbit => ?cancel⟩, fun g hlow => ?budget⟩, fun s a i g sl => ?regions⟩
  case cancel =>
    simp [State.commitOp, hbit, State.commitCancelCopies]
  case budget =>
    have hword : ((sl.tok .r).asWord).toNat = (sl.tok .r).w64 := by simp [Token.asWord, Token.w64]
    have hhigh : field (sl.tok .r).asWord 63 32 = 0 := by
      rw [field, fieldN, hword, Nat.shiftRight_eq_div_pow, Nat.div_eq_of_lt hlow, Nat.zero_mod]
    have hbits : field (sl.tok .r).asWord 31 0 = (sl.tok .r).w64 := by
      rw [field, fieldN, hword]
      exact Nat.mod_eq_of_lt hlow
    simp [State.commitOp, State.commitBudget, hhigh, hbits]
    rfl
  case regions =>
    intro h answer
    have hresume : s.commitOp a i 0xD3 (.s g) sl = s.onRegion a i h fun s => s.commitResume h := rfl
    have habort : s.commitOp a i 0xD4 (.s g) sl = s.onRegion a i h fun s => s.commitAbort h := rfl
    rw [hresume, habort]
    refine ⟨fun k hk hbusy => ⟨onRegion_busy i _ hk hbusy, onRegion_busy i _ hk hbusy⟩, fun hnone hfree => ?_, fun k r hr hfree => ?_⟩
    · have hat := (onRegion_free i · hfree)
      exact ⟨(hat _).1 _ _ (by simp only [State.commitResume, hnone]; rfl), (hat _).1 _ _ (by simp only [State.commitAbort, hnone]; rfl)⟩
    · have hk := key_of_regionAt hr
      have hat := fun go => onRegion_free (s := s) (a := a) i go (h := h) fun j hj => by rw [hk] at hj; cases hj; exact hfree
      refine ⟨fun ⟨hmail, hst⟩ => (hat _).1 _ _ ?_, fun hno => (hat _).1 _ _ ?_, fun hbusy hst => ⟨fun hw => (hat _).1 _ _ ?_,
        fun u hw => (hat _).2 _ _ hk ?_⟩, fun hbusy => (hat _).1 _ _ ?_, fun hbusy h1 h2 h3 h4 => (hat _).1 _ _ ?_⟩
      · simp only [State.commitResume, hr, Region.frozen, hmail, Bool.true_and, Bool.or_eq_true, beq_iff_eq, hst, if_true]
        rfl
      · have : ¬(r.frozen = true ∧ (r.st = .active ∨ r.st = .gating)) := by
          rintro ⟨hm, hs⟩
          rcases hno with hno | ⟨hna, hng⟩
          · simp [Region.frozen, hno] at hm
          · exact hs.elim hna hng
        simp only [State.commitResume, hr, Bool.and_eq_true, Bool.or_eq_true, beq_iff_eq, if_neg this]
        rfl
      · have hst' : ((r.st = .active ∨ r.st = .gating) ∨ r.st = .loaded) ∨ r.st = .saved := by grind
        simp only [State.commitAbort, hr, hbusy, Bool.false_eq_true, if_false, Bool.or_eq_true, beq_iff_eq, if_pos hst', hw]
        rfl
      · have hst' : ((r.st = .active ∨ r.st = .gating) ∨ r.st = .loaded) ∨ r.st = .saved := by grind
        simp only [State.commitAbort, hr, hbusy, Bool.false_eq_true, if_false, Bool.or_eq_true, beq_iff_eq, if_pos hst', hw]
      · simp only [State.commitAbort, hr, hbusy, if_true]
        rfl
      · simp only [State.commitAbort, hr, hbusy, Bool.false_eq_true, if_false, Bool.or_eq_true, beq_iff_eq, h1, h2, h3, h4, or_self]
        rfl

end Sys2Proof.Machine

/-! # Proofs: reads, waits, invalidation and activation -/

namespace Sys2Proof.Machine

/-! ## Reads and waits -/

/-- A read delivers what it finds in the state before it fires. -/
theorem fireRead_ready {s : State} {op : Nat} {f : FmtS} {v : State → Agent → Slot → Word × Word} {r : Word × Word}
    (hv : ∀ w sl, s.slotHere = some (w, sl) → v s s.here.agent sl = r) (h : s.ready op (.s f) = true) :
    fireRead s op f v = .next
      ((({ s.fired with free := s.fired.free + 2 } : State).send s.here.agent s.here.slot op (.s f) f.ta (wordTok r.1.toNat) 1).send
        s.here.agent s.here.slot op (.s f) f.tb (wordTok r.2.toNat) 1) := by
  unfold fireRead
  exact fireWith_operands (fun w sl hsl => by rw [hv w sl hsl]) h

/-- The word of the almanac that ALMR reads. -/
def almanacWord (s : State) (f : FmtS) : Word :=
  match s.almanac[(s.operand .l).w64]? with
  | some e => if f.aux.toNat % 2 = 0 then e.1 else e.2
  | none => BitVec.allOnes 64

/-- Settles O26: each instruction's own effect, with its operands named. -/
theorem readsAndWaits : Obligations.ReadsAndWaits := by
  refine ⟨fun s => ⟨fun f => ⟨fun h => ?csrr, fun h => ?mailr, fun h => ?almr, fun h => ?rdbudget, fun h => ?rdctr⟩, fun f h => ?qstat⟩,
    fun s => ⟨fun f => ⟨fun h => ?cstat, fun h => ?waitb⟩, fun f => ⟨fun h ev pl r hev => ?idle, fun h => ?tlbi⟩⟩⟩
  case csrr =>
    change execCsrr f s = _
    exact fireRead_ready (r := (s.csrRead s.here.agent f.sel.toNat, s.csrRead s.here.agent f.sel.toNat)) (fun _ _ _ => rfl) h
  case mailr =>
    change execMailr f s = _
    unfold execMailr
    refine fireRead_ready (r := (s.mailRead s.here.agent (s.operand .l).asWord (f.aux.toNat % 16),
      s.mailRead s.here.agent (s.operand .l).asWord (f.aux.toNat % 16))) (fun w sl hsl => ?_) h
    rw [operand_eq hsl]
  case almr =>
    change execAlmr f s = _
    unfold execAlmr
    refine fireRead_ready (r := (almanacWord s f, almanacWord s f)) (fun w sl hsl => ?_) h
    rw [almanacWord, operand_eq hsl]
    cases s.almanac[(sl.tok .l).w64]? <;> rfl
  case rdbudget =>
    change execReckRdbudget f s = _
    exact fireRead_ready (r := (s.budgetWord, s.budgetWord)) (fun _ _ _ => rfl) h
  case rdctr =>
    change execReckRdctr f s = _
    exact fireRead_ready (r := s.readCounter (s.operand .l).asWord) (fun w sl hsl => by rw [operand_eq hsl]) h
  case qstat =>
    change execQstat f s = _
    exact fireWith_operands (fun w sl hsl => by rw [operand_eq hsl]) h
  case cstat =>
    change execCstat f s = _
    exact fireWith_operands (fun _ _ _ => rfl) h
  case waitb =>
    change execWaitb f s = _
    exact fireWith_operands (fun w sl hsl => by rw [operand_eq hsl]) h
  case idle =>
    change execIdle f s = _
    exact fireWith_operands (fun _ _ _ => by simp only [hev]) h
  case tlbi =>
    change execTlbi f s = _
    refine fireWith_operands (fun w sl hsl => ?_) h
    rw [operand_eq hsl, operand_eq hsl, fieldN, Nat.shiftRight_eq_div_pow] <;> rfl

/-! ## Invalidation -/

theorem tlbiSelects_eq (mode va asid : Nat) (e : TlbEntry) : tlbiSelects mode va asid e =
    (let hit := decide (va % 2 ^ 52 / 65536 * 65536 / 2 ^ e.size = e.vpage)
     let g := e.leaf.getLsbD 9
     if mode = 0 then hit && (g || decide (e.asid = asid)) else if mode = 1 then !g && decide (e.asid = asid)
     else if mode = 2 then hit else true) := by
  match mode with
  | 0 => rfl
  | 1 => rfl
  | 2 => rfl
  | n + 3 => simp [tlbiSelects]

theorem tlbiScope_iff (a : Agent) (sc n : Nat) :
    tlbiScope a sc n = true ↔ if sc = 3 then n / 64 = a.die ∧ n < 4096 else n < 4096 ∨ 8192 ≤ n := by
  unfold tlbiScope
  split <;> simp

/-- Settles O27. -/
theorem tlbInvalidation : Obligations.TlbInvalidation := by
  refine ⟨fun s a i sc mode va asid n p hp => ?drop, fun s a i w sl f hw hsl hf hst hstop hact hdone => ?done⟩
  case drop =>
    have hports : (s.tlbi a i sc mode va asid).ports = s.ports.map fun e =>
        if tlbiScope a sc e.1 then (e.1, { e.2 with tlb := e.2.tlb.filter fun t => !tlbiSelects mode va asid t }) else e := by
      simp only [State.tlbi, State.setSlot, modWin_ports]
    intro sel within
    rw [hports]
    refine List.mem_map.2 ⟨(n, p), hp, ?_⟩
    have hsel : tlbiSelects mode va asid = sel := funext (tlbiSelects_eq mode va asid)
    have hscope : (tlbiScope a sc n = true) = within := propext (tlbiScope_iff a sc n)
    simp only [hsel, hscope]
    split <;> rfl
  case done =>
    change execTlbiComplete a i s = _
    simp only [execTlbiComplete, hw, hsl, hf, hst, hstop, hact, hdone]
    rfl

/-! ## Activation -/

theorem cellKey_div {d p : Nat} (hp : p < 256) : cellKey d p / 256 = d ∧ cellKey d p % 256 = p := by
  unfold cellKey; omega

theorem task_startBlock_fresh (s : State) (d p k b : Nat) : ∃ w, w.baddr = b ∧ w.seq = (s.cell (cellKey d p)).seq + 1 ∧
    (∀ sl ∈ w.slots, sl = Slot.fresh) ∧ (s.startBlock (.task d p k) b).task (.task d p k) =
      { s.task (.task d p k) with st := .active, win := some w, succ := none, after := none } := by
  let u := s.modCell (cellKey d p) fun c => { c with seq := (s.cell (cellKey d p)).seq + 1 }
  refine ⟨u.openWin (.task d p k) b ((s.cell (cellKey d p)).seq + 1), rfl, rfl, fun sl h => List.eq_of_mem_replicate h, ?_⟩
  change (u.modTask (.task d p k) _).task (.task d p k) = _
  rw [task_modTask_same, task_modCell_of s _ rfl]

theorem helm_startBlock (s : State) (n b : Nat) : ∃ w, w.baddr = b ∧ w.seq = (s.helm n).seq + 1 ∧
    (s.startBlock (.helm n) b).task (.helm n) = { s.task (.helm n) with st := .active, win := some w, succ := none, after := none } := by
  let u := s.modHelm n fun h => { h with seq := (s.helm n).seq + 1 }
  refine ⟨u.openWin (.helm n) b ((s.helm n).seq + 1), rfl, rfl, ?_⟩
  change (u.modTask (.helm n) _).task (.helm n) = _
  rw [task_modTask_same, task_modHelm_of (f := fun h => { h with seq := (s.helm n).seq + 1 }) s n rfl]

/-- Settles O28: activation is `startBlock` with the colour, or from a fresh context. -/
theorem activation : Obligations.Activation := by
  refine fun s => ⟨fun d p t col hp hst hcol => ?token, fun n hready hst => ?helm⟩
  case token =>
    obtain ⟨hd, hm⟩ := cellKey_div (d := d) hp
    let v := s.modTask (.task d p t) fun t => { t with color := col }
    obtain ⟨w, hb, hq, hfresh, htask⟩ := task_startBlock_fresh v d p t (s.task (.task d p t)).entry
    have hv : v.task (.task d p t) = { s.task (.task d p t) with color := col } := task_modTask_same ..
    have hseq : (v.cell (cellKey d p)).seq = (s.cell (cellKey d p)).seq := by
      change ((s.modCell _ _).cell _).seq = _
      rw [cell_modCell_same]
    have hexec : execTokenArrivalActivate (cellKey d p) t s = .next (v.startBlock (.task d p t) (s.task (.task d p t)).entry) := by
      have hidle : ((s.cell (cellKey d p)).task t).st = .idle := hst
      simp only [execTokenArrivalActivate, hidle, ne_eq, not_true_eq_false, if_false, hcol, hd, hm]
      rfl
    refine ⟨_, w, hexec, ?_⟩
    rw [htask, hv]
    exact ⟨rfl, rfl, rfl, hb, hq.trans (congrArg (· + 1) hseq), rfl, hfresh⟩
  case helm =>
    let v := s.modHelm n fun h => { h with task := { TaskCtx.fresh with spill := h.spill, entry := h.entry } }
    obtain ⟨w, hb, hq, htask⟩ := helm_startBlock v n (s.helm n).entry
    have hhelm : v.helm n = { s.helm n with task := { TaskCtx.fresh with spill := (s.helm n).spill, entry := (s.helm n).entry } } :=
      helm_modHelm_same ..
    have hv : v.task (.helm n) = { TaskCtx.fresh with spill := (s.helm n).spill, entry := (s.helm n).entry } :=
      (congrArg Helm.task hhelm :)
    have hexec : execHelmStart n s = .next (v.startBlock (.helm n) (s.helm n).entry) := by
      simp only [execHelmStart, hready, hst]
      rfl
    refine ⟨_, w, hexec, ?_⟩
    rw [htask, hv]
    exact ⟨rfl, rfl, rfl, rfl, rfl, hb, hq.trans (congrArg (· + 1) (congrArg Helm.seq hhelm :))⟩

end Sys2Proof.Machine

/-! # Proofs: barriers -/

namespace Sys2Proof.Machine

/-! ## No log -/

theorem logs_fired {s : State} (h : s.logs = []) : s.fired.logs = [] := by
  have hcount : ∀ a i st, (s.countFiring a i st).logs = [] := fun a i st => by
    have htrace := (memOp_traceNode s a i).nolog h
    cases a <;> simpa [State.countFiring, State.setSlot, State.spend] using htrace
  exact hcount ..

theorem log_of_nolog {s : State} (h : s.logs = []) (ln : Nat) : s.log ln = none := by
  unfold State.log
  rw [h]
  split <;> rfl

theorem cctxLog_of_nolog {s : State} (h : s.logs = []) (k n : Nat) : s.cctxLog k n = 0 := by
  simp [State.cctxLog, log_of_nolog h]

theorem replays_of_nolog {s : State} (h : s.logs = []) (a : Agent) : s.replays a = false := by
  cases a with
  | helm n => rfl
  | task d p t => simp [State.replays, log_of_nolog h]

theorem choice_of_nolog {s : State} (h : s.logs = []) (a : Agent) (ck i v : Nat) : s.choice a ck i v = .done s := by
  cases a with
  | helm n => rfl
  | task d p t => simp [State.choice, cctxLog_of_nolog h]

theorem noteSync_of_nolog {s : State} (h : s.logs = []) (a : Agent) (n : Nat) : s.noteSync a n = s := by
  cases a with
  | helm n => rfl
  | task d p t => simp [State.noteSync, State.putNote, State.modLog, h, Table.find]

/-- Outside any log a barrier instruction delivers at once. -/
theorem syncSend_of_nolog {s : State} (h : s.logs = []) (a : Agent) (i op : Nat) (f : FmtS) (tok : Token) (fl : Nat) (acq : Bool) :
    s.syncSend a i op f tok fl acq = s.synced a i op f tok fl acq := by
  simp only [State.syncSend, replays_of_nolog h, Bool.false_eq_true, if_false, noteSync_of_nolog h, choice_of_nolog h]
  rfl

/-! ## The barrier that an instruction names -/

section
variable {s t : State} (h : t.calm = s.calm)
include h

theorem barAsid_of_calm (a : Agent) : t.barAsid a = s.barAsid a := by
  cases a with
  | task d p k => exact (congrArg CfgCtx.asid (cfgOf_of_calm h (.task d p k)) :)
  | helm n =>
    have hsel : (t.helm n).csel = (s.helm n).csel := (congrArg Helm.csel (helm_of_calm h n) :)
    have hst : ∀ k m, ((t.cell k).cctx m).st = ((s.cell k).cctx m).st := fun k m => (congrArg CfgCtx.st (cctx_of_calm h k m) :)
    have hasid : ∀ k m, ((t.cell k).cctx m).asid = ((s.cell k).cctx m).asid := fun k m =>
      (congrArg CfgCtx.asid (cctx_of_calm h k m) :)
    simp only [State.barAsid, hsel, hst, hasid]

theorem barIs_of_calm (a : Agent) (f : FmtS) : t.barIs a f = s.barIs a f := by
  funext b
  simp only [State.barIs, barAsid_of_calm h]

theorem barrierOf_of_calm (a : Agent) (f : FmtS) : t.barrierOf a f = s.barrierOf a f := by
  have hbars : t.barriers = s.barriers := congrArg (fun c : Calm => c.rest.barriers) h
  simp only [State.barrierOf, hbars, barIs_of_calm h, barAsid_of_calm h]

end

/-- An arrival changes the barriers alone. -/
theorem arrive_eq (s : State) (a : Agent) (f : FmtS) (v : Option Token) : ∃ bs, s.arrive a f v = { s with barriers := bs } := by
  unfold State.arrive
  dsimp only
  split <;> exact ⟨_, rfl⟩

/-- An arrival keeps the key of its barrier and its counter, and stands behind the others. -/
theorem barrier_arrive (b : Barrier) (a : Agent) (f : FmtS) (v : Option Token) :
    (b.arrive a f v).sc = b.sc ∧ (b.arrive a f v).inst = b.inst ∧ (b.arrive a f v).asid = b.asid ∧ (b.arrive a f v).bid = b.bid ∧
    (b.arrive a f v).ctr = b.ctr ∧ (b.arrive a f v).arrivals = b.arrivals ++ [(a, v)] := by
  have hopen : ∀ n rop vty, (b.open n rop vty).sc = b.sc ∧ (b.open n rop vty).inst = b.inst ∧ (b.open n rop vty).asid = b.asid ∧
      (b.open n rop vty).bid = b.bid ∧ (b.open n rop vty).ctr = b.ctr ∧ (b.open n rop vty).arrivals = b.arrivals := fun n rop vty => by
    unfold Barrier.open
    dsimp only
    split <;> split <;> exact ⟨rfl, rfl, rfl, rfl, rfl, rfl⟩
  unfold Barrier.arrive
  cases v with
  | none =>
    obtain ⟨h1, h2, h3, h4, h5, h6⟩ := hopen (f.aux.toNat + 1) 0 0
    exact ⟨h1, h2, h3, h4, h5, congrArg (· ++ _) h6⟩
  | some t =>
    obtain ⟨h1, h2, h3, h4, h5, h6⟩ := hopen (f.aux.toNat + 1) f.rop f.vty
    exact ⟨h1, h2, h3, h4, h5, congrArg (· ++ _) h6⟩

theorem barIs_barrierOf (s : State) (a : Agent) (f : FmtS) : s.barIs a f (s.barrierOf a f) = true := by
  unfold State.barrierOf
  cases hb : s.barriers.find? (s.barIs a f) with
  | some b => exact List.find?_some hb
  | none => simp [State.barIs, Barrier.fresh]

theorem barIs_arrive (s : State) (a : Agent) (f : FmtS) (v : Option Token) : s.barIs a f ((s.barrierOf a f).arrive a f v) = true := by
  have hkey := barIs_barrierOf s a f
  obtain ⟨hsc, hinst, hasid, hbid, -, -⟩ := barrier_arrive (s.barrierOf a f) a f v
  simpa only [State.barIs, hsc, hinst, hasid, hbid] using hkey

/-- What a list finds after every element that passes has been replaced by one that passes. -/
theorem find?_map_replace {α : Type} {p : α → Bool} {y : α} (hy : p y = true) (l : List α) :
    (l.map fun x => if p x then y else x).find? p = (l.find? p).map fun _ => y := by
  induction l with
  | nil => rfl
  | cons x r ih =>
    cases hx : p x
    · simp [hx, ih]
    · simp [hx, hy]

/-- The barrier that has been reached is the one that the instruction names from then on. -/
theorem barrierOf_arrive (s : State) (a : Agent) (f : FmtS) (v : Option Token) :
    (s.arrive a f v).barrierOf a f = (s.barrierOf a f).arrive a f v := by
  have hkey := barIs_arrive s a f v
  have hlook : (s.arrive a f v).barriers.find? (s.barIs a f) = some ((s.barrierOf a f).arrive a f v) := by
    unfold State.arrive
    dsimp only
    cases hb : s.barriers.find? (s.barIs a f) with
    | some b =>
      simp only [Option.isSome_some, if_true]
      rw [find?_map_replace hkey, hb]
      rfl
    | none =>
      simp only [Option.isSome_none, Bool.false_eq_true, if_false]
      rw [List.find?_append, hb]
      simp [hkey]
  obtain ⟨bs, hbs⟩ := arrive_eq s a f v
  have his : (s.arrive a f v).barIs a f = s.barIs a f := by rw [hbs]; rfl
  simp only [State.barrierOf, his, hlook, Option.getD_some]

/-! ## A barrier instruction that waits -/

/-- An agent whose slot `i` waits for phase `p` with an instruction. -/
structure SyncsAt (u : State) (a : Agent) (i op : Nat) (f : FmtS) (p : Nat) : Prop where
  waits : ∃ w sl, u.win a = some w ∧ w.slots[i]? = some sl ∧ sl.st = .pending ∧ w.stopped = false ∧
    u.fieldsAt a w.baddr i = some (op, .s f) ∧ w.ops.find i = some (.begun p 1)
  active : (u.task a).st = .active

theorem syncTry_at {u : State} {a : Agent} {i op : Nat} {f : FmtS} {p : Nat} (h : SyncsAt u a i op f p) (hop : 0xB0 ≤ op ∧ op ≤ 0xB2) :
    u.syncTry a i = u.syncCheck a i op f p := by
  obtain ⟨w, sl, hw, hsl, hst, hstop, hf, hb⟩ := h.waits
  obtain ⟨hlo, hhi⟩ := hop
  simp [State.syncTry, hw, hsl, hf, hb, hst, hstop, h.active, hlo, hhi]

/-- The state in which a synchronisation instruction has fired and waits. -/
def State.awaiting (s : State) : State := s.fired.setSlot s.here.agent s.here.slot fun sl => { sl with st := .pending }

theorem calm_awaiting (s : State) : s.awaiting.calm = s.calm := (calm_setSlot ..).trans (calm_fired s)

theorem logs_awaiting {s : State} (h : s.logs = []) : s.awaiting.logs = [] :=
  (modWin_logs ..).trans (logs_fired h)

/-- The window of an instruction that may fire, once it waits. -/
theorem win_awaiting {s : State} {w : Win} {sl : Slot} (h : s.slotHere = some (w, sl)) :
    ∃ w' sl', s.awaiting.win s.here.agent = some w' ∧ w'.slots[s.here.slot]? = some sl' ∧ sl'.st = .pending ∧
      w'.baddr = w.baddr ∧ w'.stopped = w.stopped := by
  unfold State.slotHere at h
  split at h
  · cases h
  next w0 hw =>
    split at h
    · cases h
    next sl0 hsl =>
      cases h
      refine ⟨{ w.count1 s.here.slot .fired s.cycle with
          slots := listModify (w.count1 s.here.slot .fired s.cycle).slots s.here.slot fun sl => { sl with st := .pending } },
        { sl with st := .pending, ord := s.cycle * 1024 + w.count }, ?_, ?_, rfl, rfl, rfl⟩
      · rw [State.awaiting, win_setSlot, State.fired, win_countFiring hw]
        rfl
      · simp [Win.count1, getElem?_listModify, hsl]

theorem ready_pending {s : State} {op : Nat} {f : Fmt} (h : s.ready op f = true) :
    ∃ w sl, s.slotHere = some (w, sl) ∧ s.win s.here.agent = some w ∧ w.stopped = false ∧ (s.task s.here.agent).st = .active := by
  unfold State.ready at h
  cases hp : s.pendingHere with
  | none => rw [hp] at h; cases h
  | some p =>
    obtain ⟨w, sl⟩ := p
    obtain ⟨hw, hsl, -, hstop, hact⟩ := pendingHere_some hp
    exact ⟨w, sl, by simp [State.slotHere, hw, hsl], hw, hstop, hact⟩

/-- An instruction that has fired, arrived or read its ticket, and been marked, waits for its phase. -/
theorem syncsAt_of {s u : State} {op opx : Nat} {f : FmtS} {fx : Fmt} {p : Nat} {w : Win} (g : Win → Win)
    (h : s.ready opx fx = true) (hw : s.win s.here.agent = some w) (hf : s.fieldsAt s.here.agent w.baddr s.here.slot = some (op, .s f))
    (hwin : u.win s.here.agent = (s.awaiting.win s.here.agent).map g)
    (hu : ∃ bs, u.calm = ({ s.awaiting with barriers := bs } : State).calm)
    (hg : ∀ w, (g w).slots = w.slots ∧ (g w).baddr = w.baddr ∧ (g w).stopped = w.stopped ∧
      (g w).ops = w.ops.put s.here.slot (.begun p 1)) : SyncsAt u s.here.agent s.here.slot op f p := by
  obtain ⟨bs, hcalm⟩ := hu
  obtain ⟨w0, sl, hsl, hw0, hstop, hact⟩ := ready_pending h
  rw [hw] at hw0
  cases hw0
  obtain ⟨w1, sl1, hw1, hsl1, hst1, hb1, hstop1⟩ := win_awaiting hsl
  obtain ⟨hgs, hgb, hgstop, hgo⟩ := hg w1
  have hfields : u.fieldsAt s.here.agent w.baddr s.here.slot = s.fieldsAt s.here.agent w.baddr s.here.slot :=
    (fieldsAt_of_calm hcalm ..).trans (fieldsAt_of_calm (calm_awaiting s) ..)
  have hst : (u.task s.here.agent).st = (s.task s.here.agent).st :=
    ((congrArg TaskCtx.st (task_of_calm hcalm s.here.agent) :)).trans (congrArg TaskCtx.st (task_of_calm (calm_awaiting s) s.here.agent) :)
  refine ⟨⟨g w1, sl1, ?_, hgs ▸ hsl1, hst1, ?_, ?_, ?_⟩, hst.trans hact⟩
  · rw [hwin, hw1, Option.map_some]
  · rw [hgstop, hstop1, hstop]
  · rw [hgb, hb1, hfields, hf]
  · rw [hgo, find_put_same]

/-! ## A delivery leaves nothing waiting -/

/-- No slot of an agent that goes on waits for its completion. -/
def State.noneWaits (s : State) (a : Agent) : Prop :=
  (s.task a).st = .active → ∀ w, s.win a = some w → ∀ (j : Nat) (sl : Slot), w.slots[j]? = some sl → sl.st ≠ .pending

theorem syncTry_of_noneWaits {s : State} {a : Agent} (h : s.noneWaits a) (i : Nat) : s.syncTry a i = s := by
  unfold State.syncTry
  split
  · rfl
  next w hw =>
    split
    next sl op f p live hsl hf hop =>
      by_cases hact : (s.task a).st = .active
      · have hst := h hact w hw i sl hsl
        simp [hst]
      · simp [hact]
    · rfl

theorem noneWaits_of_task {s t : State} {a : Agent} (h : t.task a = s.task a) (hs : s.noneWaits a) : t.noneWaits a := by
  unfold State.noneWaits at hs ⊢
  simp only [State.win, h] at hs ⊢
  exact hs

theorem noneWaits_modWin {s : State} {a : Agent} {f : Win → Win} (hs : s.noneWaits a)
    (hf : ∀ w (j : Nat) (sl : Slot), (f w).slots[j]? = some sl → sl.st = .pending → ∃ sl' : Slot, w.slots[j]? = some sl' ∧ sl'.st = .pending) :
    (s.modWin a f).noneWaits a := by
  intro hact w hw j sl hsl hst
  rw [win_modWin_same] at hw
  obtain ⟨w0, hw0, rfl⟩ := Option.map_eq_some_iff.mp hw
  obtain ⟨sl', hsl', hst'⟩ := hf w0 j sl hsl hst
  refine hs ?_ w0 hw0 j sl' hsl' hst'
  rwa [State.modWin, task_modTask_same] at hact

theorem noneWaits_setSlot {s : State} {a : Agent} {i : Nat} {g : Slot → Slot} (hs : s.noneWaits a) (hg : ∀ sl, (g sl).st = sl.st) :
    (s.setSlot a i g).noneWaits a := by
  refine noneWaits_modWin hs fun w j sl hsl hst => ?_
  rw [getElem?_listModify] at hsl
  split at hsl
  · obtain ⟨sl0, hsl0, rfl⟩ := Option.map_eq_some_iff.mp hsl
    exact ⟨sl0, hsl0, (hg sl0).symm.trans hst⟩
  · exact ⟨sl, hsl, hst⟩

theorem st_setFld (sl : Slot) (x : Fld) (v : FieldSt) : (sl.setFld x v).st = sl.st := by cases x <;> rfl

theorem noneWaits_blockFault {s : State} {a : Agent} (slot : Option Nat) (c d addr : Nat) (hs : s.noneWaits a) :
    (s.blockFault a slot c d addr).noneWaits a := by
  unfold State.blockFault
  split
  · refine noneWaits_of_task ((memOp_traceEvent ..).task a) ?_
    intro hact
    rw [task_takeFault] at hact
    cases hact
  · exact hs

theorem noneWaits_give {s : State} {a : Agent} (i n : Nat) (y : Fld) (tok : Token) (lat : Nat) (hs : s.noneWaits a) :
    (s.give a i n y tok lat).noneWaits a := by
  have hset : ∀ g : Slot → FieldSt, (s.setSlot a n fun sl => sl.setFld y (g sl)).noneWaits a := fun g =>
    noneWaits_setSlot hs fun sl => st_setFld ..
  unfold State.give
  split
  · exact hs
  split
  · split
    · exact hset _
    split
    · split <;> exact noneWaits_blockFault _ _ _ _ hs
    · exact noneWaits_blockFault _ _ _ _ hs
    · exact hset _
    · split <;> exact hset _
  · exact hs

theorem noneWaits_giveReg {s : State} {a : Agent} (i n : Nat) (v : Option Payload) (hs : s.noneWaits a) :
    (s.giveReg a i n v).noneWaits a := by
  unfold State.giveReg
  split
  · exact hs
  split
  · exact noneWaits_blockFault _ _ _ _ hs
  · exact noneWaits_modWin hs fun w j sl hsl hst => ⟨sl, hsl, hst⟩

theorem noneWaits_giveChan {s : State} {a : Agent} (i j : Nat) (x : Bool) (op : Nat) (f : Fmt) (tok : Token) (hs : s.noneWaits a) :
    (s.giveChan a i j x op f tok).noneWaits a := by
  unfold State.giveChan
  split
  · exact hs
  split
  · exact hs
  dsimp only
  split
  · exact hs
  split
  · refine noneWaits_of_task (task_modCell_of _ _ ?_ _) hs
    rfl
  · exact noneWaits_modWin hs fun w j sl hsl hst => ⟨sl, hsl, hst⟩

theorem noneWaits_send {s : State} {a : Agent} (i op : Nat) (f : Fmt) (tgt : Target) (tok : Token) (lat : Nat) (hs : s.noneWaits a) :
    (s.send a i op f tgt tok lat).noneWaits a := by
  unfold State.send
  split
  · exact hs
  split
  · exact hs
  · exact noneWaits_give _ _ _ _ _ hs
  · exact noneWaits_giveReg _ _ _ hs
  · exact noneWaits_giveReg _ _ _ hs
  · exact noneWaits_giveChan _ _ _ _ _ _ hs

theorem task_acquireAt (s : State) (a b : Agent) (sc : Nat) : (s.acquireAt a sc).task b = s.task b := by
  have hadvance : ∀ (c : Bool) (d : Nat), (if c then s.advanceGen d else s).task b = s.task b := fun c d => by
    cases c
    · rfl
    · change (s.advanceGen d).task b = _
      rw [State.advanceGen, task_modDie]
  cases a <;> exact hadvance _ _

/-- A delivery from the one slot that waited leaves none waiting. -/
theorem noneWaits_synced {s : State} {a : Agent} {i : Nat} (op : Nat) (f : FmtS) (tok : Token) (fl : Nat) (acq : Bool)
    (h : ∀ w, s.win a = some w → ∀ (j : Nat) (sl : Slot), w.slots[j]? = some sl → j ≠ i → sl.st ≠ .pending) :
    (s.synced a i op f tok fl acq).noneWaits a := by
  have hacq : (if acq then s.acquireAt a f.sc else s).win a = s.win a := by
    split
    · exact congrArg TaskCtx.win (task_acquireAt ..)
    · rfl
  refine noneWaits_of_task (task_modRegion ..) (noneWaits_send _ _ _ _ _ _ (noneWaits_send _ _ _ _ _ _ ?_))
  intro _ w hw j sl hsl hst
  rw [win_setSlot, win_modWin_same, hacq, Option.map_map] at hw
  obtain ⟨w0, hw0, rfl⟩ := Option.map_eq_some_iff.mp hw
  simp only [Function.comp_apply, getElem?_listModify] at hsl
  split at hsl
  · obtain ⟨sl0, -, rfl⟩ := Option.map_eq_some_iff.mp hsl
    cases hst
  next hij => exact h w0 hw0 j sl hsl (fun hji => hij hji.symm) hst

/-- One step of a fold that changes the state once. -/
theorem foldl_once {α β : Type} [DecidableEq β] {g : α → β → α} {u v : α} {i : β} (hother : ∀ j, j ≠ i → g u j = u) (hat : g u i = v)
    (hthen : ∀ j, g v j = v) (l : List β) : l.foldl g u = if i ∈ l then v else u := by
  have hstays : ∀ l : List β, l.foldl g v = v := fun l => by
    induction l with
    | nil => rfl
    | cons j r ih => rw [List.foldl_cons, hthen, ih]
  induction l with
  | nil => rfl
  | cons j r ih =>
    rw [List.foldl_cons]
    by_cases hj : j = i
    · subst hj
      simp [hat, hstays]
    · rw [hother j hj, ih]
      simp [Ne.symm hj]

/-! ## The obligation -/

/-- BARW arrives with a value when ROP is not 0 (R325). -/
theorem barw_value (f : FmtS) (t : Token) :
    (if decide (0xB0 = 0xB0) && decide (f.rop ≠ 0) then some t else none) = if f.rop ≠ 0 then some t else none := by
  simp

theorem complete_next (s : State) (b : Barrier) :
    (s.completePhase b).complete b.ctr = true ∧ (s.completePhase b).isLast b.ctr = true := by
  have hd : ((b.ctr + 1) % 2 ^ 32 + 2 ^ 32 - b.ctr % 2 ^ 32) % 2 ^ 32 = 1 := by omega
  have hctr : (s.completePhase b).ctr = (b.ctr + 1) % 2 ^ 32 := rfl
  simp only [Barrier.complete, Barrier.isLast, hctr, hd]
  decide

theorem not_complete_own {b : Barrier} {p : Nat} (h : b.ctr = p) : b.complete p = false := by
  have hd : (b.ctr + 2 ^ 32 - p % 2 ^ 32) % 2 ^ 32 = 0 := by omega
  simp only [Barrier.complete, hd]
  decide

theorem syncLive_arrives {s : State} {a : Agent} {i : Nat} (hk : ∀ x, s.keptAt a i = some x → x.1 = []) (op : Nat) (f : FmtS) (sl : Slot)
    (hop : op ≠ 0xB2) : s.syncLive a i op f sl =
      ((s.arrive a f (if op = 0xB0 && f.rop ≠ 0 then some (sl.tok .l) else none)).modWin a fun w =>
        { w with kept := w.kept.put i [wordTok (s.barrierOf a f).ctr] }).setSync a i (s.barrierOf a f).ctr 1 := by
  unfold State.syncLive
  rw [if_neg hop]
  split
  next t r fl hkept => exact absurd (hk _ hkept) (by simp)
  next => rfl

theorem fireSync_ready {s : State} {op : Nat} {f : FmtS} (hrep : s.awaiting.replays s.here.agent = false) (h : s.ready op (.s f) = true) :
    ∃ w sl, s.slotHere = some (w, sl) ∧
      fireSync s op f = .next ((s.awaiting.syncLive s.here.agent s.here.slot op f sl).syncTry s.here.agent s.here.slot) := by
  obtain ⟨w, sl, hsl, hfire⟩ := fireWith_ready (fun s a i sl =>
    let s := s.setSlot a i fun sl => { sl with st := .pending }
    (if s.replays a then s.setSync a i 0 0 else s.syncLive a i op f sl).syncTry a i) h
  refine ⟨w, sl, hsl, hfire.trans (congrArg Host.Outcome.next ?_)⟩
  change State.syncTry (if s.awaiting.replays s.here.agent = true then _ else _) _ _ = _
  rw [hrep]
  rfl

theorem fireSync_arrives {s : State} {op : Nat} {f : FmtS} (hrep : s.awaiting.replays s.here.agent = false)
    (hk : ∀ x, s.awaiting.keptAt s.here.agent s.here.slot = some x → x.1 = []) (hop : op ≠ 0xB2) (h : s.ready op (.s f) = true) :
    fireSync s op f = .next ((((s.awaiting.arrive s.here.agent f
      (if op = 0xB0 && f.rop ≠ 0 then some (s.operand .l) else none)).modWin s.here.agent fun w =>
        { w with kept := w.kept.put s.here.slot [wordTok (s.awaiting.barrierOf s.here.agent f).ctr] }).setSync s.here.agent s.here.slot
          (s.awaiting.barrierOf s.here.agent f).ctr 1).syncTry s.here.agent s.here.slot) := by
  obtain ⟨w, sl, hsl, hfire⟩ := fireSync_ready hrep h
  rw [hfire, syncLive_arrives hk _ _ _ hop, operand_eq hsl]

theorem fireSync_ticket {s : State} {f : FmtS} (hrep : s.awaiting.replays s.here.agent = false) (h : s.ready 0xB2 (.s f) = true) :
    fireSync s 0xB2 f = .next ((s.awaiting.setSync s.here.agent s.here.slot ((s.operand .l).w64 % 2 ^ 32) 1).syncTry
      s.here.agent s.here.slot) := by
  obtain ⟨w, sl, hsl, hfire⟩ := fireSync_ready hrep h
  rw [hfire, operand_eq hsl]
  rfl

/-- The state in which an instruction that waits has arrived and been marked. -/
def State.arrived (s : State) (f : FmtS) (v : Option Token) : State :=
  ((s.awaiting.arrive s.here.agent f v).modWin s.here.agent fun w =>
    { w with kept := w.kept.put s.here.slot [wordTok (s.awaiting.barrierOf s.here.agent f).ctr] }).setSync s.here.agent s.here.slot
      (s.awaiting.barrierOf s.here.agent f).ctr 1

theorem calm_arrived (s : State) (f : FmtS) (v : Option Token) : (s.arrived f v).calm = (s.awaiting.arrive s.here.agent f v).calm :=
  (calm_modWin ..).trans (calm_modWin ..)

theorem syncsAt_arrived {s : State} {op : Nat} {f : FmtS} {w : Win} (v : Option Token) (h : s.ready op (.s f) = true)
    (hw : s.win s.here.agent = some w) (hf : s.fieldsAt s.here.agent w.baddr s.here.slot = some (op, .s f)) :
    SyncsAt (s.arrived f v) s.here.agent s.here.slot op f (s.awaiting.barrierOf s.here.agent f).ctr := by
  obtain ⟨bs, hbs⟩ := arrive_eq s.awaiting s.here.agent f v
  refine syncsAt_of (fun w => { w with kept := w.kept.put s.here.slot [wordTok (s.awaiting.barrierOf s.here.agent f).ctr],
                                       ops := w.ops.put s.here.slot (.begun (s.awaiting.barrierOf s.here.agent f).ctr 1) })
    h hw hf ?_ ⟨bs, ?_⟩ fun _ => ⟨rfl, rfl, rfl, rfl⟩
  · rw [State.arrived, State.setSync, win_modWin_same, win_modWin_same, hbs, Option.map_map]
    rfl
  · rw [calm_arrived, hbs]

theorem barrierOf_arrived (s : State) (f : FmtS) (v : Option Token) :
    (s.arrived f v).barrierOf s.here.agent f = (s.awaiting.barrierOf s.here.agent f).arrive s.here.agent f v :=
  (barrierOf_of_calm (calm_arrived s f v) ..).trans (barrierOf_arrive ..)

theorem logs_arrived {s : State} (h : s.logs = []) (f : FmtS) (v : Option Token) : (s.arrived f v).logs = [] := by
  obtain ⟨bs, hbs⟩ := arrive_eq s.awaiting s.here.agent f v
  rw [State.arrived, State.setSync, modWin_logs, modWin_logs, hbs]
  exact logs_awaiting h

/-- Settles O22: the three instructions arrive or read their ticket and are judged once; a phase that completes judges each waiting
slot, and only the one that waited delivers. -/
theorem barriers : Obligations.Barriers := by
  refine ⟨fun s f hrep hk => ⟨fun h => ?barw, fun h => ?bara, fun h => ?bart⟩,
    fun s n b hb => ⟨⟨_, rfl⟩, ⟨rfl, rfl, rfl, fun hnone hothers => ?bare⟩, fun hless hag => ?less, fun hne hall hag => ?phase⟩,
    ?alone, fun s b a i f w sl hlog hbar his hctr hne hall hag hw hlen hsl hst hstop hact hop hf hrest => ?completes⟩
  case barw =>
    refine (fireSync_arrives hrep hk (by decide) h).trans ?_
    rw [barw_value]
    rfl
  case bara => exact fireSync_arrives hrep hk (by decide) h
  case bart => exact fireSync_ticket hrep h
  case bare =>
    have hvs : (b.arrivals.filterMap fun e => e.2.map fun t => (e.1, barLanes (barRop b.rop) (Ty.ofCode b.vty) t)) = [] :=
      List.filterMap_eq_nil_iff.2 fun e he => by simp [hnone e he]
    have hos : (b.others.all fun o => o.val.isNone) = true := List.all_eq_true.2 fun o ho => by simp [hothers o ho]
    simp [State.completePhase, hvs, hos]
  case less =>
    change execBarrierPhaseComplete n s = _
    simp [execBarrierPhaseComplete, hb, Nat.not_le.2 hless, hag]
  case phase =>
    change execBarrierPhaseComplete n s = _
    have hagents : ({ s with barriers := listModify s.barriers n s.completePhase } : State).agents = [] := hag
    simp [execBarrierPhaseComplete, hb, hne, hall, hagents]
  case alone =>
    intro s f w a i t b v mark hlog hw hk
    have hrep : s.awaiting.replays s.here.agent = false := replays_of_nolog (logs_awaiting hlog) _
    have hnone : ∀ x, s.awaiting.keptAt s.here.agent s.here.slot = some x → x.1 = [] := fun x hx => by
      rw [show s.awaiting.keptAt s.here.agent s.here.slot = none from hk] at hx
      cases hx
    refine ⟨fun h hf => ⟨?_, ?_⟩, fun h hf => ?_, fun h hf => ?_⟩
    · refine (fireSync_arrives hrep hnone (by decide) h).trans (congrArg Host.Outcome.next ?_)
      rw [barw_value]
      change (s.arrived f v).syncTry s.here.agent s.here.slot = s.arrived f v
      rw [syncTry_at (syncsAt_arrived v h hw hf) (by decide), State.syncCheck, barrierOf_arrived,
        not_complete_own (barrier_arrive ..).2.2.2.2.1]
      rfl
    · change ((s.awaiting.arrive s.here.agent f v).barrierOf s.here.agent f).arrivals = _
      rw [barrierOf_arrive]
      exact (barrier_arrive ..).2.2.2.2.2
    · refine (fireSync_arrives hrep hnone (by decide) h).trans (congrArg Host.Outcome.next ?_)
      change (s.arrived f none).syncTry s.here.agent s.here.slot = _
      rw [syncTry_at (syncsAt_arrived none h hw hf) (by decide)]
      exact syncSend_of_nolog (logs_arrived hlog f none) ..
    · intro p d r
      refine (fireSync_ticket hrep h).trans (congrArg Host.Outcome.next ?_)
      have hsync : SyncsAt r s.here.agent s.here.slot 0xB2 f p :=
        syncsAt_of (fun w => { w with ops := w.ops.put s.here.slot (.begun p 1) }) h hw hf (win_modWin_same ..)
          ⟨s.awaiting.barriers, calm_modWin ..⟩ fun _ => ⟨rfl, rfl, rfl, rfl⟩
      have hrlog : r.logs = [] := (modWin_logs ..).trans (logs_awaiting hlog)
      have hb : r.barrierOf s.here.agent f = b := barrierOf_of_calm (calm_modWin ..) ..
      have hbd : b.complete p = decide (1 ≤ d ∧ d ≤ 2 ^ 31) := by
        have hp : p % 2 ^ 32 = p := Nat.mod_mod _ _
        simp only [Barrier.complete, hp, Bool.decide_and]
        rfl
      change r.syncTry s.here.agent s.here.slot = _
      rw [syncTry_at hsync (by decide), State.syncCheck, hb, hbd, if_neg (by decide), if_neg (by decide), syncSend_of_nolog hrlog, syncSend_of_nolog hrlog]
      simp only [decide_eq_true_eq]
      rfl
  case completes =>
    intro c
    let u : State := { s with barriers := [c] }
    have hsync : SyncsAt u a i 0xB0 f b.ctr := ⟨⟨w, sl, hw, hsl, hst, hstop, hf, hop⟩, hact⟩
    have hci : u.barIs a f c = true := his
    have hbc : u.barrierOf a f = c := by simp [State.barrierOf, u, show ({ s with barriers := [c] } : State).barIs a f c = true from hci]
    obtain ⟨hcomplete, hlast⟩ := complete_next s b
    have hat : u.syncTry a i = u.synced a i 0xB0 f (wordTok (c.lastVal.getD 0)) c.lastFlags true := by
      rw [syncTry_at hsync (by decide), State.syncCheck, hbc]
      simp only [show c.complete b.ctr = true from hcomplete, show c.isLast b.ctr = true from hlast]
      exact syncSend_of_nolog (s := u) hlog ..
    have honly : ∀ w', u.win a = some w' → ∀ j y, w'.slots[j]? = some y → j ≠ i → y.st ≠ .pending := fun w' hw' j y hy hj => by
      cases hw.symm.trans hw'
      exact hrest j y hy hj
    have hother : ∀ j, j ≠ i → u.syncTry a j = u := fun j hj => by
      unfold State.syncTry
      split
      · rfl
      next w' hw' =>
        split
        next y op g p live hy _ _ => simp [honly w' hw' j y hy hj]
        · rfl
    have hi : i < 128 := Nat.lt_of_lt_of_le (List.getElem?_eq_some_iff.mp hsl).1 hlen
    have hfold := foldl_once (g := fun (s : State) j => s.syncTry a j) hother hat (syncTry_of_noneWaits (noneWaits_synced 0xB0 f _ _ true honly)) (List.range 128)
    rw [if_pos (List.mem_range.2 hi)] at hfold
    change execBarrierPhaseComplete 0 s = _
    have hagents : u.agents = [a] := hag
    simp only [execBarrierPhaseComplete, hbar, List.getElem?_cons_zero, hne, hall, ne_eq, not_false_eq_true, decide_true, Bool.and_self, if_true]
    change Host.Outcome.next (u.agents.foldl _ u) = _
    rw [hagents]
    exact congrArg Host.Outcome.next hfold

end Sys2Proof.Machine

/-! # Proofs: accesses, fences and prefetches; four statements that fail -/

namespace Sys2Proof.Machine

/-- The state in which an instruction of task 0 of cell 0 stands, as `State.placeWord` places it. -/
def standing (w : Nat) : State := { State.reset.placeWord w with here := { agent := .task 0 0 0, slot := 0 } }

/-- An access of the placed instruction's slot; `gone` when its RMW has left for another package. -/
def slotAccess (k : AKind) (us : List AUnit) : Access :=
  { id := 0, agent := .task 0 0 0, seq := 1, baddr := 0, log := false, wave := some 0, slot := 0, op := 0x80, kind := k, ty := .i64
    vec := false, sc := 3, ord := .rlx, loc := false, addr := 0, data := 0, exp := 0, committed := false, outs := [], units := us }

/-! ## An access of the slot that is still away -/

/-- LD of I32 at the scope die, an acquire, at offset 8. -/
def loadFmt : FmtM := ⟨.always, .i32, .scalar, 0, 0, 0, .die, .acq, false, 8, .slot 2 .l⟩

/-- The LD stands while an RMW of its slot's earlier attempt is on its way to another package. -/
def loadWhileAway : State :=
  { standing 0x80100000C8004208 with
    accs := [slotAccess .rmw [{ va := 0, size := 8, st := .pod 0 0, pa := 0, attr := attrPlain, val := 0, old := 0, via := none }]]
    nextAcc := 1 }

/-- The number of accesses after an outcome. -/
def accessesOf (o : Host.Outcome State Fault Refusal) : Nat := match o with | .next t => t.accs.length | _ => 0

/-- Refutes O16: an instruction whose access of an earlier attempt is still away at another package waits for that one and opens none, so
the access that the statement promises is not there. -/
theorem not_accessInstructions : ¬ Obligations.AccessInstructions := by
  intro ⟨hmem, _⟩
  obtain ⟨hld, -⟩ := hmem loadWhileAway loadFmt
  have hready : loadWhileAway.ready 0x80 (.m loadFmt) = true := by decide +kernel
  have hruns : accessesOf (exec (.ld loadFmt) loadWhileAway) = 1 := by decide +kernel
  rw [hld hready] at hruns
  exact absurd hruns (by decide +kernel)

/-! ## A prefetch that evicts a line -/

/-- PREF of the address in L. -/
def prefFmt : FmtM := ⟨.always, .i8, .scalar, 0, 0, 0, .die, .rlx, false, 0, .none⟩

/-- A full bank: 512 lines of the granule of VA 0 but its first, the oldest of them dirty in its first byte. -/
def fullBank : Table BankLine :=
  (1, { BankLine.fresh with data := 5, valid := 1, dirty := 1 }) :: (List.range 511).map fun k => (k + 2, BankLine.fresh)

/-- The PREF stands in a region that pins the granule of VA 0 in that bank. -/
def prefIntoFullBank : State :=
  let s := standing 0x92000000C0000000
  { s with regions := [(1, { placedRegion 0 with pins := [{ cell := 0, tile := 0, va := 0, pa := 3, attr := attrPlain }] })] }.modCell 0
    fun c => c.modTile 0 fun t => { t with lines := fullBank }

/-- Is memory as at reset after an outcome? -/
def memoryBlank (o : Host.Outcome State Fault Refusal) : Bool := match o with | .next t => t.mem == [] | _ => true

/-- Refutes O56: a PREF into a full bank evicts the bank's oldest line, and a dirty one is written back to memory when the PREF fires. -/
theorem not_firingFrame : ¬ Obligations.FiringFrame := by
  intro h
  have hwritten : memoryBlank (exec (.pref prefFmt) prefIntoFullBank) = false := by decide +kernel
  cases hexec : exec (.pref prefFmt) prefIntoFullBank with
  | next t =>
    obtain ⟨-, hmem, -⟩ := h prefIntoFullBank t (.pref prefFmt) 0x92 (.m prefFmt) rfl hexec
    have hsame : t.mem = [] := (hmem (by decide +kernel) (by decide +kernel)).1
    rw [hexec] at hwritten
    simp [memoryBlank, hsame] at hwritten
  | _ => rw [hexec] at hwritten; cases hwritten

/-! ## An answer whose fault is traced into another package -/

/-- LD of I64 for register 0. -/
def loadRegWord : Nat := 9230127439517058048

/-- A region whose trace writes EVENT records into a buffer on a page of another package. -/
def farTracedRegion : Region :=
  { placedRegion 0 with
    cfg := { phys := false, asid := 0, troot := word (4 * 2 ^ 59), dset := 0, keyid := 0, priv := true }
    trace := { (Region.fresh 0).trace with ctl := word (2 ^ 63 + 2 ^ 58), size := 4096 } }

/-- The LD stands there, register 0 has been delivered to, and the root table's first entry maps the first GiB to package 1. -/
def farTraced : State :=
  { standing loadRegWord with
    regions := [(1, farTracedRegion)], mem := memWrite [] 0 (leBytes (2 ^ 43 + 0x63) 8), podTable := [0, 1], readyBits := [2244]
    dies := [(0, { (standing loadRegWord).die 0 with chans := 1 })] }.modWin (.task 0 0 0) fun w => { w with regs := [(0, none)] }

/-- Refutes O17: the answer of the LD is a second delivery to register 0, the fault is traced, and the write of the record to another package
is an access under the next number, which the state may have given to the answered access itself. -/
theorem not_accessOpenedAndAnswered : ¬ Obligations.AccessOpenedAndAnswered := by
  intro ⟨_, hanswer⟩
  have hwin : (farTraced.win (.task 0 0 0)).isSome = true := by decide +kernel
  obtain ⟨w, hw⟩ := Option.isSome_iff_exists.1 hwin
  obtain ⟨hgone, -⟩ := hanswer farTraced (slotAccess .read []) (wordTok 0) 0 w hw (by decide +kernel)
  have hstays : ((farTraced.answer (slotAccess .read []) (wordTok 0) 0).accs.any fun y => y.id == 0) = true := by decide +kernel
  obtain ⟨y, hy, hid⟩ := List.any_eq_true.1 hstays
  exact hgone y hy (beq_iff_eq.1 hid)

/-! ## A prefetch that finds no translation -/

/-- The number of ports that hold a TLB after an outcome. -/
def portsOf (o : Host.Outcome State Fault Refusal) : Nat := match o with | .next t => t.ports.length | _ => 0

/-- Refutes O18: a PREF without a translation leaves the state that has fired, not the one that the translation leaves, which has touched
the TLB of the port. -/
theorem not_fenceAndPrefetch : ¬ Obligations.FenceAndPrefetch := by
  intro h
  have hready : (standing 0x92000000C0000000).ready 0x92 (.m prefFmt) = true := by decide +kernel
  obtain ⟨v, hexec, hv⟩ := (h (standing 0x92000000C0000000) prefFmt).2 hready
  have hmiss : ((standing 0x92000000C0000000).fired.translate (.task 0 0 0) accPref
      (memAddr prefFmt ((standing 0x92000000C0000000).operand .l)) true).1 = .bad 1 2 := by decide +kernel
  have hnohit : ∀ pa attr, ((standing 0x92000000C0000000).fired.translate (.task 0 0 0) accPref
      (memAddr prefFmt ((standing 0x92000000C0000000).operand .l)) true).1 ≠ .hit pa attr := fun pa attr hhit => by
    rw [hmiss] at hhit
    cases hhit
  have hports : portsOf (exec (.pref prefFmt) (standing 0x92000000C0000000)) = 0 := by decide +kernel
  rw [hexec, hv hnohit] at hports
  exact absurd hports (by decide +kernel)

end Sys2Proof.Machine

/-! # Proofs: firing of digit operators, the matrix unit and stream instructions -/

namespace Sys2Proof.Machine

/-! ## Stream instructions -/

theorem fireStream_ready {s : State} {op : Nat} {f : FmtT} (h : s.ready op (.t f) = true) :
    (∀ p, s.fired.strRecord s.here.agent op f = .ok p → fireStream s op f = .next (s.fired.setSlot s.here.agent s.here.slot fun sl =>
      { sl with st := .running, eng := .stream { StrEng.fresh p with ref := s.fired.genOf s.here.agent s.here.slot } })) ∧
    ∀ c, s.fired.strRecord s.here.agent op f = .error c →
      fireStream s op f = .next (s.fired.blockFault s.here.agent (some s.here.slot) 0x08 c 0) := by
  unfold fireStream
  exact ⟨fun p hp => fireWith_operands (fun _ _ _ => by simp only [hp]) h, fun c hc => fireWith_operands (fun _ _ _ => by simp only [hc]; rfl) h⟩

/-- What SBIND and SBAR leave with their command at the port. -/
theorem addCmd_eq (t : State) (a : Agent) (i : Nat) (f : FmtT) (c : StreamCmd) :
    (({ t with nextAcc := t.nextAcc + 1 } : State).addCmd (t.cmdPort a f) c).cmdSlot a i f =
      (let u := ({ t with nextAcc := t.nextAcc + 1 } : State).modPort (t.cmdPort a f) fun p =>
        if p.cmds.length < 16 ∧ p.waiting = [] then { p with cmds := p.cmds ++ [c] } else { p with waiting := p.waiting ++ [c] }
       if f.ta.isSlot then u.setSlot a i fun sl => { sl with st := .pending } else u) := by
  have hput : (fun p : Port => if p.cmds.length < 16 && p.waiting.isEmpty then { p with cmds := p.cmds ++ [c] }
      else { p with waiting := p.waiting ++ [c] }) = fun p : Port =>
      if p.cmds.length < 16 ∧ p.waiting = [] then { p with cmds := p.cmds ++ [c] } else { p with waiting := p.waiting ++ [c] } := by
    funext p
    simp only [Bool.and_eq_true, decide_eq_true_eq, List.isEmpty_iff]
  rw [State.cmdSlot, State.addCmd, hput]

/-- Settles O15. -/
theorem streamInstructions : Obligations.StreamInstructions := by
  refine ⟨fun s f => ⟨?_, ?_, ?_, ?_, ?_, ?_, ?_, ?_, fun op hlo hhi => ?record⟩, fun s f => ⟨fun h hidle => ?parked, fun h hidle p hp => ?bound,
    fun h hidle k hk => ?unbound, fun h => ?bar⟩⟩
  case record => simp [State.strRecord, hlo, hhi]
  case parked =>
    change execSbind f s = _
    refine fireWith_operands (fun w sl hsl => ?_) h
    rw [operand_eq hsl] at hidle ⊢
    simp only [addCmd_eq, hidle, if_true]
  case bound =>
    change execSbind f s = _
    refine fireWith_operands (fun w sl hsl => ?_) h
    rw [operand_eq hsl] at hidle ⊢
    simp only [addCmd_eq, hidle, hp, Bool.false_eq_true, if_false]
  case unbound =>
    change execSbind f s = _
    refine fireWith_operands (fun w sl hsl => ?_) h
    rw [operand_eq hsl] at hidle
    simp only [hidle, hk, Bool.false_eq_true, if_false]
    rfl
  case bar =>
    change execSbar f s = _
    refine fireWith_operands (fun w sl hsl => ?_) h
    exact addCmd_eq ..
  all_goals exact fun h => fireStream_ready h

/-! ## The matrix unit -/

theorem orKept_eq (s : State) (op : Nat) (f : Fmt) (go : State → State) :
    s.fired.orKept s.here.agent s.here.slot op f go = s.unlessKept op f (go s.fired) := by
  unfold State.orKept State.unlessKept
  cases s.fired.keptAt s.here.agent s.here.slot <;> rfl

/-- TLOAD's record is of rank 2, with at most 64 rows of 32 or 64 elements (R338). -/
theorem tload_shape (p : List Word) : (decide (pRank p ≠ 2) || decide (64 < pN0 p + 1) || (decide (pN1 p ≠ 31) && decide (pN1 p ≠ 63))) = true ↔
    ¬(pRank p = 2 ∧ pN0 p + 1 ≤ 64 ∧ (pN1 p + 1 = 32 ∨ pN1 p + 1 = 64)) := by
  simp only [Bool.or_eq_true, Bool.and_eq_true, decide_eq_true_eq]
  omega

/-- Settles O13. -/
theorem matrixInstructions : Obligations.MatrixInstructions := by
  refine ⟨fun s f => ⟨fun h => ?tswap, fun h => ?mmzero, fun h => ?mmout⟩, fun s f => ⟨fun h hk p hp => ?tload, fun h hk c hc => ?tloadBad,
    fun h hstop => ?mmrowStop, fun h hstop p hp => ?mmrow, fun h hstop c hc => ?mmrowBad⟩, fun s c => ⟨fun hl => ?noLoad, fun l hl hdown => ?down,
    fun l hl hacc hdown s1 n1 hq s2 n2 hq2 hneed hneed2 => ?complete⟩⟩
  case tswap =>
    change execTswap f s = _
    exact fireWith_operands (fun _ _ _ => orKept_eq ..) h
  case mmzero =>
    change execMmzero f s = _
    exact fireWith_operands (fun _ _ _ => orKept_eq ..) h
  case mmout =>
    change execMmout f s = _
    refine fireWith_operands (fun _ _ _ => ?_) h
    simp only [fieldN, Nat.shiftRight_eq_div_pow] <;> rfl
  case tload =>
    change execTload f s = _
    refine fireWith_operands (fun w sl hsl => ?_) h
    rw [operand_eq hsl]
    simp only [State.orKept, hk, hp, tload_shape, ite_not]
    rfl
  case tloadBad =>
    change execTload f s = _
    refine fireWith_operands (fun w sl hsl => ?_) h
    simp only [State.orKept, hk, hc]
    rfl
  case mmrowStop =>
    change execMmrow f s = _
    refine fireWith_operands (fun w sl hsl => ?_) h
    rw [operand_eq hsl] at hstop ⊢
    simp only [ne_eq, hstop, not_false_eq_true, if_true]
  case mmrow =>
    change execMmrow f s = _
    refine fireWith_operands (fun w sl hsl => ?_) h
    rw [operand_eq hsl] at hstop
    simp only [ne_eq, hstop, not_true_eq_false, if_false, hp, Option.isNone_iff_eq_none, Bool.and_eq_true, decide_eq_true_eq]
    rfl
  case mmrowBad =>
    change execMmrow f s = _
    refine fireWith_operands (fun w sl hsl => ?_) h
    rw [operand_eq hsl] at hstop
    simp only [ne_eq, hstop, not_true_eq_false, if_false, hc]
    rfl
  case noLoad =>
    change execTloadComplete c s = _
    simp only [execTloadComplete, hl]
  case down =>
    change execTloadComplete c s = _
    simp only [execTloadComplete, hl, hdown, if_true]
  case complete =>
    change execTloadComplete c s = _
    simp only [execTloadComplete, hl, hdown, hacc, Bool.false_eq_true, if_false, hq, ElemRes.settle, hq2, hneed, hneed2, List.append_nil,
      List.isEmpty_nil, Bool.not_true]

/-! ## Digit operators -/

/-- What a digit operator takes from a field when it fires (R289), as a step over its fields. -/
def takeDigit (a : Agent) (i op : Nat) (f : Fmt) (r : State × DigEng) (fd : Fld) : State × DigEng :=
  match r.1.win a with
  | none => r
  | some w =>
    match r.1.peekDigit a op f ((w.slots[i]?).getD .fresh) fd 0 none with
    | some y =>
      if notDigit y.tok || y.tok.isDigit then (r.1.blockFault a (some i) fcWmask bcKind 0, r.2)
      else (r.1.eatDigit a i op f ((w.slots[i]?).getD .fresh) fd 0 none,
        if y.tok.stop ≠ 0 then { r.2 with stop := y.tok.stop, endIn := [allLanes, 0, 0] }
        else { r.2 with heads := listSet r.2.heads fd.idx (some y.tok.payload), srcs := listSet r.2.srcs fd.idx y.src })
    | none => r

/-- A digit operator with its word operand that has taken no head. -/
def DigEng.opened (g : FmtG) (word : Option Token) : DigEng := { DigEng.fresh g.ta g.tb with word := word }

/-- A digit operator goes on from the state and the engine that taking its fields leaves. -/
def digitGoes (a : Agent) (i op : Nat) (g : FmtG) (r : State × DigEng) : State :=
  if (r.1.task a).fault.isSome then r.1 else
  let s := r.1.setSlot a i fun sl => { sl with st := .running }
  if (op = 0x5D || op = 0x5E) && r.2.stop = 0 then
    let hd := ((r.2.heads[0]?).getD none).getD 0
    let q := (s.setDig a i r.2).endIn a i op (.g g) r.2 .l (laneMask fun n => (headLane hd n).cls != 1) none
    q.1.setDig a i (if (q.2.endIn[0]?).getD 0 = allLanes then q.2.addGroup op g else q.2)
  else s.setDig a i r.2

theorem fireDigit_ready {s : State} {op : Nat} {g : FmtG} (wordFld : Option Fld) (h : s.ready op (.g g) = true) :
    fireDigit s op g wordFld = .next (digitGoes s.here.agent s.here.slot op g
      ((digitFields op (.g g)).foldl (takeDigit s.here.agent s.here.slot op (.g g)) (s.fired, .opened g (wordFld.map s.operand)))) := by
  unfold fireDigit
  refine fireWith_operands (fun w sl hsl => ?_) h
  have hword : wordFld.map s.operand = wordFld.map fun y => sl.tok y := congrArg wordFld.map (funext (operand_eq hsl))
  rw [hword]
  rfl

/-- Every operator offers the same from a field of its own as long as the field is as it was. -/
theorem peekDigit_own {s t : State} {sl sl' : Slot} {fd : Fld} (hl : fd ≠ .l) (hcyc : t.cycle = s.cycle) (hfld : sl'.fld fd = sl.fld fd)
    (a : Agent) (op : Nat) (f : Fmt) : t.peekDigit a op f sl' fd 0 none = s.peekDigit a op f sl fd 0 none := by
  have hne : (fd == Fld.l) = false := beq_eq_false_iff_ne.2 hl
  simp only [State.peekDigit, hne, hfld, hcyc, Bool.false_eq_true, if_false]

theorem fld_setFld_ne (sl : Slot) {fd z : Fld} (h : z ≠ fd) (v : FieldSt) : (sl.setFld fd v).fld z = sl.fld z := by
  cases fd <;> cases z <;> simp_all [Slot.setFld, Slot.fld]

theorem slots_setSlot {s : State} {a : Agent} {i : Nat} {w : Win} {sl : Slot} (hw : s.win a = some w) (hsl : w.slots[i]? = some sl)
    (g : Slot → Slot) : ∃ w', (s.setSlot a i g).win a = some w' ∧ w'.slots[i]? = some (g sl) := by
  refine ⟨_, (win_setSlot ..).trans (congrArg (Option.map _) hw), ?_⟩
  simp [getElem?_listModify, hsl]

theorem fault_setSlot (s : State) (a : Agent) (i : Nat) (g : Slot → Slot) : ((s.setSlot a i g).task a).fault = (s.task a).fault := by
  rw [State.setSlot, State.modWin, task_modTask_same]

theorem cycle_setSlot (s : State) (a : Agent) (i : Nat) (g : Slot → Slot) : (s.setSlot a i g).cycle = s.cycle := modWin_cycle ..

/-- Taking a token from a channel changes its cell alone. -/
theorem takeAs_keeps (s : State) (a : Agent) (j : Nat) (head : Bool) :
    (∀ b, (s.takeAs a j head).task b = s.task b) ∧ (s.takeAs a j head).cycle = s.cycle := by
  unfold State.takeAs
  cases a with
  | helm n => exact ⟨fun _ => rfl, rfl⟩
  | task d p t =>
    dsimp only
    split
    · exact ⟨fun _ => rfl, rfl⟩
    · refine ⟨fun b => task_modCell_of _ _ ?_ b, rfl⟩
      rfl

/-- A slot of an agent's window, as operations on the slot leave it: another state with the slot, the agent's fault and the cycle. -/
structure SlotKept (s : State) (a : Agent) (i : Nat) (sl : Slot) (t : State) : Prop where
  slot : ∃ w, t.win a = some w ∧ w.slots[i]? = some sl
  fault : (t.task a).fault = (s.task a).fault
  cycle : t.cycle = s.cycle

theorem slotKept_setSlot {s t : State} {a : Agent} {i : Nat} {sl : Slot} (h : SlotKept s a i sl t) (g : Slot → Slot) :
    SlotKept s a i (g sl) (t.setSlot a i g) := by
  obtain ⟨⟨w, hw, hsl⟩, hfault, hcyc⟩ := h
  exact ⟨slots_setSlot hw hsl g, (fault_setSlot ..).trans hfault, (cycle_setSlot ..).trans hcyc⟩

/-- Taking a head leaves the operator's slot, but for the field it stood in. -/
theorem eatDigit_head {s : State} {a : Agent} {i op : Nat} {f : Fmt} {w : Win} {sl : Slot} {fd : Fld} {y : Arrival}
    (hw : s.win a = some w) (hsl : w.slots[i]? = some sl) (hy : s.peekDigit a op f sl fd 0 none = some y) (hkind : y.isDigit = false) :
    ∃ sl', SlotKept s a i sl' (s.eatDigit a i op f sl fd 0 none) ∧ ∀ z, z ≠ fd → sl'.fld z = sl.fld z := by
  have hself : SlotKept s a i sl s := ⟨⟨w, hw, hsl⟩, rfl, rfl⟩
  have hlong : sl.tooLong 0 y = false := by simp [Slot.tooLong, hkind]
  unfold State.eatDigit
  cases hchl : (if fd == .l then chlOf op f else none) with
  | none => exact ⟨_, slotKept_setSlot hself _, fun z hz => fld_setFld_ne sl hz _⟩
  | some j =>
    have hfd : fd = .l := by
      refine Classical.byContradiction fun hne => ?_
      rw [beq_eq_false_iff_ne.2 hne] at hchl
      cases hchl
    subst hfd
    simp only [State.peekDigit, hchl, Option.isNone_none, if_true] at hy ⊢
    cases hq : sl.l.q[0]? with
    | some z =>
      simp only [hq] at hy ⊢
      split at hy
      · cases hy
        exact ⟨sl, by rw [if_neg (by rw [hlong]; simp)]; exact hself, fun _ _ => rfl⟩
      · cases hy
    | none =>
      simp only [hq] at hy ⊢
      cases hc : s.chanTok a j with
      | none => simp [hc] at hy
      | some z =>
        simp only [hc] at hy ⊢
        split at hy
        · cases hy
          obtain ⟨htask, hcyc⟩ := takeAs_keeps s a j (match s.chanTok a j with | some y => y.tok.kind == .head && y.tok.stop == 0 | none => false)
          have htake : SlotKept s a i sl (s.takeHead a j) :=
            ⟨⟨w, (congrArg TaskCtx.win (htask a)).trans hw, hsl⟩, congrArg TaskCtx.fault (htask a), hcyc⟩
          refine ⟨_, by rw [if_neg (by rw [hlong]; simp)]; exact slotKept_setSlot htake _, fun z hz => ?_⟩
          exact fld_setFld_ne sl hz _
        · cases hy

theorem getElem?_listSet {α : Type} (l : List α) (i j : Nat) (v : α) :
    (listSet l i v)[j]? = if i = j ∧ i < l.length then some v else l[j]? := by
  induction l generalizing i j with
  | nil => simp [listSet]
  | cons x r ih =>
    cases i with
    | zero => cases j <;> simp [listSet]
    | succ i => cases j <;> simp [listSet, ih]

theorem length_listSet {α : Type} (l : List α) (i : Nat) (v : α) : (listSet l i v).length = l.length := by
  induction l generalizing i with
  | nil => rfl
  | cons y r ih => cases i <;> simp [listSet, ih]

/-- Taking a head from a field adds it to the heads of the operator. -/
theorem takeDigit_head {u : State} {e : DigEng} {a : Agent} {i op : Nat} {f : Fmt} {w : Win} {sl : Slot} {fd : Fld} {y : Arrival}
    (hw : u.win a = some w) (hsl : w.slots[i]? = some sl) (hy : u.peekDigit a op f sl fd 0 none = some y)
    (hhead : y.tok.kind = .head) (hstop : y.tok.stop = 0) :
    takeDigit a i op f (u, e) fd = (u.eatDigit a i op f sl fd 0 none,
      { e with heads := listSet e.heads fd.idx (some y.tok.payload), srcs := listSet e.srcs fd.idx y.src }) := by
  have hkind : (notDigit y.tok || y.tok.isDigit) = false := by simp [notDigit, Token.isDigit, hhead, hstop]
  simp only [takeDigit, hw, hsl, Option.getD_some, hy, hkind, Bool.false_eq_true, if_false, hstop, ne_eq, not_true_eq_false]

/-- The fields of an operator in the order in which it takes them: each but the first is a field of its own. -/
theorem digitFields_pairwise (op : Nat) (f : Fmt) : (digitFields op f).Pairwise fun k z => k.idx ≠ z.idx ∧ z ≠ k ∧ z ≠ .l := by
  unfold digitFields
  split
  · exact List.pairwise_singleton ..
  · exact List.Pairwise.filter _ (by decide)

/-- Taking a head from every field: the slot stays, and the operator holds each head by its field. -/
theorem takeDigits_heads {a : Agent} {i op : Nat} {f : Fmt} (fs : List Fld) (u : State) (e : DigEng) (sl : Slot)
    (hfs : fs.Pairwise fun k z => k.idx ≠ z.idx ∧ z ≠ k ∧ z ≠ .l) (hu : SlotKept u a i sl u)
    (hoffer : ∀ k ∈ fs, ∃ y, u.peekDigit a op f sl k 0 none = some y ∧ y.tok.kind = .head ∧ y.tok.stop = 0) (hlen : e.heads.length = 3) :
    let r := fs.foldl (takeDigit a i op f) (u, e)
    (∃ sl', SlotKept u a i sl' r.1) ∧ r.2.word = e.word ∧ r.2.stop = e.stop ∧
    (∀ n, (∀ k ∈ fs, k.idx ≠ n) → r.2.heads[n]? = e.heads[n]?) ∧
    ∀ k ∈ fs, ∀ y, u.peekDigit a op f sl k 0 none = some y → r.2.heads[k.idx]? = some (some y.tok.payload) := by
  induction fs generalizing u e sl with
  | nil => exact ⟨⟨sl, hu⟩, rfl, rfl, fun _ _ => rfl, fun k hx => absurd hx (List.not_mem_nil)⟩
  | cons fd r ih =>
    obtain ⟨hfirst, hrest⟩ := List.pairwise_cons.1 hfs
    obtain ⟨y, hy, hhead, hstop⟩ := hoffer fd List.mem_cons_self
    obtain ⟨⟨w, hw, hsl⟩, -, -⟩ := hu
    obtain ⟨sl', hkept, hflds⟩ := eatDigit_head (f := f) (op := op) hw hsl hy (by simp [Arrival.isDigit, Token.isDigit, hhead])
    have hsame : ∀ k ∈ r, (u.eatDigit a i op f sl fd 0 none).peekDigit a op f sl' k 0 none = u.peekDigit a op f sl k 0 none := fun k hx =>
      peekDigit_own (hfirst k hx).2.2 hkept.cycle (hflds k (hfirst k hx).2.1) a op f
    obtain ⟨⟨sl2, h2⟩, hword, hstop2, hother, hheads⟩ := ih (u.eatDigit a i op f sl fd 0 none)
      { e with heads := listSet e.heads fd.idx (some y.tok.payload), srcs := listSet e.srcs fd.idx y.src } sl' hrest
      ⟨hkept.slot, rfl, rfl⟩ (fun k hx => by rw [hsame k hx]; exact hoffer k (List.mem_cons_of_mem _ hx))
      ((length_listSet ..).trans hlen)
    rw [List.foldl_cons, takeDigit_head hw hsl hy hhead hstop]
    refine ⟨⟨sl2, h2.slot, h2.fault.trans hkept.fault, h2.cycle.trans hkept.cycle⟩, hword, hstop2, fun n hn => ?_, fun k hx z hz => ?_⟩
    · rw [hother n fun k hx => hn k (List.mem_cons_of_mem _ hx)]
      simp [getElem?_listSet, hn fd List.mem_cons_self]
    · rcases List.mem_cons.1 hx with rfl | hx
      · rw [hother _ fun z hz => (hfirst z hz).1.symm]
        rw [hz] at hy
        cases hy
        have hidx : k.idx < 3 := by cases k <;> decide
        simp [getElem?_listSet, hlen, hidx]
      · exact hheads k hx z (by rw [hsame k hx, hz])

/-! ## Ending lanes of an input -/

/-- Ending lanes of an input sends messages and keeps the operator's word operand. -/
theorem endIn_keeps (s : State) (a : Agent) (i op : Nat) (f : Fmt) (e : DigEng) (fd : Fld) (lanes : Nat) (kg : Option Nat) :
    (∀ b, (s.endIn a i op f e fd lanes kg).1.task b = s.task b) ∧ (s.endIn a i op f e fd lanes kg).2.word = e.word := by
  have hhead : ∀ c lanes kg hd b, (s.endHead a c lanes kg hd).task b = s.task b := fun c lanes kg hd b => by
    unfold State.endHead
    split <;> rfl
  have hsend : ∀ src pos lanes b, (s.sendEnd a i op f fd src pos lanes kg).task b = s.task b := fun src pos lanes b => by
    unfold State.sendEnd
    split
    · split <;> rfl
    · split
      · exact hhead ..
      · rfl
  unfold State.endIn
  dsimp only
  split
  · exact ⟨fun _ => rfl, rfl⟩
  · exact ⟨fun b => hsend .., rfl⟩

theorem word_addGroup (e : DigEng) (op : Nat) (g : FmtG) : (e.addGroup op g).word = e.word := by
  unfold DigEng.addGroup
  dsimp only
  split
  · rfl
  split
  · rfl
  split <;> rfl

/-- An operator that has taken its heads runs in its slot. -/
theorem digitGoes_runs {u : State} {a : Agent} {i op : Nat} {g : FmtG} {e : DigEng} {sl : Slot} (hu : SlotKept u a i sl u)
    (hfault : (u.task a).fault = none) :
    ∃ w sl' e', (digitGoes a i op g (u, e)).win a = some w ∧ w.slots[i]? = some sl' ∧ sl'.st = .running ∧ sl'.eng = .digit e' ∧
      e'.word = e.word ∧ (op ≠ 0x5D → op ≠ 0x5E → e'.heads = e.heads) := by
  have hrun := slotKept_setSlot hu fun sl => { sl with st := .running }
  have hset : ∀ (v : State) (sl : Slot) (e' : DigEng), SlotKept u a i sl v → sl.st = .running →
      ∃ w sl', (v.setDig a i e').win a = some w ∧ w.slots[i]? = some sl' ∧ sl'.st = .running ∧ sl'.eng = .digit e' := fun v sl e' hv hst => by
    obtain ⟨⟨w, hw, hsl⟩, -, -⟩ := slotKept_setSlot hv fun sl => { sl with eng := .digit e' }
    exact ⟨w, _, hw, hsl, hst, rfl⟩
  unfold digitGoes
  rw [if_neg (by simp [hfault])]
  dsimp only
  split
  next hacc =>
    have hdig := slotKept_setSlot hrun fun sl => { sl with eng := .digit e }
    obtain ⟨htask, hword⟩ := endIn_keeps ((u.setSlot a i fun sl => { sl with st := .running }).setDig a i e) a i op (.g g) e .l
      (laneMask fun n => (headLane (((e.heads[0]?).getD none).getD 0) n).cls != 1) none
    generalize State.endIn _ a i op (.g g) e .l _ none = q at htask hword
    obtain ⟨⟨w0, hw0, hsl0⟩, -, -⟩ := hdig
    have hwin : q.1.win a = some w0 := (congrArg TaskCtx.win (htask a)).trans hw0
    obtain ⟨w, hw, hsl⟩ := slots_setSlot hwin hsl0 fun sl => { sl with eng := .digit (if (q.2.endIn[0]?).getD 0 = allLanes then q.2.addGroup op g else q.2) }
    refine ⟨w, _, _, hw, hsl, rfl, rfl, ?_, fun h1 h2 => ?_⟩
    · split
      · exact (word_addGroup ..).trans hword
      · exact hword
    · simp [h1, h2] at hacc
  next =>
    obtain ⟨w, sl', hw, hsl, hst, heng⟩ := hset _ _ e hrun rfl
    exact ⟨w, sl', e, hw, hsl, hst, heng, rfl, fun _ _ => rfl⟩

/-! ## The obligation -/

theorem offersDigit_eq {s : State} {w : Win} {sl : Slot} (h : s.slotHere = some (w, sl)) (op : Nat) (f : Fmt) :
    ∃ sl', SlotKept s.fired s.here.agent s.here.slot sl' s.fired ∧
      ∀ fd, s.offersDigit op f fd = s.fired.peekDigit s.here.agent op f sl' fd 0 none := by
  obtain ⟨w', sl', hw', hsl', -⟩ := slotHere_fired h
  have hhere : s.fired.here = s.here := congrArg (fun c : Calm => c.rest.here) (calm_fired s)
  refine ⟨sl', ⟨⟨w', hw', hsl'⟩, rfl, rfl⟩, fun fd => ?_⟩
  simp [State.offersDigit, State.slotHere, hhere, hw', hsl']

/-- Every digit operator fires by `fireDigit`. -/
theorem fires_of_fireDigit {s : State} {op : Nat} {g : FmtG} {i : Instr} {wordFld : Option Fld} (hexec : exec i s = fireDigit s op g wordFld) :
    s.fires op g i wordFld := by
  intro h hnofault
  obtain ⟨w, sl, hsl, hw, -, hact⟩ := ready_pending h
  obtain ⟨sl', hkept, hoffers⟩ := offersDigit_eq hsl op (.g g)
  rw [hexec, fireDigit_ready wordFld h]
  refine ⟨fun hheads => ?heads, fun fd y hfd hy hbad => ?kind⟩
  case heads =>
    simp only [hoffers] at hheads ⊢
    obtain ⟨⟨sl2, h2⟩, hword, hstop, -, hhead⟩ := takeDigits_heads (digitFields op (.g g)) s.fired (.opened g (wordFld.map s.operand)) sl'
      (digitFields_pairwise op (.g g)) hkept hheads rfl
    obtain ⟨w2, sl3, e, hw2, hsl3, hst, heng, hword2, hheads2⟩ := digitGoes_runs (op := op) (g := g) ⟨h2.slot, rfl, rfl⟩ (h2.fault.trans hnofault)
    refine ⟨_, w2, sl3, e, rfl, hw2, hsl3, hst, heng, hword2.trans hword, fun h1 h3 fd hfd y hy => ?_⟩
    rw [hheads2 h1 h3]
    exact hhead fd hfd y hy
  case kind =>
    rw [hoffers] at hy
    obtain ⟨⟨w1, hw1, hsl1⟩, -, -⟩ := hkept
    have hact1 : (s.fired.task s.here.agent).st = .active := ((congrArg TaskCtx.st (task_of_calm (calm_fired s) s.here.agent) :)).trans hact
    have htake : takeDigit s.here.agent s.here.slot op (.g g) (s.fired, .opened g (wordFld.map s.operand)) fd =
        (s.fired.blockFault s.here.agent (some s.here.slot) fcWmask bcKind 0, .opened g (wordFld.map s.operand)) := by
      have hb : (notDigit y.tok || y.tok.isDigit) = true := by simpa using hbad
      simp only [takeDigit, hw1, hsl1, Option.getD_some, hy, hb, if_true]
    have hfault : ((s.fired.blockFault s.here.agent (some s.here.slot) fcWmask bcKind 0).task s.here.agent).fault =
        some (s.fired.faultOf s.here.agent (some s.here.slot) fcWmask bcKind 0) := by
      unfold State.blockFault
      rw [if_pos (by simp [hact1]), (memOp_traceEvent ..).task, task_takeFault]
      rfl
    rw [hfd, List.foldl_cons, List.foldl_nil, htake, digitGoes, if_pos (by rw [hfault]; rfl)]
    exact ⟨_, _, rfl, hfault, rfl, rfl⟩

/-- Settles O12. -/
theorem digitOperatorsFire : Obligations.DigitOperatorsFire := by
  intro s f
  refine ⟨?_, ?_, ?_, ?_, ?_, ?_, ?_, ?_, ?_, ?_, ?_, ?_, ?_, ?_, ?_, ?_⟩
  all_goals exact fires_of_fireDigit rfl

end Sys2Proof.Machine

/-! # Proofs: the commit of a block -/

namespace Sys2Proof.Machine

/-! ## The block that follows -/

/-- A block that becomes the firing block: its slots empty, the next number, and a task that runs. -/
theorem startBlock_task (s : State) (a : Agent) (b : Nat) : ∃ w, w.baddr = b ∧ (∀ sl ∈ w.slots, sl = Slot.fresh) ∧
    (s.startBlock a b).task a = { s.task a with st := .active, win := some w, succ := none, after := none } := by
  cases a with
  | task d p k =>
    obtain ⟨w, hb, -, hfresh, htask⟩ := task_startBlock_fresh s d p k b
    exact ⟨w, hb, hfresh, htask⟩
  | helm n =>
    let u := s.modHelm n fun h => { h with seq := (s.helm n).seq + 1 }
    refine ⟨u.openWin (.helm n) b ((s.helm n).seq + 1), rfl, fun sl h => List.eq_of_mem_replicate h, ?_⟩
    change (u.modTask (.helm n) _).task (.helm n) = _
    rw [task_modTask_same, task_modHelm_of (f := fun h => { h with seq := (s.helm n).seq + 1 }) s n rfl]

/-! ## What the exit leaves -/

/-- A change of a helm core that keeps its task. -/
theorem task_stopHelm (s : State) (n : Nat) (b : Agent) :
    ({ s.modHelm n (fun h => { h with ready := false }) with
        readyBits := setDel (s.modHelm n fun h => { h with ready := false }).readyBits (2277 + n) } : State).task b = s.task b :=
  task_modHelm_of (f := fun h => { h with ready := false }) s n rfl b

theorem trapTask_task (s : State) (a : Agent) (f : FaultRec) (next : Nat) : (s.trapTask a f next).task a =
    { s.task a with st := .halted, win := none, succ := none, after := some next, fault := some f } := by
  cases a with
  | task d p k => rw [State.trapTask, (memOp_traceEvent ..).task, task_report, task_modTask_same]
  | helm n => exact (task_stopHelm ..).trans (task_modTask_same ..)

theorem joinWaypoint_task (s : State) (a : Agent) (ln next : Nat) : (s.joinWaypoint a ln next).task a =
    { s.task a with st := .active, win := none, succ := none, after := some next } := by
  unfold State.joinWaypoint
  dsimp only
  split
  · exact task_modTask_same ..
  next l _ =>
    have hlog : ∀ u : State, (u.modLog ln fun l => { l with wayWait := l.wayWait ++ [a] }).task a = u.task a := fun u => (memOp_modLog ..).task a
    split
    · refine (foldl_view (fun u : State => u.task a) (fun u k => task_modRegion ..) _ _).trans ((hlog _).trans (task_modTask_same ..))
    · exact (hlog _).trans (task_modTask_same ..)

/-- What an exit keeps of its task: its registers, its flags, and unless it is HALT the depth of its window. -/
structure TaskCtx.Kept (t u : TaskCtx) : Prop where
  regs : u.regs = t.regs
  vregs : u.vregs = t.vregs
  depth : u.depth = t.depth
  fflags : u.fflags = t.fflags

/-- HALT ends its task. -/
theorem takeEffect_halt (s : State) (a : Agent) {e : ExitRec} (f : FaultRec) (h : e.op = 0xA7) : (s.takeEffect a e f).task a =
    { s.task a with st := .idle, win := none, succ := none, after := none, depth := 0, spilled := 0 } := by
  unfold State.takeEffect
  rw [if_pos h, task_modTask_same]

theorem takeEffect_kept (s : State) (a : Agent) {e : ExitRec} (f : FaultRec) (h : e.op ≠ 0xA7) :
    TaskCtx.Kept (s.task a) ((s.takeEffect a e f).task a) := by
  have hstart : ∀ u : State, u.task a = s.task a → TaskCtx.Kept (s.task a) ((u.startBlock a e.next).task a) := fun u hu => by
    obtain ⟨w, -, -, htask⟩ := startBlock_task u a e.next
    rw [htask, hu]
    exact ⟨rfl, rfl, rfl, rfl⟩
  unfold State.takeEffect
  rw [if_neg h]
  split
  · rw [trapTask_task]
    exact ⟨rfl, rfl, rfl, rfl⟩
  split
  · rw [joinWaypoint_task]
    exact ⟨rfl, rfl, rfl, rfl⟩
  split
  · refine hstart _ ?_
    cases a with
    | task d p t =>
      refine task_modCell_of _ _ ?_ _
      rfl
    | helm n => exact task_modHelm_of (f := fun h => { h with run := max h.run 64 }) s n rfl _
  · exact hstart s rfl

/-- BR goes on with the block it names. -/
theorem takeEffect_branch (s : State) (a : Agent) {e : ExitRec} (f : FaultRec) (h : e.op = 0xA0) :
    ∃ w, ((s.takeEffect a e f).task a).win = some w ∧ w.baddr = e.next ∧ ∀ sl ∈ w.slots, sl = Slot.fresh := by
  obtain ⟨w, hb, hfresh, htask⟩ := startBlock_task s a e.next
  refine ⟨w, ?_, hb, hfresh⟩
  simp [State.takeEffect, h, htask]

/-! ## What comes before the exit -/

theorem localWrite_task (s : State) (a b : Agent) (addr : Nat) (bs : List Byte) : (s.localWrite a addr bs).task b = s.task b := by
  induction bs generalizing s addr with
  | nil => rfl
  | cons x r ih =>
    rw [State.localWrite, ih]
    cases a with
    | helm n => exact task_modHelm_of (f := fun h => { h with scratch := memPut h.scratch addr x }) s n rfl b
    | task d p t =>
      refine task_modCell_of _ _ ?_ _
      rfl

theorem localClean_task (s : State) (a b : Agent) (addr n : Nat) : (s.localClean a addr n).task b = s.task b := by
  cases a with
  | helm n => rfl
  | task d p t =>
    refine task_modCell_of _ _ ?_ _
    rfl

theorem fflags_windowCall (s : State) (a : Agent) : ((s.windowCall a).task a).fflags = (s.task a).fflags := by
  unfold State.windowCall
  dsimp only
  rw [task_modTask_same]
  split
  · rw [task_modTask_same, localClean_task, localWrite_task]
  · rfl

theorem fflags_putGroup (t : TaskCtx) (d : Nat) (bs : List Byte) : (t.putGroup d bs).fflags = t.fflags := by
  unfold TaskCtx.putGroup
  generalize List.range 16 = l
  induction l generalizing t with
  | nil => rfl
  | cons i r ih => exact ih _

theorem fflags_windowRet (s : State) (a : Agent) : ((s.windowRet a).task a).fflags = (s.task a).fflags := by
  unfold State.windowRet
  dsimp only
  split
  · rw [task_modTask_same]
    dsimp only
    rw [fflags_putGroup]
  · rw [task_modTask_same]

theorem task_latchPut (s : State) (key lk : Nat) (tok : Token) (b : Agent) : (s.latchPut key lk tok).task b = s.task b :=
  task_modCell_of (f := fun c => c.latchPut lk tok s.cycle) s key rfl b

theorem task_freeColour (s : State) (k col : Nat) (b : Agent) : (s.freeColour k col).task b = s.task b := task_modRegion ..

/-- The tokens that leave change no task. -/
theorem sendOuts_task (s : State) (a b : Agent) (w : Win) (l : List OutTok) : (s.sendOuts a w l).task b = s.task b := by
  cases a with
  | helm n => rfl
  | task d p k =>
    unfold State.sendOuts
    dsimp only
    have hnow : ∀ (go : State → OutTok → State), (∀ u o, (go u o).task b = u.task b) → ∀ now : List OutTok, ∀ x : Option Access,
        (match x with
          | some x => s.modAcc x.id fun x => { x with outs := x.outs ++ now }
          | none => now.foldl go s).task b = s.task b := fun go hgo now x => by
      cases x with
      | some x => rfl
      | none => exact foldl_view (fun u : State => u.task b) hgo now s
    have hlater : ∀ (u : State), u.task b = s.task b → ∀ later : List OutTok, ∀ x : Option Access,
        (match x with
          | some x => u.modAcc x.id fun x => { x with outs := x.outs ++ later }
          | none => u).task b = s.task b := fun u hu later x => by cases x <;> exact hu
    refine hlater _ (hnow _ (fun u o => ?_) _ _) _ _
    split
    · split
      · rw [task_freeColour, task_latchPut]
      · rw [task_latchPut]
    · rfl

/-! ## The registers of a block (R240) -/

/-- What a register holds once a payload was written to it: a scalar its low 64 bits. -/
def regHeld (n : Nat) (v : Payload) : Payload := if n < 32 then (v.setWidth 64).setWidth 2048 else v

/-- A task context with the deliveries of a block. -/
def TaskCtx.deliver (t : TaskCtx) (l : Table (Option Payload)) : TaskCtx :=
  l.foldl (fun t r => match r.2 with | some v => t.writeReg r.1 v | none => t) t

/-- The state with the deliveries of a block. -/
def State.deliver (s : State) (a : Agent) (l : Table (Option Payload)) : State :=
  l.foldl (fun s r => match r.2 with | some v => s.modTask a fun t => t.writeReg r.1 v | none => s) s

theorem deliver_task (s : State) (a : Agent) (l : Table (Option Payload)) : (s.deliver a l).task a = (s.task a).deliver l := by
  unfold State.deliver TaskCtx.deliver
  induction l generalizing s with
  | nil => rfl
  | cons r l ih =>
    rw [List.foldl_cons, List.foldl_cons, ih]
    obtain ⟨n, v⟩ := r
    cases v with
    | none => rfl
    | some v => exact congrArg (fun t => List.foldl _ t l) (task_modTask_same ..)

theorem depth_writeReg (t : TaskCtx) (n : Nat) (v : Payload) : (t.writeReg n v).depth = t.depth := by
  unfold TaskCtx.writeReg; split <;> rfl

theorem fflags_writeReg (t : TaskCtx) (n : Nat) (v : Payload) : (t.writeReg n v).fflags = t.fflags := by
  unfold TaskCtx.writeReg; split <;> rfl

theorem fflags_deliver (t : TaskCtx) (l : Table (Option Payload)) : (t.deliver l).fflags = t.fflags := by
  unfold TaskCtx.deliver
  induction l generalizing t with
  | nil => rfl
  | cons r l ih =>
    rw [List.foldl_cons, ih]
    obtain ⟨n, v⟩ := r
    cases v with
    | none => rfl
    | some v => exact fflags_writeReg ..

/-- Different scalars of a window lie in different places, all of them among the 128. -/
theorem physReg_inj {depth m n : Nat} (hm : m < 32) (hn : n < 32) (h : physReg depth m = physReg depth n) : m = n := by
  unfold physReg at h; omega

theorem physReg_lt (depth n : Nat) : physReg depth n < 128 := by unfold physReg; omega

theorem getP_setP (t : TaskCtx) {m n : Nat} (hn : n < 128) (v : Word) : (t.setP m v).getP n = if m = n then v else t.getP n := by
  simp [TaskCtx.getP, TaskCtx.setP, hn, Vector.getElem_setIfInBounds]

theorem getV_setV (t : TaskCtx) {m n : Nat} (hn : n < 8) (v : Payload) : (t.setV m v).getV n = if m = n then v else t.getV n := by
  simp [TaskCtx.getV, TaskCtx.setV, hn, Vector.getElem_setIfInBounds]

/-- A register reads what was written to it, and another one what it held. -/
theorem readReg_writeReg (t : TaskCtx) {m n : Nat} (hn : n < 40) (v : Payload) :
    (t.writeReg m v).readReg n = if m = n then regHeld n v else t.readReg n := by
  unfold TaskCtx.writeReg TaskCtx.readReg regHeld
  by_cases hm : m < 32 <;> by_cases hn' : n < 32
  · have hphys : physReg t.depth m = physReg t.depth n ↔ m = n := ⟨physReg_inj hm hn', fun h => h ▸ rfl⟩
    have hs : (t.setS m (v.setWidth 64)).getS n = if m = n then v.setWidth 64 else t.getS n := by
      exact (getP_setP t (physReg_lt t.depth n) (v.setWidth 64)).trans (by simp only [hphys, TaskCtx.getS])
    simp only [hm, hn', if_true, hs]
    split <;> rfl
  · have hmn : m ≠ n := by omega
    simp only [hm, hn', hmn, if_true, if_false]
    rfl
  · have hmn : m ≠ n := by omega
    simp only [hm, hn', hmn, if_true, if_false]
    rfl
  · have hidx : m - 32 = n - 32 ↔ m = n := by omega
    simp only [hm, hn', if_false, getV_setV t (by omega : n - 32 < 8), hidx]

theorem find_eq_none {α : Type} {l : Table α} {n : Nat} (h : n ∉ l.map (·.1)) : l.find n = none := by
  induction l with
  | nil => rfl
  | cons r l ih =>
    obtain ⟨hr, hl⟩ := List.ne_and_not_mem_of_not_mem_cons h
    exact (if_neg hr.symm).trans (ih hl)

/-- A register that received a value holds it, and another one what it held. -/
theorem readReg_deliver (t : TaskCtx) {l : Table (Option Payload)} (hl : (l.map (·.1)).Nodup) {n : Nat} (hn : n < 40) :
    (t.deliver l).readReg n = match l.find n with | some (some v) => regHeld n v | _ => t.readReg n := by
  unfold TaskCtx.deliver
  induction l generalizing t with
  | nil => rfl
  | cons r l ih =>
    obtain ⟨m, v⟩ := r
    obtain ⟨hm, hl⟩ := List.nodup_cons.1 hl
    rw [List.foldl_cons, ih _ hl, Table.find]
    by_cases hmn : m = n
    · subst hmn
      rw [if_pos rfl, find_eq_none hm]
      cases v with
      | none => rfl
      | some v => exact (readReg_writeReg t hn v).trans (if_pos rfl)
    · have hkeep : ∀ v, (t.writeReg m v).readReg n = t.readReg n := fun v => (readReg_writeReg t hn v).trans (if_neg hmn)
      rw [if_neg hmn]
      cases v with
      | none => rfl
      | some v => simp only [hkeep]

/-! ## The block before its exit -/

/-- A block's registers, window and channel tokens have taken effect. -/
def State.beforeExit (s : State) (a : Agent) (w : Win) (e : ExitRec) : State :=
  let outs := sortOuts w.outs
  let u := s.deliver a w.regs
  let u := if e.op = 0xA2 || e.op = 0xA3 then u.windowCall a else if e.op = 0xA4 then u.windowRet a else u
  ((u.freeStores a w.seq).sendOuts a w (if s.returns a w then outs.map ((u.freeStores a w.seq).returnTok a w (s.task a).color) else outs)).modTask a
    fun t => { t with fired := match a with | .task .. => (t.fired + w.count) % 2 ^ 64 | .helm _ => t.fired }

theorem commitBlock_eq (s : State) (a : Agent) (w : Win) (e : ExitRec) :
    s.commitBlock a w e = ((s.beforeExit a w e).takeEffect a e (s.faultOf a (some e.slot) fcTrap e.code 0)).moved (s.regionOf a) := by
  unfold State.commitBlock State.beforeExit State.deliver
  rfl

theorem task_commitBlock (s : State) (a : Agent) (w : Win) (e : ExitRec) : (s.commitBlock a w e).task a =
    ((s.beforeExit a w e).takeEffect a e (s.faultOf a (some e.slot) fcTrap e.code 0)).task a := by
  rw [commitBlock_eq]
  exact task_modRegion ..

theorem task_beforeExit (s : State) (a : Agent) (w : Win) (e : ExitRec) :
    let t := (if e.op = 0xA2 || e.op = 0xA3 then (s.deliver a w.regs).windowCall a
      else if e.op = 0xA4 then (s.deliver a w.regs).windowRet a else s.deliver a w.regs).task a
    (s.beforeExit a w e).task a = { t with fired := match a with | .task .. => (t.fired + w.count) % 2 ^ 64 | .helm _ => t.fired } := by
  intro t
  unfold State.beforeExit
  dsimp only
  rw [task_modTask_same, sendOuts_task]
  rfl

/-- Whatever the exit, a commit keeps the flags that its block found. -/
theorem fflags_beforeExit (s : State) (a : Agent) (w : Win) (e : ExitRec) : ((s.beforeExit a w e).task a).fflags = (s.task a).fflags := by
  have hd : ((s.deliver a w.regs).task a).fflags = (s.task a).fflags := by rw [deliver_task, fflags_deliver]
  rw [task_beforeExit]
  dsimp only
  split
  · rw [fflags_windowCall, hd]
  split
  · rw [fflags_windowRet, hd]
  · exact hd

/-- The registers that a block leaves which does not move the window. -/
theorem readReg_commitBlock (s : State) (a : Agent) (w : Win) (e : ExitRec) (h2 : e.op ≠ 0xA2) (h3 : e.op ≠ 0xA3) (h4 : e.op ≠ 0xA4)
    (h7 : e.op ≠ 0xA7) (n : Nat) : ((s.commitBlock a w e).task a).readReg n = ((s.task a).deliver w.regs).readReg n := by
  rw [task_commitBlock]
  obtain ⟨hregs, hvregs, hdepth, -⟩ := takeEffect_kept (s.beforeExit a w e) a (s.faultOf a (some e.slot) fcTrap e.code 0) h7
  rw [task_beforeExit] at hregs hvregs hdepth
  simp only [h2, h3, h4, decide_false, Bool.or_false, Bool.false_eq_true, if_false, deliver_task] at hregs hvregs hdepth
  simp only [TaskCtx.readReg, TaskCtx.getS, TaskCtx.getP, TaskCtx.getV, hregs, hvregs, hdepth]

theorem getS_eq_readReg (t : TaskCtx) {n : Nat} (h : n < 32) : t.getS n = (t.readReg n).setWidth 64 := by
  rw [TaskCtx.readReg, if_pos h, BitVec.setWidth_setWidth_of_le _ (by decide), BitVec.setWidth_eq]

theorem getV_eq_readReg (t : TaskCtx) (n : Nat) : t.getV n = t.readReg (32 + n) := by
  rw [TaskCtx.readReg, if_neg (by omega), Nat.add_sub_cancel_left]

/-- Settles O30: the deliveries are written one by one under their numbers, each to a place of its own, and what follows them keeps
the registers; a CALL adds one to the depth, by which the sixteen registers from 16 on are counted from 0. -/
theorem registersCommit : Obligations.RegistersCommit := by
  refine ⟨fun s a w e _ hnodup h2 h3 h4 h7 => ?_, fun s a hdepth => ?_⟩
  · have hreg : ∀ n, n < 40 → ((s.commitBlock a w e).task a).readReg n =
        match w.regs.find n with | some (some v) => regHeld n v | _ => (s.task a).readReg n := fun n hn => by
      rw [readReg_commitBlock s a w e h2 h3 h4 h7, readReg_deliver _ hnodup hn]
    refine ⟨fun n v hn hfind => ?_, fun n v hn hfind => ?_, fun n hn hfind => ?_, fun n hn hfind => ?_⟩
    · rw [getS_eq_readReg _ hn, hreg n (by omega), hfind]
      simp only [regHeld, if_pos hn]
      rw [BitVec.setWidth_setWidth_of_le _ (by decide), BitVec.setWidth_eq]
    · rw [getV_eq_readReg, hreg _ (by omega), hfind]
      exact if_neg (by omega)
    · rw [getS_eq_readReg _ hn, getS_eq_readReg _ hn, hreg n (by omega)]
      obtain hfind | hfind := hfind <;> rw [hfind]
    · rw [getV_eq_readReg, getV_eq_readReg, hreg _ (by omega)]
      obtain hfind | hfind := hfind <;> rw [hfind]
  · have hcall : s.windowCall a = s.modTask a fun t => { t with depth := t.depth + 1 } := by
      unfold State.windowCall
      simp [Nat.not_le.2 hdepth]
    intro t
    have htask : t.task a = { s.task a with depth := (s.task a).depth + 1 } := (congrArg (State.task · a) hcall).trans (task_modTask_same ..)
    rw [htask]
    refine ⟨rfl, rfl, rfl, (congrArg State.mem hcall).trans (mem_modTask ..), fun n hn => ?_⟩
    have hphys : physReg ((s.task a).depth + 1) n = physReg (s.task a).depth (16 + n) := by unfold physReg; omega
    exact congrArg (s.task a).getP hphys

/-! ## A commit that nothing holds back -/

/-- A step of a task's own context that keeps the chart it works for keeps the words of its block. -/
theorem fieldsAt_modTask {f : TaskCtx → TaskCtx} (s : State) (a : Agent) (h : ∀ t, (f t).cctx = t.cctx) (b i : Nat) :
    (s.modTask a f).fieldsAt a b i = s.fieldsAt a b i := by
  have hstore : (s.modTask a f).blockStore a = s.blockStore a :=
    blockStore_congr (by rw [task_modTask_same, h]) (cctxs_modTask s a f) (blocks_modTask s a f)
  simp only [State.fieldsAt, State.instrAt, hstore]

/-- The state and the window in which the operations at commit act: the flags merged, unless they were before (log entry 76). -/
def State.settled (s : State) (a : Agent) (w : Win) : State := if (w.ops.find opsOpen).isSome then s else s.settleTask a w

def Win.settled (w : Win) : Win := if (w.ops.find opsOpen).isSome then w else { w with ops := w.ops.put opsOpen (.done 0) }

theorem settled_win {s : State} {a : Agent} {w : Win} (hw : s.win a = some w) : (s.settled a w).win a = some w.settled := by
  unfold State.settled Win.settled
  split
  · exact hw
  · unfold State.settleTask
    dsimp only
    rw [win_modWin_same, win_modTask_of, hw]
    · rfl
    · exact fun t => by rfl

theorem settleTask_fflags (s : State) (a : Agent) (w : Win) : ((s.settleTask a w).task a).fflags = (s.task a).fflags ||| w.flags := by
  unfold State.settleTask State.modWin
  dsimp only
  rw [task_modTask_same, task_modTask_same]

theorem settled_logs (s : State) (a : Agent) (w : Win) : (s.settled a w).logs = s.logs := by
  unfold State.settled State.settleTask State.modWin
  split
  · rfl
  · dsimp only
    rw [modTask_logs, modTask_logs]

theorem settled_accs (s : State) (a : Agent) (w : Win) : (s.settled a w).accs = s.accs := by
  unfold State.settled State.settleTask State.modWin
  split
  · rfl
  · dsimp only
    rw [modTask_accs, modTask_accs]

theorem settled_fieldsAt (s : State) (a : Agent) (w : Win) (b i : Nat) : (s.settled a w).fieldsAt a b i = s.fieldsAt a b i := by
  unfold State.settled State.settleTask State.modWin
  split
  · rfl
  · dsimp only
    rw [fieldsAt_modTask, fieldsAt_modTask] <;> exact fun t => by rfl

theorem settled_fenceRegs (s : State) (a : Agent) (w : Win) : (s.settled a w).fenceRegs a w = s.fenceRegs a w := by
  simp only [State.fenceRegs, settled_accs, settled_fieldsAt]

theorem logsStores_of_nolog {s : State} (h : s.logs = []) (a : Agent) (w : Win) : s.logsStores a w = false := by
  rw [State.logsStores, log_of_nolog h]
  rfl

theorem replayBad_of_nolog {s : State} (h : s.logs = []) (a : Agent) (w : Win) : s.replayBad a w = none := by
  unfold State.replayBad
  dsimp only
  rw [log_of_nolog h]

/-- Stores that an agent has none of are neither kept nor freed. -/
theorem keepStores_of_none {s : State} {a : Agent} (h : ∀ x ∈ s.accs, x.agent ≠ a) (n : Nat) : s.keepStores a n = s := by
  have hfold : ∀ (l : List Access) (u : State), (∀ x ∈ l, x.agent ≠ a) → l.foldl (fun s x =>
      if x.agent == a && x.seq == n && !x.committed && (x.kind == .write || x.kind == .presence) then
        s.modWin a fun w => { w with kept := w.kept.put x.slot [], pnr := true } else s) u = u := fun l => by
    induction l with
    | nil => exact fun u _ => rfl
    | cons x l ih =>
      intro u hl
      obtain ⟨hx, hl⟩ := List.forall_mem_cons.1 hl
      rw [List.foldl_cons, if_neg (by simp [hx])]
      exact ih u hl
  exact hfold _ s h

theorem freeStores_of_none {s : State} {a : Agent} (h : ∀ x ∈ s.accs, x.agent ≠ a) (n : Nat) : s.freeStores a n = s := by
  have hmap : (s.accs.map fun x => if x.agent == a && x.seq == n && x.kind != .elem then { x with committed := true } else x) = s.accs :=
    (List.map_congr_left fun x hx => if_neg (by simp [h x hx])).trans (List.map_id' s.accs)
  unfold State.freeStores
  rw [hmap]

theorem allPerformed_of_none {s : State} {a : Agent} (h : ∀ x ∈ s.accs, x.agent ≠ a) : s.allPerformed a = true :=
  List.all_eq_true.2 fun x hx => by simp [h x hx]

/-- A commit whose block is judged to commit, outside a logged context, goes on to its operations: with none of them, or with no access
of its own outstanding, straight away. -/
theorem tryCommit_runs {s : State} {a : Agent} {w : Win} {e : ExitRec} (hw : s.win a = some w) (hstop : w.stopped = false)
    (hmay : s.mayCommit a = true) (hq : s.quiescent a w = true) (hj : s.judgeBlock a w = none) (he : w.exit = some e)
    (hspill : (s.task a).spillBad e.op = none) (hret : s.retPoison a e.op = none) (hlogs : s.logs = []) (hf : s.fenceRegs a w = [])
    (hout : s.outsMapped a w.outs (s.lateOps a w) = true) (hlate : s.judgeLate a w (s.lateOps a w) = .go s)
    (hlow : (s.settled a w).lowerFirst a (s.lateOps a w) = false)
    (hacc : s.lateOps a w = [] ∨ ∀ x ∈ s.accs, x.agent ≠ a) {t : State} {v : Win}
    (hrun : (s.settled a w).runLate a (s.lateOps a w) = .go t true) (hv : t.win a = some v) :
    s.tryCommit a = t.commitBlock a v e := by
  have hrel : ((s.settled a w).logsStores a w || !((s.settled a w).fenceRegs a w).isEmpty || (s.lateOps a w).any fun o => lateRelease o.2.1) =
      (s.lateOps a w).any fun o => lateRelease o.2.1 := by
    rw [logsStores_of_nolog ((settled_logs ..).trans hlogs), settled_fenceRegs, hf]
    rfl
  unfold State.tryCommit
  rw [hw]
  dsimp only
  rw [if_neg (by simp [hstop, hmay, hq]), hj, he]
  dsimp only
  rw [hspill, hret]
  dsimp only
  rw [hlate]
  dsimp only
  rw [replayBad_of_nolog hlogs]
  dsimp only
  rw [if_neg (by simp [hout]), ← State.settled, hrel]
  have hstay : ((s.lateOps a w).any fun o => lateRelease o.2.1) = true → ∀ x ∈ (s.settled a w).accs, x.agent ≠ a := fun hany =>
    hacc.elim (fun h => by rw [h] at hany; cases hany) (fun h => by rwa [settled_accs])
  generalize (s.lateOps a w).any (fun o => lateRelease o.2.1) = r at hstay
  have hstores : (if r = true then ((s.settled a w).keepStores a w.seq).freeStores a w.seq else s.settled a w) = s.settled a w := by
    split
    next hr => rw [keepStores_of_none (hstay hr), freeStores_of_none (hstay hr)]
    · rfl
  have hdone : ¬ (r && !(s.settled a w).allPerformed a) = true := fun h => by
    obtain ⟨hr, hall⟩ := Bool.and_eq_true_iff.1 h
    rw [allPerformed_of_none (hstay hr)] at hall
    cases hall
  rw [hstores, if_neg hdone, hlow, if_neg (by decide), hrun]
  dsimp only
  rw [hv]

/-- What a block leaves whose commit nothing holds back: its flags merged, and what its exit says. -/
theorem commitBlock_settled (s : State) (a : Agent) (w w1 : Win) (e : ExitRec) :
    ((w.ops.find opsOpen).isSome = false → (((s.settled a w).commitBlock a w1 e).task a).fflags = (s.task a).fflags ||| w.flags) ∧
    (e.op = 0xA0 → ∃ v, ((s.settled a w).commitBlock a w1 e).win a = some v ∧ v.baddr = e.next ∧ ∀ sl ∈ v.slots, sl = Slot.fresh) ∧
    (e.op = 0xA7 → (((s.settled a w).commitBlock a w1 e).task a).st = .idle ∧ ((s.settled a w).commitBlock a w1 e).win a = none) := by
  unfold State.win
  simp only [task_commitBlock]
  refine ⟨fun hopen => ?_, takeEffect_branch _ _ _, fun h7 => ?_⟩
  · have hkeeps : ∀ (u : State) f, ((u.takeEffect a e f).task a).fflags = (u.task a).fflags := fun u f => by
      by_cases h7 : e.op = 0xA7
      · rw [takeEffect_halt _ _ _ h7]
      · exact (takeEffect_kept u a f h7).fflags
    rw [hkeeps, fflags_beforeExit, State.settled, if_neg (by simp [hopen]), settleTask_fflags]
  · rw [takeEffect_halt _ _ _ h7]
    exact ⟨rfl, rfl⟩

theorem judgeLate_nil (s : State) (a : Agent) (w : Win) : s.judgeLate a w [] = .go s := by
  unfold State.judgeLate
  split <;> rfl

theorem lowerFirst_nil (s : State) (a : Agent) : s.lowerFirst a [] = false := by
  unfold State.lowerFirst
  have hnone : ((s.win a).bind fun w => w.nextHandle []) = none := by cases s.win a <;> rfl
  rw [hnone]
  cases a <;> rfl

theorem tryCommit_held {s : State} {a : Agent} {w : Win} (hw : s.win a = some w)
    (h : w.stopped = true ∨ s.mayCommit a = false ∨ s.quiescent a w = false) : s.tryCommit a = s := by
  unfold State.tryCommit
  rw [hw]
  dsimp only
  rw [if_pos]
  obtain h | h | h := h <;> simp [h]

theorem opDone_settled {w : Win} {i : Nat} (h : w.opDone i = false) (hi : i < 128) : w.settled.opDone i = false := by
  unfold Win.settled
  split
  · exact h
  · have hput : (w.ops.put opsOpen (OpSt.done 0)).find i = w.ops.find i := find_put_ne _ _ (by unfold opsOpen; omega)
    unfold Win.opDone at h ⊢
    rwa [hput]

/-- An operation at commit that goes through. -/
theorem runLate_one {s u : State} {a : Agent} {w : Win} {i op : Nat} {f : Fmt} {sl : Slot} {tok : Option Token} (hw : s.win a = some w)
    (hop : w.opDone i = false) (h : s.commitOp a i op f sl = .done u tok) :
    s.runLate a [(i, op, f, sl)] = .go ((u.opReports a op).opFinish a i f sl tok) true := by
  rw [State.runLate, hw]
  dsimp only
  rw [hop, if_neg (by decide), h]
  rfl

/-- An event for a die whose queue has room. -/
theorem post_room {s : State} {d : Nat} (ev payload : Word) (hroom : (s.die d).events.length < 256) (hheld : (s.die d).evHeld = []) :
    s.post d ev payload = s.modDie d fun x => { x with events := x.events ++ [(ev, payload)] } :=
  congrArg (fun x => { s with dies := s.dies.put d x }) (if_pos (by simp [hroom, hheld]))

/-- Settles O29: an attempt that nothing holds back runs the operations at commit and then the block's own effects; with none of them
those follow straight away. -/
theorem commitSteps : Obligations.CommitSteps := by
  refine ⟨fun s a => ⟨rfl, fun h => if_pos h, fun h => if_pos h, fun w hw h => tryCommit_held hw h⟩,
    fun s a w e hw hstop hmay hq hj he hspill hret hlogs hf hout => ?_, fun s a i sl g hlogs => ?_, fun s t a i sl g ws => ?_⟩
  · intro open0 s1 w1
    refine ⟨fun hlate => ?_, fun i op f sl u tok v hlate hi hop hacc hjudge hlow hrun hv => ?_⟩
    · have hgo : s.tryCommit a = s1.commitBlock a w1 e :=
        tryCommit_runs hw hstop hmay hq hj he hspill hret hlogs hf hout (hlate ▸ judgeLate_nil s a w) (hlate ▸ lowerFirst_nil ..)
          (.inl hlate) (hlate ▸ rfl) (settled_win hw)
      exact ⟨congrArg Host.Outcome.next hgo, commitBlock_settled s a w w1 e⟩
    · intro t
      have hgo : s.tryCommit a = t :=
        tryCommit_runs hw hstop hmay hq hj he hspill hret hlogs hf hout hjudge hlow (.inr hacc)
          (hlate ▸ runLate_one (settled_win hw) (opDone_settled hop hi) hrun) hv
      have hwaits : ∀ p : Nat → Bool, open0 = true → p op = true → s.commitWaits a p = true := fun p hopen hp => by
        unfold State.commitWaits
        rw [hw]
        simp only [hlate, List.any_cons, hp, hop, List.any_nil]
        exact Bool.and_eq_true_iff.2 ⟨hopen, rfl⟩
      exact ⟨congrArg Host.Outcome.next hgo,
        fun hopen hev => (if_pos (hwaits _ hopen (decide_eq_true hev))).trans (congrArg Host.Outcome.next hgo),
        fun hopen hroom => (if_pos (hwaits _ hopen (by simpa using hroom))).trans (congrArg Host.Outcome.next hgo)⟩
  · intro code dest d v
    have hlog : (if (s.log (s.srcOf a).lognum).isSome = true then s.horizon (s.srcOf a).lognum 6 else s) = s := by
      rw [log_of_nolog hlogs]
      rfl
    refine ⟨fun hdest hready hroom => ?_, fun hdest hroom hheld => ?_⟩
    · change s.commitEvt a g v = _
      unfold State.commitEvt
      dsimp only
      rw [hlog, show fieldN g.sel.toNat 13 12 = 0 from hdest]
      rw [if_neg (by simp [hready, Nat.not_le.2 hroom])]
      rfl
    · change s.commitEvt a g v = _
      have hd : (if fieldN g.sel.toNat 13 12 = 1 then a.die else 64) = d := rfl
      unfold State.commitEvt
      dsimp only
      rw [hlog]
      split
      next h => exact absurd h hdest
      · rw [hd, if_neg (by simp [hheld, Nat.not_le.2 hroom]), post_room _ _ hroom hheld]
  · intro q hopen hrec
    change s.commitCopy a i g _ = _
    unfold State.commitCopy
    dsimp only
    rw [if_neg (Nat.not_le.2 hopen), hrec]

end Sys2Proof.Machine

/-! # Proofs: writes at a home, and the fills that bring its bytes -/

namespace Sys2Proof.Machine

/-! ## A write at its home (R70) -/

theorem mem_updateDir (s : State) (attr : Attr) (pa n : Nat) : (s.updateDir attr pa n).mem = s.mem := by
  unfold State.updateDir
  split
  · rfl
  · refine foldl_view (fun u : State => u.mem) (fun _ _ => ?_) _ _
    rfl

theorem mem_rdcStore (s : State) (d pa : Nat) (bs : List Byte) : (s.rdcStore d pa bs).mem = s.mem := by
  refine foldl_view (fun u : State => u.mem) (fun u line => ?_) _ _
  dsimp only
  split <;> rfl

/-- Lines that hold a write's key already are left as they are. -/
theorem rekeyFor_eq_self {s : State} {k pa n : Nat} (h : ∀ l ∈ linesOf pa n, s.ktag.get l 0 = k) : s.rekeyFor k pa n = s := by
  unfold State.rekeyFor
  generalize linesOf pa n = ls at h
  induction ls with
  | nil => rfl
  | cons l ls ih =>
    obtain ⟨hl, hls⟩ := List.forall_mem_cons.1 h
    rw [List.foldl_cons, if_pos hl]
    exact ih hls

theorem mem_storeBytes {s : State} {attr : Attr} {pa : Nat} {bs : List Byte}
    (h : ∀ l ∈ linesOf pa bs.length, s.ktag.get l 0 = attr.conf) : (s.storeBytes attr pa bs).mem = memWrite s.mem pa bs := by
  unfold State.storeBytes
  dsimp only
  rw [rekeyFor_eq_self h, mem_updateDir]

/-- Where no log is there is nothing to record. -/
theorem logWord_of_nolog {s : State} (h : s.logs = []) {src : Src} (hsrc : src.lognum = 0) (attr : Attr) (wd v : Nat) (pres : Bool) :
    s.logWord src attr wd v pres = .done s := by
  have hown : s.ownerLog (wd * 8) = 0 := by
    unfold State.ownerLog
    dsimp only
    rw [log_of_nolog h]
    rfl
  unfold State.logWord
  dsimp only
  rw [hown, hsrc]
  split <;> rfl

theorem logWords_of_nolog {s : State} (h : s.logs = []) {src : Src} (hsrc : src.lognum = 0) (attr : Attr) (pres : Bool) (pa : Nat)
    (bs : List Byte) (ws : List Nat) : s.logWords src attr pres pa bs ws = .done s := by
  induction ws with
  | nil => rfl
  | cons wd ws ih =>
    rw [State.logWords]
    rw [logWord_of_nolog h hsrc]
    exact ih

theorem ktag_freeHeld (s : State) (src : Src) (pa n : Nat) : (s.freeHeld src pa n).ktag = s.ktag := by
  unfold State.freeHeld; dsimp only; split <;> rfl

theorem mem_freeHeld (s : State) (src : Src) (pa n : Nat) : (s.freeHeld src pa n).mem = s.mem := by
  unfold State.freeHeld; dsimp only; split <;> rfl

theorem mem_freeHeld_storeBytes {s : State} {src : Src} {attr : Attr} {pa : Nat} {bs : List Byte}
    (h : ∀ l ∈ linesOf pa bs.length, s.ktag.get l 0 = attr.conf) :
    ((s.freeHeld src pa bs.length).storeBytes attr pa bs).mem = memWrite s.mem pa bs := by
  rw [mem_storeBytes (by rwa [ktag_freeHeld]), mem_freeHeld]

/-- Settles O36: with no log nothing is recorded, and lines of the write's key are not changed before it; what is left is the write. -/
theorem homeWrite : Obligations.HomeWrite := by
  intro s src attr pres pa bs hwf hlogs hsrc hblocked hkeys
  have hwrites : ∃ t, s.homeWrite src attr pres pa bs = .done t ∧ t.mem = memWrite s.mem pa bs := by
    unfold State.homeWrite
    rw [hblocked, if_neg (by decide), rekeyFor_eq_self hkeys]
    dsimp only
    rw [logWords_of_nolog hlogs hsrc]
    refine ⟨_, rfl, ?_⟩
    split
    · exact mem_freeHeld_storeBytes hkeys
    · rw [mem_rdcStore, mem_freeHeld_storeBytes hkeys]
  obtain ⟨t, ht, hmem⟩ := hwrites
  refine ⟨t, ht, fun a ha => ?_, fun a hlo hhi => ?_⟩
  · rw [hmem, memGet_memWrite_out pa a bs hwf ha]
  · have hi : a - pa < bs.length := by omega
    have hin := memGet_memWrite_in pa bs hwf (a - pa) hi
    rw [Nat.add_sub_cancel' hlo] at hin
    rw [hmem, hin, List.getElem?_eq_getElem hi]
    rfl

/-! ## A line filled from its home (R67, R69, R71) -/

/-- Byte `i` of a line's data. -/
def byteAt (x : BitVec 1024) (i : Nat) : Byte := (x >>> (8 * i)).setWidth 8

/-- A line's data with byte `i` laid. -/
def layByte (x : BitVec 1024) (i : Nat) (b : Byte) : BitVec 1024 :=
  (x &&& ~~~((0xFF : BitVec 1024) <<< (8 * i))) ||| (b.setWidth 1024 <<< (8 * i))

theorem byteAt_layByte (x : BitVec 1024) {i j : Nat} (b : Byte) (hj : j < 128) :
    byteAt (layByte x i b) j = if i = j then b else byteAt x j := by
  have hff : ∀ m, (0xFF : BitVec 1024).getLsbD m = decide (m < 8) := fun m => by
    rw [show (0xFF : BitVec 1024) = BitVec.ofNat 1024 (2 ^ 8 - 1) from rfl, BitVec.getLsbD_ofNat, Nat.testBit_two_pow_sub_one]
    by_cases hm : m < 8 <;> simp [hm]; omega
  have hbit : ∀ (y : BitVec 1024) (k : Nat) (hk : k < 8), (byteAt y j)[k] = y.getLsbD (8 * j + k) := fun y k hk => by
    simp [byteAt, BitVec.getElem_setWidth]
  ext k hk
  have hidx : 8 * j + k < 1024 := by omega
  rw [hbit]
  simp only [layByte, BitVec.getLsbD_or, BitVec.getLsbD_and, BitVec.getLsbD_not, BitVec.getLsbD_shiftLeft, BitVec.getLsbD_setWidth,
    hff, hidx, decide_true, Bool.true_and]
  rcases Nat.lt_trichotomy i j with hij | rfl | hij
  · have hout : ¬ 8 * j + k < 8 * i ∧ ¬ 8 * j + k - 8 * i < 8 := by omega
    rw [if_neg (Nat.ne_of_lt hij), hbit, BitVec.getLsbD_of_ge b _ (Nat.le_of_not_lt hout.2)]
    simp [hout]
  · have hlow : ¬8 * i + k < 8 * i := by omega
    have hk1024 : k < 1024 := by omega
    simp [hk, hlow, hk1024]
  · have hout : 8 * j + k < 8 * i := by omega
    rw [if_neg (Nat.ne_of_gt hij), hbit]
    simp [hout]

/-! ### A bank line -/

theorem byte_putByte (l : BankLine) {i j : Nat} (b : Byte) (dirty : Bool) (hj : j < 128) :
    (l.putByte i b dirty).byte j = if i = j then b else l.byte j := byteAt_layByte l.data b hj

theorem valid_putByte (l : BankLine) {i : Nat} (j : Nat) (b : Byte) (dirty : Bool) (hi : i < 128) :
    (l.putByte i b dirty).valid.getLsbD j = (l.valid.getLsbD j || decide (i = j)) := by
  simp only [BankLine.putByte, BitVec.getLsbD_or, BitVec.getLsbD_shiftLeft]
  by_cases hij : i = j
  · simp [hij, hij ▸ hi]
  · have hout : ¬ j < i → j - i ≠ 0 := by omega
    simp only [hij, decide_false, Bool.or_false]
    by_cases hji : j < i <;> simp [hji, hout]

/-- A fill lays the bytes that were not valid, and these only. -/
theorem fillWith_bytes (l : BankLine) (byte : Nat → Byte) (marked : Bool) (i : Nat) (hi : i < 128) :
    (l.fillWith byte marked).valid.getLsbD i = true ∧
      (l.fillWith byte marked).byte i = if l.valid.getLsbD i then l.byte i else byte i := by
  have hprefix : ∀ n, n ≤ 128 → ∀ j, j < 128 → 
    let l' := (List.range n).foldl (fun (l : BankLine) i => if l.valid.getLsbD i then l else l.putByte i (byte i) false) l
    l'.valid.getLsbD j = (l.valid.getLsbD j || decide (j < n)) ∧
      l'.byte j = if l.valid.getLsbD j = false ∧ j < n then byte j else l.byte j := by
    intro n
    induction n with
    | zero => simp
    | succ n ih =>
      intro hn j hj
      have hnn := (ih (by omega) n (by omega)).1
      obtain ⟨hv, hb⟩ := ih (by omega) j hj
      dsimp only at hnn hv hb ⊢
      rw [List.range_succ, List.foldl_append, List.foldl_cons, List.foldl_nil, hnn]
      by_cases hln : l.valid.getLsbD n = true
      · have hlast : l.valid.getLsbD j = false → j ≠ n := fun h e => by rw [e, hln] at h; cases h
        rw [if_pos (by simp [hln]), hv, hb]
        cases hlj : l.valid.getLsbD j with
        | true => simp
        | false =>
          have hjn : j < n + 1 ↔ j < n := by have := hlast hlj; omega
          simp [hjn]
      · rw [if_neg (by simp [hln]), valid_putByte _ _ _ _ (by omega), byte_putByte _ _ _ hj, hv, hb]
        by_cases hnj : n = j
        · subst hnj
          simp [hln]
        · have hjn : j < n + 1 ↔ j < n := by omega
          simp [hnj, hjn]
  obtain ⟨hv, hb⟩ := hprefix 128 (by omega) i hi
  refine ⟨hv.trans (by simp [hi]), hb.trans ?_⟩
  cases l.valid.getLsbD i <;> simp [hi]

theorem dirty_fillWith (l : BankLine) (byte : Nat → Byte) (marked : Bool) : (l.fillWith byte marked).dirty = l.dirty := by
  unfold BankLine.fillWith
  dsimp only
  generalize List.range 128 = is
  induction is generalizing l with
  | nil => rfl
  | cons i is ih =>
    rw [List.foldl_cons, ih]
    split <;> rfl

/-! ### A copy in the remote-data cache -/

/-- Bytes laid where a predicate does not keep the old ones. -/
theorem byteAt_foldl_layByte (p : Nat → Bool) (b : Nat → Byte) (x : BitVec 1024) (n : Nat) {j : Nat} (hj : j < 128) :
    byteAt ((List.range n).foldl (fun x i => if p i = true then x else layByte x i (b i)) x) j =
      if p j = false ∧ j < n then b j else byteAt x j := by
  induction n with
  | zero => simp
  | succ n ih =>
    rw [List.range_succ, List.foldl_append, List.foldl_cons, List.foldl_nil]
    by_cases hp : p n = true
    · have hjn : (p j = false ∧ j < n + 1) ↔ (p j = false ∧ j < n) :=
        and_congr_right fun h => by
          have hne : j ≠ n := fun e => by rw [e, hp] at h; cases h
          omega
      rw [if_pos hp, ih]
      simp only [hjn]
    · rw [if_neg hp, byteAt_layByte _ _ hj, ih]
      by_cases hnj : n = j
      · subst hnj
        simp [hp]
      · have hjn : j < n + 1 ↔ j < n := by omega
        simp [hnj, hjn]

/-- A fill that is due from this package goes on when the links to its home stand and the home can be reached. -/
theorem bankFill_due {s : State} {c t n : Nat} {l : BankLine} {pa : Nat} {attr : Attr} (hl : ((s.cell c).tile t).lines.find n = some l)
    (hhome : s.bankHome c t n = some (pa, attr)) (hfill : l.filling = true) (hbad : l.bad = none) (hpkg : paPkg pa = s.pkgNum) :
    exec (.bankFill c t n) s =
      if (s.crossing (c / 256) (paDie pa)).isSome || !s.homeReady pa then .next s else .next (s.fillBank c t n l pa attr.conf) := by
  change execBankFill c t n s = _
  unfold execBankFill
  rw [hl, hhome]
  dsimp only
  rw [if_neg (by simp [hfill, hbad]), if_neg (by simp [hpkg])]

/-- Settles O35: a fill lays the home's bytes in the places it does not find valid, one after another, and leaves the others. -/
theorem fillsArrive : Obligations.FillsArrive := by
  refine ⟨fun s c t n l pa attr hl hhome hfill hbad hpkg hcross hready => ?_, fun s c t n l pa attr hl hhome hfill hbad hpkg haway => ?_,
    fun s d n r hr hfill => ?_⟩
  · refine ⟨?_, rfl, l.fillWith (fun i => s.byteAs attr.conf (pa + i)) (s.poison.contains (pa / 128)), ?_, rfl, dirty_fillWith ..,
      fillWith_bytes l _ _⟩
    · rw [bankFill_due hl hhome hfill hbad hpkg, if_neg (by simp [hcross, hready])]
    · unfold State.fillBank
      dsimp only
      rw [cell_modCell_same]
      simp [Cell.modTile, Cell.tile, Table.get]
  · rw [bankFill_due hl hhome hfill hbad hpkg, if_pos]
    obtain h | h := haway
    · simp [Option.isSome_iff_ne_none, h]
    · simp [h]
  · refine ⟨?_, rfl, ?_⟩
    · change execRdcFill d n s = _
      unfold execRdcFill
      rw [hr]
      exact if_pos hfill
    · unfold State.fillCopy
      dsimp only
      rw [die_modDie_same]
      refine ⟨_, find_put_same .., rfl, rfl, fun i hi => ?_⟩
      have hdata := byteAt_foldl_layByte (fun i => r.laid.getLsbD i) (fun i => memGet s.mem (n * 128 + i)) r.data 128 hi
      unfold byteAt layByte at hdata
      rw [hdata]
      cases hlaid : r.laid.getLsbD i <;> simp [hi]

end Sys2Proof.Machine

/-! # Proofs: the records of a trace, and the commands of a memory port -/

namespace Sys2Proof.Machine

/-! ## The trace (R420, R421) -/

theorem filterMap_ite {α β : Type} (l : List α) (f : α → β) (p : β → Bool) :
    (l.filterMap fun x => if p (f x) = true then some (f x) else none) = (l.map f).filter p := by
  rw [List.filter_map, ← List.filterMap_eq_filter, List.map_filterMap]
  congr 1
  funext x
  cases h : p (f x) <;> simp [Option.guard, h]

/-- The tasks that a region's sample lists. -/
theorem sampled_tasks (u : State) (k : Nat) (cells : List (Nat × Nat)) :
    (cells.flatMap fun (c : Nat × Nat) => (List.range 8).filterMap fun t =>
        let a : Agent := .task c.1 c.2 t
        if (u.task a).st != .unbound && u.regionOf a = k then some a else none) =
      (cells.flatMap fun (c : Nat × Nat) => (List.range 8).map fun t => Agent.task c.1 c.2 t).filter fun a =>
        (u.task a).st != .unbound && u.regionOf a == k := by
  rw [List.filter_flatMap]
  congr 1
  funext c
  exact filterMap_ite (List.range 8) (fun t => Agent.task c.1 c.2 t) fun a => (u.task a).st != .unbound && u.regionOf a == k

/-- Settles O46: at the end of a window each count that is asked for and not zero makes one record; a sample one of each task. -/
theorem traceRecords : Obligations.TraceRecords := by
  intro s k r hr t gs
  have hwindow : exec (.traceWindow k) s = if s.cycle % 1024 ≠ 0 then .next s else
      let u := if flag r.trace.ctl 60 && !gs.isEmpty then
        t.traceRec k 0x30 (BitVec.ofNat 8 (bitSet gs) :: gs.flatMap fun g => varint (r.trace.kills.getD g 0)) else t
      .next (if flag r.trace.ctl 59 && r.trace.elided ≠ 0 then u.traceRec k 0x40 (varint r.trace.elided) else u) := by
    change execTraceWindow k s = _
    unfold execTraceWindow
    rw [hr]
  have hsample : exec (.traceSample k) s =
      if field r.trace.ctl 57 53 = 0 || s.cycle % 2 ^ field r.trace.ctl 57 53 ≠ 0 || r.trace.sampled == some s.cycle then .next s else
      let u := s.modRegion k fun r => { r with trace := { r.trace with sampled := some s.cycle } }
      .next (((r.cells.flatMap fun (c : Nat × Nat) => (List.range 8).map fun t => Agent.task c.1 c.2 t).filter fun a =>
          (u.task a).st != .unbound && u.regionOf a == k).foldl (fun s a => s.traceRec k (0x50 + (s.sampleOf a).1)
        (varint (s.posOf a) ++ varint (match (s.sampleOf a).2 with | some i => (s.nodeInfo a i).1 | none => 0xFFFFFFFF))) u) := by
    change execTraceSample k s = _
    unfold execTraceSample
    rw [hr]
    dsimp only
    rw [← sampled_tasks] <;> rfl
  refine ⟨fun h => hwindow.trans (if_pos h), fun hc h60 h59 => ?_, fun hc h60 hgs h59 => ?_, fun hc h60 h59 he => ?_,
    fun h => hsample.trans (if_pos ?_), fun hp hc hs => hsample.trans (if_neg ?_)⟩
  · rw [hwindow, if_neg (by simp [hc])]
    simp [h60, h59]
  · rw [hwindow, if_neg (by simp [hc])]
    simp [h60, h59, hgs]
  · rw [hwindow, if_neg (by simp [hc])]
    simp [h60, h59, he]
  · obtain h | h | h := h <;> simp [h]
  · simp [hp, hc, hs]

/-! ## The commands of a port (R347, R348) -/

theorem id_of_cmd {s : State} {port id : Nat} {c : StreamCmd} (h : s.cmd? port id = some c) : c.id = id :=
  beq_iff_eq.1 (List.find?_some (p := fun c : StreamCmd => c.id == id) h)

/-- A step of a command that runs. -/
theorem streamCommandElement_runs {s : State} {port id : Nat} {c : StreamCmd} (hc : s.cmd? port id = some c) (hst : c.st = 1)
    (hfault : c.fault = none) (hfree : s.cmdFree c = true) : exec (.streamCommandElement port id) s = .next
      (if c.isBar then (s.moved c.region).endCmd port c else if c.write then s.writeCmd port c else s.readCmd port c) := by
  change execStreamCommandElement port id s = _
  unfold execStreamCommandElement
  rw [hc]
  dsimp only
  rw [if_neg (by omega), if_neg (by simp [hst, hfault, hfree])]
  cases c.isBar <;> cases c.write <;> rfl

/-- A read command that has the elements of its next token sends it where there is room. -/
theorem readCmd_sends {s : State} {port p side : Nat} {c : StreamCmd} (hstop : c.pendStop = 0) (hhalt : s.haltedAt c.region = false)
    (hbuf : c.buf.length = c.lanes) (htag : c.tag = none) (hend : s.portEnd (port / 64) (port % 64) = some (p, side))
    (hroom : (s.cell (cellKey (port / 64) p)).latchRoom (64 * side + c.circ) c.token = true) :
    s.readCmd port c = ((s.latchPut (cellKey (port / 64) p) (64 * side + c.circ) c.token).entered c.region).modCmd port c.id fun e => e.advance.1 := by
  have hsend : s.portSend port c.circ c.token = some (s.latchPut (cellKey (port / 64) p) (64 * side + c.circ) c.token) := by
    unfold State.portSend
    rw [hend]
    exact if_pos hroom
  unfold State.readCmd
  dsimp only
  rw [if_neg (by simp [hstop]), hhalt, if_neg (by decide), if_pos hbuf, htag]
  dsimp only
  rw [hsend]

/-- A write command discards a stop token. -/
theorem writeCmd_discards {s : State} {port : Nat} {c : StreamCmd} {x : Token} {r : List Token}
    (hq : (s.port port).inq.get c.circ [] = x :: r) (hx : x.stop ≠ 0) :
    s.writeCmd port c = (s.modPort port fun p => { p with inq := p.inq.put c.circ r }).moved c.region := by
  have hdrop : ((s.port port).inq.get c.circ []).drop 1 = r := by rw [hq]; rfl
  unfold State.writeCmd State.modPort
  dsimp only
  rw [hdrop, hq]
  dsimp only
  rw [if_pos (by simp [hx])]

theorem blockStore_modRegion (s : State) (a : Agent) (k : Nat) (f : Region → Region) : (s.modRegion k f).blockStore a = s.blockStore a := by
  unfold State.modRegion
  split <;> rfl

/-- A separator of a word without a target leaves nothing but its place. -/
theorem endCmd_bar {s : State} {port : Nat} {c : StreamCmd} {w : Win} {f : FmtT} (hw : s.win c.agent = some w) (hseq : w.seq = c.seq)
    (hf : s.fieldsAt c.agent c.baddr c.slot = some (0x71, .t f)) (hta : f.ta = .none) :
    (s.moved c.region).endCmd port c = (s.moved c.region).modPort port fun p => { p with cmds := p.cmds.filter fun e => e.id != c.id } := by
  have hwin : ((s.moved c.region).modPort port fun p => { p with cmds := p.cmds.filter fun e => e.id != c.id }).win c.agent = some w :=
    (win_modRegion s c.agent c.region _).trans hw
  have hfields : ((s.moved c.region).modPort port fun p => { p with cmds := p.cmds.filter fun e => e.id != c.id }).fieldsAt
      c.agent c.baddr c.slot = some (0x71, .t f) := by
    rw [← hf]
    unfold State.fieldsAt State.instrAt
    rw [← blockStore_modRegion s c.agent c.region fun r => { r with moved := s.cycle }]
    rfl
  unfold State.endCmd
  dsimp only
  rw [hwin, hfields]
  dsimp only
  rw [if_pos (by simp [optB, hseq]), show (Fmt.t f).ta = .none from hta]

/-- The shape record that a command's instruction names. -/
def State.cmdRecord (s : State) (c : StreamCmd) : Nat :=
  match s.fieldsAt c.agent c.baddr c.slot with
  | some (_, .t f) => (f.sr.toNat + ((s.cell c.cell).task c.task).shapeb) % 256
  | _ => 0

/-- A command that waits for a chart takes its place once one is active in its context. -/
theorem helmSbind_takes {s : State} {port id : Nat} {c : StreamCmd} {p : List Word} (hc : s.cmd? port id = some c) (hst : c.st = 3)
    (hactive : ((s.cell c.cell).cctx c.cctx).st = .active) (hfault : c.fault = none)
    (hown : ((s.cell c.cell).cctx c.cctx).shapes.contains (s.cmdRecord c) = true)
    (hp : (s.cell c.cell).shapes.get (s.cmdRecord c) [0, 0, 0, 0] = p)
    (hbad : badRecord p = false) (hpk : pPk p = 0) : exec (.helmSbindActivation port id) s = .next (s.modPort port fun q =>
        { q with cmds := (q.cmds.filter fun e => e.id != id) ++ [{ s.bindCmd c p with st := 0 }] }) := by
  subst hp
  have howned : ¬ (!((s.cell c.cell).cctx c.cctx).shapes.contains (s.cmdRecord c)) = true := by rw [hown]; decide
  have hgood : ¬ (badRecord ((s.cell c.cell).shapes.get (s.cmdRecord c) [0, 0, 0, 0]) ||
    pPk ((s.cell c.cell).shapes.get (s.cmdRecord c) [0, 0, 0, 0]) ≠ 0) = true := by rw [hbad, hpk]; decide
  change execHelmSbindActivation port id s = _
  unfold execHelmSbindActivation
  rw [hc]
  dsimp only
  rw [if_neg (by simp [hst, hactive, hfault])]
  exact (if_neg howned).trans (if_neg hgood)

/-- Settles O33: each step of a command is the one branch that its place, its gate and what it has read leave. -/
theorem streamCommandSteps : Obligations.StreamCommandSteps := by
  intro s port id c
  refine ⟨fun r hwait hid hroom => ?_, fun hc => ⟨fun hst hgate => ?_, streamCommandElement_runs hc, fun hst => ?_,
    fun p hst hactive hfault hrec hbad hpk => helmSbind_takes hc hst hactive hfault hrec.1 hrec.2 hbad hpk⟩,
    fun hc hst hfault hfree => ⟨fun p side hbar hwrite hstop hhalt hbuf htag hend hroom => ?_, fun x r hbar hwrite hq hx => ?_,
      fun w f hbar hw hseq hf hta => ?_⟩⟩
  · change execStreamCommandStart port id s = _
    unfold execStreamCommandStart
    dsimp only
    rw [hwait]
    dsimp only
    rw [if_pos hid, if_pos hroom]
  · change execStreamCommandElement port id s = _
    unfold execStreamCommandElement
    rw [hc]
    dsimp only
    rw [if_pos hst, if_neg (by simp [hgate])]
  · change execHelmSbindActivation port id s = _
    unfold execHelmSbindActivation
    rw [hc]
    exact if_pos (by simp [hst])
  · rw [streamCommandElement_runs hc hst hfault hfree, hbar, hwrite, if_neg (by decide), if_neg (by decide),
      readCmd_sends hstop hhalt hbuf htag hend hroom, id_of_cmd hc]
  · rw [streamCommandElement_runs hc hst hfault hfree, hbar, hwrite, if_neg (by decide), if_pos rfl, writeCmd_discards hq hx]
  · rw [streamCommandElement_runs hc hst hfault hfree, hbar, if_pos rfl, endCmd_bar hw hseq hf hta, id_of_cmd hc]

end Sys2Proof.Machine

/-! # Proofs: the operators of a router -/

namespace Sys2Proof.Machine

/-- An operator's turn where no splice token goes first. -/
theorem routeWith_goes {s : State} {key c cid k : Nat} {e : Word} (he : ((s.cell key).cctx c).entryOf cid = some e) (hk : rOpk e = k)
    (hsplice : s.takeSplices key c e = none) (go : State → Word → State) : s.routeWith key c cid k go = .next (go s e) := by
  unfold State.routeWith
  rw [he]
  dsimp only
  rw [if_neg (by simp [hk]), hsplice]

/-- Settles O31: with no splice token at an input the operator's own rule applies, and its tests are those of the statement. -/
theorem routerOperators : Obligations.RouterOperators := by
  refine ⟨fun s key c cid e he hsplice => ?_, fun s key c cid e right he hsplice => ?_⟩
  · intro d p k in0 in1 in2
    refine ⟨fun x hk hx => ?_, fun x y hk hx hy hxs hys => ?_, fun x y hk hx hy hxs hys => ?_, fun y hk hy hys => ?_⟩
    · change execCircuitForward key c cid s = _
      unfold execCircuitForward
      rw [routeWith_goes he hk hsplice, show s.headAt key c (rIn e 0) = some x from hx]
    · change execRouterSteer key c cid s = _
      unfold execRouterSteer
      rw [routeWith_goes he hk hsplice, show s.headAt key c (rIn e 0) = some x from hx, show s.headAt key c (rIn e 1) = some y from hy]
      dsimp only
      rw [if_neg (by simp [hxs, hys])]
    · change execRouterSteer key c cid s = _
      unfold execRouterSteer
      rw [routeWith_goes he hk hsplice, show s.headAt key c (rIn e 0) = some x from hx, show s.headAt key c (rIn e 1) = some y from hy]
      dsimp only
      rw [if_pos (by simp [hxs]), hys]
      simp only [Bool.and_eq_true, decide_true, true_and]
      rfl
    · intro arm x hx hxs
      change execRouterMerge key c cid s = _
      unfold execRouterMerge
      rw [routeWith_goes he hk hsplice, show s.headAt key c (rIn e 2) = some y from hy]
      dsimp only
      rw [if_neg (by simp [hys]), show s.headAt key c (rIn e (if y.isTrue = true then 0 else 1)) = some x from hx]
      dsimp only
      rw [hxs]
      cases s.mayLeave (key / 256) (key % 256) (rOutA e) cid x <;> rfl
  · intro d p k in0 in1 in2 out state
    refine ⟨fun x hk hroom hx hy hxs hrec hleave => ?_, fun x y hk hroom hx hy hxs hys hrec hright hleave => ?_,
      fun x hk hst hx hleave => ?_, fun y hk hst hy hys hfalse => ?_, fun x y hk hst hy hys htrue hx hxs hleave => ?_⟩
    · change execRouterNdmerge key c cid right s = _
      unfold execRouterNdmerge
      rw [routeWith_goes he hk hsplice, show s.headAt key c (rIn e 0) = some x from hx, show s.headAt key c (rIn e 1) = none from hy]
      dsimp only
      rw [if_neg (Nat.not_le.2 hroom), if_neg (by simp [hxs, hrec, optB, show s.mayLeave (key / 256) (key % 256) (rOutA e) cid x = true from hleave])]
    · change execRouterNdmerge key c cid right s = _
      have hturn : s.ndmArm key c cid e right = true := by
        unfold State.ndmArm
        rw [hrec, hright]
        dsimp only
        rw [beq_iff_eq, Bool.eq_iff_iff, decide_eq_true_iff, Nat.blt_eq]
      unfold execRouterNdmerge
      rw [routeWith_goes he hk hsplice, show s.headAt key c (rIn e 0) = some x from hx, show s.headAt key c (rIn e 1) = some y from hy]
      dsimp only
      have harm : (if x.stop ≠ 0 then true else if y.stop ≠ 0 then false else right) = right := by simp [hxs, hys]
      have hway : rIn e (bit right) = rIn e (if right = true then 1 else 0) := by cases right <;> rfl
      rw [if_neg (Nat.not_le.2 hroom), if_neg (by simp [hxs]), harm, hway]
      exact congrArg Host.Outcome.next (if_neg (by simpa [hxs, hys, hturn] using hleave))
    · change execRouterCarry key c cid s = _
      unfold execRouterCarry
      rw [routeWith_goes he hk hsplice]
      dsimp only
      rw [if_pos hst, show s.headAt key c (rIn e 0) = some x from hx]
      dsimp only
      rw [if_neg (by simpa using hleave)]
    · change execRouterCarry key c cid s = _
      unfold execRouterCarry
      rw [routeWith_goes he hk hsplice]
      dsimp only
      rw [if_neg hst, show s.headAt key c (rIn e 2) = some y from hy]
      dsimp only
      rw [if_neg (by simp [hys]), if_pos (by simp [hfalse])]
    · change execRouterCarry key c cid s = _
      unfold execRouterCarry
      rw [routeWith_goes he hk hsplice]
      dsimp only
      rw [if_neg hst, show s.headAt key c (rIn e 2) = some y from hy]
      dsimp only
      rw [if_neg (by simp [hys]), if_neg (by simp [htrue]), show s.headAt key c (rIn e 1) = some x from hx]
      dsimp only
      rw [if_neg (by simpa [hxs] using hleave)]

end Sys2Proof.Machine

/-! # Proofs: the steps of memory accesses -/

namespace Sys2Proof.Machine

/-! ## An access in flight -/

theorem acc?_modAcc {s : State} {id : Nat} {x : Access} {f : Access → Access} (hf : ∀ y, (f y).id = y.id) (h : s.acc? id = some x) :
    (s.modAcc id f).acc? id = some (f x) := by
  have hx : x.id = id := beq_iff_eq.1 (List.find?_some (p := fun y : Access => y.id == id) h)
  have hid : ((fun y : Access => y.id == id) ∘ fun y => if y.id = id then f y else y) = fun y => y.id == id := by
    funext y
    dsimp only [Function.comp]
    split
    · rw [hf]
    · rfl
  unfold State.acc? at h ⊢
  unfold State.modAcc
  dsimp only
  rw [List.find?_map, hid, h]
  exact congrArg some (if_pos hx)

theorem acc?_setUnit {s : State} {id : Nat} {x : Access} (j : Nat) (f : AUnit → AUnit) (h : s.acc? id = some x) :
    (s.setUnit id j f).acc? id = some { x with units := listModify x.units j f } := acc?_modAcc (fun _ => rfl) h

theorem unit_withUnit {x : Access} {j : Nat} {u : AUnit} (h : x.units[j]? = some u) (st : UnitSt) :
    (x.withUnit j st).units[j]? = some (u.withSt st) := by
  unfold Access.withUnit
  dsimp only
  rw [getElem?_listModify, if_pos rfl, h]
  rfl

/-! ## What waits for a claim (R73, R125) -/

/-- The parts of an access that wait to claim a word, with their places. -/
def claimWaits (w : Nat) (x : Access) : List (Nat × Nat × Nat) :=
  if x.claims && !x.loc then
    (List.range x.units.length).filterMap fun j =>
      match x.units[j]? with
      | some u => if u.st == .held && u.pa / 8 == w then some (u.old, x.id, j) else none
      | none => none
  else []

/-- The order in which they are judged again. -/
def claimTurns (waits : List (Nat × Nat × Nat)) : List (Nat × Nat × Nat) :=
  (List.range (waits.foldl (fun n e => max n (e.1 + 1)) 0)).flatMap fun t => waits.filter fun e => e.1 == t

/-- One of them judged again. -/
def State.judgeClaim (s : State) (e : Nat × Nat × Nat) : State :=
  match s.acc? e.2.1 with
  | none => s
  | some x =>
    match x.units[e.2.2]? with
    | some u => if x.kind == .elem then (s.claimUnit x e.2.2 u).claimAnswer x.id else (s.claimUnit x e.2.2 u).settleIssue x.id
    | none => s

theorem claimResolve_eq {s : State} {w : Nat} (h : ∀ c ∈ s.claims, c.word ≠ w) :
    exec (.claimResolve w) s = .next ((claimTurns (s.accs.flatMap (claimWaits w))).foldl State.judgeClaim s) := by
  have hnone : ¬ (s.claims.any fun c => c.word == w) = true := by simpa using h
  exact if_neg hnone

theorem claimWaits_of_not_held {w : Nat} {x : Access} (h : ∀ u ∈ x.units, u.st ≠ .held) : claimWaits w x = [] := by
  unfold claimWaits
  split
  · refine List.filterMap_eq_nil_iff.2 fun j _ => ?_
    split
    next u hu => exact if_neg (by simp [h u (List.mem_of_getElem? hu)])
    · rfl
  · rfl

theorem flatMap_claimWaits_nil {w : Nat} {l : List Access} (h : ∀ y ∈ l, ∀ u ∈ y.units, u.st ≠ .held) : l.flatMap (claimWaits w) = [] :=
  List.flatMap_eq_nil_iff.2 fun y hy => claimWaits_of_not_held (h y hy)

theorem claimTurns_one (e : Nat × Nat × Nat) : claimTurns [e] = [e] := by
  obtain ⟨n, id, j⟩ := e
  unfold claimTurns
  have hlt : ∀ t ∈ List.range n, [(n, id, j)].filter (fun e => e.1 == t) = [] := fun t ht => by
    have := List.mem_range.1 ht
    simp [List.filter_cons]
    omega
  rw [show [(n, id, j)].foldl (fun n e => max n (e.1 + 1)) 0 = n + 1 by simp, List.range_succ, List.flatMap_append,
    List.flatMap_eq_nil_iff.2 hlt]
  simp

/-- The only write that waits for the word claims it again. -/
theorem claimResolve_only {s : State} {w : Nat} {x : Access} {u : AUnit} {l r : List Access} (hfree : ∀ c ∈ s.claims, c.word ≠ w)
    (haccs : s.accs = l ++ x :: r) (hothers : ∀ y ∈ l ++ r, y.id ≠ x.id ∧ ∀ u ∈ y.units, u.st ≠ .held) (hkind : x.kind = .write)
    (hloc : x.loc = false) (hunits : x.units = [u]) (hheld : u.st = .held) (hword : u.pa / 8 = w) :
    exec (.claimResolve w) s = .next ((s.claimUnit x 0 u).settleIssue x.id) := by
  have hx : claimWaits w x = [(u.old, x.id, 0)] := by
    simp [claimWaits, Access.claims, hkind, hloc, hunits, hheld, hword]
  have hwaits : s.accs.flatMap (claimWaits w) = [(u.old, x.id, 0)] := by
    rw [haccs, List.flatMap_append, List.flatMap_cons, hx,
      flatMap_claimWaits_nil fun y hy => (hothers y (List.mem_append_left _ hy)).2,
      flatMap_claimWaits_nil fun y hy => (hothers y (List.mem_append_right _ hy)).2]
    rfl
  have hacc : s.acc? x.id = some x := by
    have hl : l.find? (fun y => y.id == x.id) = none :=
      List.find?_eq_none.2 fun y hy => by simp [(hothers y (List.mem_append_left _ hy)).1]
    unfold State.acc?
    rw [haccs, List.find?_append, hl]
    simp
  rw [claimResolve_eq hfree, hwaits, claimTurns_one, List.foldl_cons, List.foldl_nil]
  unfold State.judgeClaim
  dsimp only
  rw [hacc]
  dsimp only
  rw [hunits]
  dsimp only [List.getElem?_cons_zero]
  rw [if_neg (by simp [hkind])]

/-! ## The steps -/

theorem heldReadRelease_eq {s : State} {id j : Nat} {x : Access} {u : AUnit} (hx : s.acc? id = some x) (hu : x.units[j]? = some u) :
    exec (.heldReadRelease id j) s = if x.kind == .read && u.st == .held && !s.mustHold x u then .next (s.tryPerform x j u) else .next s := by
  change execHeldReadRelease id j s = _
  unfold execHeldReadRelease
  rw [hx]
  dsimp only
  rw [hu]

theorem sliceRetry_eq {s : State} {id j n : Nat} {x : Access} {u : AUnit} (hx : s.acc? id = some x) (hu : x.units[j]? = some u)
    (hst : u.st = .retry n) : exec (.sliceRetry id j) s = if s.cycle < n then .next s
      else if x.kind == .write then .next ((s.claimUnit x j u).settleIssue x.id)
      else .next ((s.setUnit id j fun u => { u with st := .issued }).tryPerform (x.withUnit j .issued) j (u.withSt .issued)) := by
  change execSliceRetry id j s = _
  unfold execSliceRetry
  rw [hx]
  dsimp only
  rw [hu]
  dsimp only
  rw [hst]
  dsimp only
  rw [acc?_setUnit j _ hx]
  rfl

/-- A held write tried again. -/
theorem logHeldWrite_eq {s : State} {id j : Nat} {x : Access} {u : AUnit} (hx : s.acc? id = some x) (hu : x.units[j]? = some u)
    (hst : u.st = .logHeld) (htrap : s.writeTrapped x u.pa = false) :
    let t := (s.setUnit id j fun u => { u with st := .issued }).tryPerform (x.withUnit j .issued) j (u.withSt .issued)
    let ln := (s.srcOf x.agent).lognum
    let waits := t.accs.any fun y => decide ((t.srcOf y.agent).lognum = ln) && y.units.any fun u => u.st == .logHeld
    exec (.logHeldWrite id j) s = .next (if t.logHeldAt id j = true then t else if waits = true then t else t.openLogGate ln) := by
  intro t ln waits
  have hheld : s.logHeldAt id j = true := by simp [State.logHeldAt, hx, hu, hst]
  have hfree : s.unitTrapped id j = false := by simp [State.unitTrapped, hx, hu, optB, htrap]
  change execLogHeldWrite id j s = _
  unfold execLogHeldWrite
  rw [if_neg (by simp [hheld, hfree])]
  dsimp only
  rw [acc?_setUnit j _ hx]
  dsimp only
  rw [show (listModify x.units j fun u => { u with st := .issued })[j]? = some (u.withSt .issued) from unit_withUnit hu .issued]
  change (if t.logHeldAt id j = true then Host.Outcome.next t else if waits = true then .next t else .next (t.openLogGate ln)) = _
  rw [← apply_ite Host.Outcome.next, ← apply_ite Host.Outcome.next]

/-- Settles O34: each step is the branch that the state of the part names; the waiting claims are judged one after another. -/
theorem memorySteps : Obligations.MemorySteps := by
  refine ⟨fun s id j x hx => ?_, fun s id j x u hx hu => ?_, fun s w id j => ?_⟩
  · have hstep : exec (.homeAccess id j) s = if x.kind == .fence then .next (s.fenceStep x) else if x.kind == .elem then .next s
        else if x.units.isEmpty then .next (s.emptyStep x) else match x.units[j]? with
          | none => .next s
          | some u => match u.st with
            | .waiting => if s.mayIssue x then .next (s.issueUnit x j u false) else .next s
            | .issued => .next (s.tryPerform x j u)
            | _ => .next s := by
      change execHomeAccess id j s = _
      unfold execHomeAccess
      rw [hx] <;> rfl
    refine ⟨fun hk => ?_, fun hk hk' hu => ?_, fun u hk hk' hu => ⟨fun hst => ?_, fun hst => ?_⟩⟩
    · rw [hstep, if_pos (by simp [hk])]
    · rw [hstep, if_neg (by simp [hk]), if_neg (by simp [hk']), if_pos (by simp [hu])]
    · rw [hstep, if_neg (by simp [hk]), if_neg (by simp [hk']), if_neg (by rw [List.isEmpty_iff]; rintro h; simp [h] at hu), hu]
      dsimp only
      rw [hst]
      cases s.mayIssue x <;> rfl
    · rw [hstep, if_neg (by simp [hk]), if_neg (by simp [hk']), if_neg (by rw [List.isEmpty_iff]; rintro h; simp [h] at hu), hu]
      dsimp only
      rw [hst]
      rfl
  · refine ⟨fun hk hst hhold => ?_, fun hk hst hhold => ?_, fun hj hk hst hown => ?_, fun hj hk hst => ?_, fun n hst hlt => ?_,
      fun n hst hle hk => ?_, fun hst => ?_⟩
    · rw [heldReadRelease_eq hx hu, if_pos (by simp [hk, hst, hhold])]
    · rw [heldReadRelease_eq hx hu, if_neg (by simp [hhold])]
    · subst hj
      change execMwaitEvaluate id s = _
      unfold execMwaitEvaluate
      rw [hx]
      dsimp only
      rw [hu]
      exact if_pos (by simpa [hk, hst] using hown)
    · subst hj
      change execRingWaitResume id s = _
      unfold execRingWaitResume
      rw [hx]
      dsimp only
      rw [hu]
      exact if_pos (by simp [hk, hst])
    · rw [sliceRetry_eq hx hu hst, if_pos hlt]
    · rw [sliceRetry_eq hx hu hst, if_neg (Nat.not_lt.2 hle), if_pos (by simp [hk])]
    · change execWalkComplete id j s = _
      unfold execWalkComplete
      rw [hx]
      dsimp only
      rw [hu]
      exact if_pos (by simp [hst])
  · refine ⟨fun hclaim => ?_, fun hfree hheld => ?_, fun hlog => ?_, fun htrap => ?_,
      fun x u l r hfree haccs hothers hkind hloc hunits hheld hword => claimResolve_only hfree haccs hothers hkind hloc hunits hheld hword,
      fun x u hx hu hst htrap => logHeldWrite_eq hx hu hst htrap⟩
    · exact if_pos (by simpa using hclaim)
    · rw [claimResolve_eq hfree, flatMap_claimWaits_nil hheld]
      rfl
    · exact if_pos (by simp [hlog])
    · exact if_pos (by simp [htrap])

end Sys2Proof.Machine

/-! # Proofs: an access that stands alone, and the records of its trace -/

namespace Sys2Proof.Machine

/-- The eight bytes at the physical address 0, read there next. -/
def homePart : AUnit := { va := 0, size := 8, st := .issued, pa := 0, attr := attrPlain, val := 0, old := 0, via := none }

/-- The LD for register 0, which has been delivered to, has issued: it stands alone at the ready home of its own die, and its region's
trace is written into another package. -/
def farTracedRead : State := { farTraced with accs := [slotAccess .read [homePart]], readyBits := 64 :: farTraced.readyBits }

theorem farTracedRead_alone : farTracedRead.aloneAtHome (slotAccess .read [homePart]) homePart := by
  refine ⟨rfl, rfl, rfl, rfl, ?_, ?_, ?_, ?_, ?_, ?_, ?_, ?_, ?_, ?_⟩ <;> decide +kernel

/-- Refutes O60: the read is answered, but its token is a second delivery to register 0, and the record of that fault leaves for another
package as an access of its own, so accesses are left in flight. -/
theorem not_accessesComplete : ¬ Obligations.AccessesComplete := by
  intro ⟨hreads, _⟩
  have hwin : (farTracedRead.win (.task 0 0 0)).isSome = true := by decide +kernel
  obtain ⟨w, hw⟩ := Option.isSome_iff_exists.1 hwin
  have hslot : ((farTracedRead.win (.task 0 0 0)).bind fun w => w.slots[0]?).isSome = true := by decide +kernel
  rw [hw] at hslot
  obtain ⟨sl, hsl⟩ := Option.isSome_iff_exists.1 hslot
  obtain ⟨hread, -⟩ := hreads farTracedRead (slotAccess .read [homePart]) homePart w sl farTracedRead_alone hw hsl
  obtain ⟨t, hexec, hnone, -⟩ := hread rfl ⟨rfl, by decide +kernel, rfl⟩
  have hleft : accessesOf (exec (.homeAccess 0 0) farTracedRead) ≠ 0 := by decide +kernel
  have hstep : exec (.homeAccess 0 0) farTracedRead = .next t := hexec
  rw [hstep] at hleft
  exact hleft (congrArg List.length hnone)

end Sys2Proof.Machine

/-! # Proofs: the steps of engines -/

namespace Sys2Proof.Machine

/-! ## A digit operator (R191, R193) -/

theorem digitStep_runs {s : State} {a : Agent} {i op : Nat} {w : Win} {sl : Slot} {g : FmtG} {e : DigEng} (hw : s.win a = some w)
    (hsl : w.slots[i]? = some sl) (hst : sl.st = .running) (hf : s.fieldsAt a w.baddr i = some (op, .g g)) (heng : sl.eng = .digit e)
    (hok : (s.task a).fault = none ∨ s.paused a = true) :
    let t := s.moved (s.regionOf a)
    exec (.digitStep a i) s = .next
      (if op = 0x51 then t.stepSink a i g e else if op = 0x5D ∨ op = 0x5E then t.stepAcc a i op g e else t.stepPlain a i op g e) := by
  intro t
  change execDigitStep a i s = _
  unfold execDigitStep
  rw [hw]
  dsimp only
  rw [hsl, hf]
  dsimp only
  rw [hst, heng]
  dsimp only
  rw [if_neg (by obtain h | h := hok <;> simp [h])]
  simp only [Bool.or_eq_true, decide_eq_true_eq]
  split
  · rfl
  · split <;> rfl

/-- A kill from the slot's own block (R201). -/
theorem killMessage_own {s : State} {n i op : Nat} {m : KillMsg} {w : Win} {sl : Slot} {g : FmtG} {e : DigEng}
    (hm : s.kills[n]? = some m) (hrcv : m.rcv = none) (hi : m.slot = i) (hw : s.win m.agent = some w) (hseq : w.seq = m.seq)
    (hsl : w.slots[i]? = some sl) (hf : s.fieldsAt m.agent w.baddr i = some (op, .g g)) (hst : sl.st = .running) (heng : sl.eng = .digit e) :
    let old := (e.endOut[m.target]?).getD 0
    let new := m.lanes &&& (2 ^ 32 - 1 - old)
    let own := if m.kg = some g.kg.toNat then m.lanes else 0
    exec (.killMessage n) s = .next (({ s with kills := s.kills.eraseIdx n } : State).settleDigit m.agent i op g
      { e with endOut := listSet e.endOut m.target (old ||| new), killOut := listModify e.killOut m.target (· ||| (new &&& own)) }) := by
  subst hi
  intro old new own
  have htarget : s.killTarget m (.g g) = m.target := by unfold State.killTarget; rw [hrcv]
  change execKillMessage n s = _
  unfold execKillMessage
  rw [hm]
  dsimp only
  rw [hw]
  dsimp only
  rw [hsl, hf]
  dsimp only
  rw [hst, heng]
  dsimp only
  rw [if_neg (by simp [hseq]), htarget, hrcv]
  dsimp only [Option.isNone_none, Bool.true_or]
  simp only [if_true, beq_iff_eq]
  rfl

theorem killMessage_ended {s : State} {a : Agent} {n i op : Nat} {m : KillMsg} {w : Win} {sl : Slot} {g : FmtG} {e : DigEng}
    (hm : s.kills[n]? = some m) (ha : m.agent = a) (hi : m.slot = i) (hw : s.win a = some w) (hseq : w.seq ≠ m.seq)
    (hsl : w.slots[i]? = some sl) (hf : s.fieldsAt a w.baddr i = some (op, .g g)) (hst : sl.st = .running) (heng : sl.eng = .digit e) :
    exec (.killMessage n) s = .next { s with kills := s.kills.eraseIdx n } := by
  subst ha hi
  change execKillMessage n s = _
  unfold execKillMessage
  rw [hm]
  dsimp only
  rw [hw]
  dsimp only
  rw [hsl, hf]
  dsimp only
  rw [hst, heng]
  dsimp only
  rw [if_pos hseq]

/-- Lanes that have all ended end no more. -/
theorem endIn_ended {e : DigEng} {fd : Fld} (h : e.endIn[fd.idx]? = some allLanes) (s : State) (a : Agent) (i op : Nat) (f : Fmt)
    (lanes : Nat) (kg : Option Nat) : s.endIn a i op f e fd lanes kg = (s, e) := by
  unfold State.endIn
  dsimp only
  rw [h]
  exact if_pos (by simp)

/-- A DSINK whose lanes have their digits rounds each and sends them (R198, R294). -/
theorem stepSink_rounds {t : State} {a : Agent} {i : Nat} {w : Win} {sl : Slot} {g : FmtG} {e : DigEng} (hw : t.win a = some w)
    (hsl : w.slots[i]? = some sl) (hfault : (t.task a).fault = none) (hchan : chlOf 0x51 (.g g) = none) (hq : sl.l.q = [])
    (hend : e.endIn[0]? = some allLanes) (hdigs : (if g.pd = 0 then defaultPd g.ty else g.pd.toNat) ≤ e.nIn .l) :
    let pd := if g.pd = 0 then defaultPd g.ty else g.pd.toNat
    let vec := g.aux.toNat.testBit 0
    let r := mapRes (fun gen n => roundNum g.ty (t.resolveRm a g.rm) g.sat gen (sinkNum (e.lane .l n) pd))
      (List.range (if vec then 32 else 1)) (t.genOf a i)
    t.stepSink a i g e = ((t.setSlot a i fun sl => { sl with st := .fired, eng := .none }).modWin a fun w => w.raise r.2.1).sendBoth a i
      0x51 (.g g) (if vec then lanesTok g.ty r.1 else elemTok g.ty (r.1.headD 0)) 1 := by
  intro pd vec r
  have hpeek : ∀ pos grp, t.peekDigit a 0x51 (.g g) sl .l pos grp = none := fun pos grp => by
    unfold State.peekDigit
    rw [if_pos (by rfl), hchan]
    dsimp only
    rw [show (sl.fld .l).q = [] from hq]
    rfl
  have hendIn : ∀ lanes kg, t.endIn a i 0x51 (.g g) e .l lanes kg = (t, e) := fun lanes kg => endIn_ended (fd := .l) hend ..
  unfold State.stepSink
  dsimp only
  generalize laneMask _ = need
  simp only [hendIn, hw, hsl, Option.getD_some, hpeek, hfault, Option.isSome_none, Bool.false_and]
  rw [if_neg (by decide), if_pos (Bool.or_eq_true_iff.2 (.inr (decide_eq_true hdigs)))]

/-! ## A DSRC (R205, R293) -/

theorem digitFields_source (g : FmtG) : digitFields 0x50 (.g g) = [] := rfl

/-- The lanes of a DSRC that its channels have ended. -/
theorem endedOut_channels {f : Fmt} (ha : f.ta.isSlot = false) (hb : f.tb.isSlot = false) (s : State) (a : Agent) (e : DigEng) :
    (s.endedOut a f e).1 = (e.endOut[0]?).getD 0 &&& (e.endOut[1]?).getD 0 := by
  have hneeds : ∀ t : Target, t.isSlot = false → s.needsNone a t = false := fun t ht => by
    unfold State.needsNone
    cases t with
    | slot => cases ht
    | _ => rfl
  unfold State.endedOut
  dsimp only
  rw [hneeds _ ha, hneeds _ hb]
  simp

/-- A DSRC reads nothing: it ends with its last lane, and is as it was otherwise. -/
theorem settleDigit_source {g : FmtG} (ha : g.ta.isSlot = false) (hb : g.tb.isSlot = false) (s : State) (a : Agent) (i : Nat) (e : DigEng) :
    s.settleDigit a i 0x50 g e =
      if (e.endOut[0]?).getD 0 &&& (e.endOut[1]?).getD 0 = allLanes ∧ e.outHead.isSome = true then
        s.setSlot a i fun sl => { sl with st := .fired, eng := .none }
      else s.setDig a i e := by
  unfold State.settleDigit
  dsimp only
  rw [digitFields_source, List.foldl_nil, if_neg (show ¬ 0x50 = 0x5B by decide), endedOut_channels (f := .g g) ha hb]
  simp only [Bool.and_eq_true, decide_eq_true_eq]
  rfl

/-- A DSRC that has sent its head sends its next digit (R193, R205). -/
theorem stepPlain_source {t : State} {a : Agent} {g : FmtG} {e : DigEng} (i : Nat) (hfault : (t.task a).fault = none)
    (hhead : e.outHead.isSome = true) (ha : g.ta.isSlot = false) (hb : g.tb.isSlot = false)
    (hend : (e.endOut[0]?).getD 0 &&& (e.endOut[1]?).getD 0 ≠ allLanes) :
    let j := e.sent + 1
    let digit (n : Nat) : Int := if (e.out n).cls = 1 then srcDigit (Num.decode g.ty (e.wordLane g.ty n)) j else 0
    let ended := (e.endOut[0]?).getD 0 &&& (e.endOut[1]?).getD 0
    let ds := (List.range 32).map fun n => if ended.testBit n then 4 else wrapN (digit n) 3
    let tok : Token := { kind := .digit, stop := 0, color := 0, payload := BitVec.ofNat 2048 (packLanes 3 ds) }
    t.stepPlain a i 0x50 g e = ((t.spend (t.regionOf a) 1 1).sendBoth a i 0x50 (.g g) tok 1).setDig a i { e with sent := j } := by
  intro j digit ended ds tok
  have hdigit : ∀ n, e.digitOf 0x50 g n j = digit n := fun n => by
    unfold DigEng.digitOf
    by_cases h : (e.out n).cls = 1 <;> simp [digit, h]
  unfold State.stepPlain
  dsimp only
  rw [digitFields_source, List.foldl_nil]
  dsimp only
  rw [hfault, if_neg (show ¬ (none.isSome && !t.paused a) = true by simp)]
  have hdecide : t.decide a i 0x50 g e = (t, e) := rfl
  rw [hdecide, if_neg (show ¬ decides 0x50 = true by decide), List.foldl_nil]
  dsimp only
  rw [endedOut_channels (f := .g g) ha hb]
  have hstill : ¬ e.outHead.isNone = true := by rw [← Option.not_isSome, hhead]; decide
  have hgoes : (decide ((e.endOut[0]?).getD 0 &&& (e.endOut[1]?).getD 0 ≠ allLanes) && e.hasIn [] (e.digitWait 0x50 g (e.sent + 1))) = true :=
    Bool.and_eq_true_iff.2 ⟨decide_eq_true hend, rfl⟩
  rw [if_neg hstill, if_pos hgoes]
  have hsend : t.sendDigit a i 0x50 g e ended = ((t.spend (t.regionOf a) 1 1).sendBoth a i 0x50 (.g g) tok 1, { e with sent := j }) := by
    unfold State.sendDigit
    simp only [hdigit, tok, ds, j]
  rw [show (e.endOut[0]?).getD 0 &&& (e.endOut[1]?).getD 0 = ended from rfl, hsend, settleDigit_source ha hb]
  exact if_neg fun h => hend h.1

/-! ## ISECT (R350) -/

theorem regionOf_setSlot (s : State) (a b : Agent) (i : Nat) (g : Slot → Slot) : (s.setSlot a i g).regionOf b = s.regionOf b :=
  regionOf_of_calm (calm_setSlot s a i g) b

/-- Two data heads at ISECT: equal coordinates are taken and sent, of unequal ones the lower is dropped. -/
theorem streamToken_isect {s : State} {a : Agent} {i : Nat} {w : Win} {sl : Slot} {f : FmtT} {e : StrEng} {x y : Arrival}
    {xs ys : List Arrival} (hw : s.win a = some w) (hsl : w.slots[i]? = some sl) (hst : sl.st = .running)
    (hf : s.fieldsAt a w.baddr i = some (0x73, .t f)) (heng : sl.eng = .stream e) (hheld : e.held = false)
    (hact : (s.task a).st = .active) (hl : sl.l.q = x :: xs) (hr : sl.r.q = y :: ys) (hx : x.at0 ≤ s.cycle) (hy : y.at0 ≤ s.cycle)
    (hxs : x.tok.stop = 0) (hys : y.tok.stop = 0) :
    let t := s.moved (s.regionOf a)
    let popL (u : State) : State := u.setSlot a i fun sl => { sl with l := sl.l.pop }
    let popR (u : State) : State := u.setSlot a i fun sl => { sl with r := sl.r.pop }
    let cx := x.tok.w64 % 2 ^ 32
    let cy := y.tok.w64 % 2 ^ 32
    exec (.streamToken a i) s = .next
      (if cx = cy then (popR ((popL t).moved (t.regionOf a))).strSend a i 0x73 (.t f) (wordTok x.tok.w64) (wordTok y.tok.w64)
       else if cx < cy then popL t else popR t) := by
  intro t popL popR cx cy
  have hheadL : s.strHead a 0x73 (.t f) sl .l = some x.tok := by
    unfold State.strHead State.offered
    rw [show (sl.fld .l).q = x :: xs from hl]
    exact if_pos hx
  have hheadR : s.strHead a 0x73 (.t f) sl .r = some y.tok := by
    unfold State.strHead State.offered
    rw [show (sl.fld .r).q = y :: ys from hr]
    exact if_pos hy
  have hpopL : ∀ u : State, u.strPop a i 0x73 (.t f) sl .l = popL (u.moved (u.regionOf a)) := fun u => by
    unfold State.strPop
    rw [show (sl.fld .l).q = x :: xs from hl]
    rfl
  have hpopR : ∀ u : State, u.strPop a i 0x73 (.t f) sl .r = popR (u.moved (u.regionOf a)) := fun u => by
    unfold State.strPop
    rw [show (sl.fld .r).q = y :: ys from hr]
    rfl
  have hregion : (popL t).regionOf a = t.regionOf a := regionOf_setSlot ..
  have hstep : s.stepStream a i 0x73 f sl e = s.stepJoin a i 0x73 f sl := rfl
  change execStreamToken a i s = _
  unfold execStreamToken
  rw [hw]
  dsimp only
  rw [hsl, hf]
  dsimp only
  rw [hst, heng]
  dsimp only
  rw [if_neg (by simp [hheld, hact]), hstep]
  unfold State.stepJoin
  dsimp only
  rw [hheadL, hheadR]
  dsimp only
  rw [hpopL, hpopR, hpopR, if_neg (by simp [hxs]), if_neg (by simp [hys]), if_neg (by simp [hxs]), hregion]
  rfl

/-! ## A row of MMROW (R340) -/

theorem fieldsAt_of_store {s t : State} {a : Agent} (h : t.blockStore a = s.blockStore a) (b i : Nat) : t.fieldsAt a b i = s.fieldsAt a b i := by
  simp only [State.fieldsAt, State.instrAt, h]

/-- A row that is done: its accumulator, its slot without further tokens, and the tokens that its block keeps for it. -/
structure RowDone (d p k i : Nat) (f : FmtT) (acc : Table AccRec) (toks : Option (List Token)) (s : State) : Prop where
  acc : (s.matOf (.task d p k)).acc = acc
  idle : (s.matOf (.task d p k)).row = none
  slot : ∃ w sl, s.win (.task d p k) = some w ∧ w.slots[i]? = some sl ∧ sl.l.q = [] ∧ sl.st = .fired ∧
    w.kept.find i = toks ∧ s.fieldsAt (.task d p k) w.baddr i = some (0x62, .t f)

section
variable {d p k i : Nat} {f : FmtT} {acc : Table AccRec} {toks : Option (List Token)} {s t : State}

/-- A state that keeps the task, the words of its blocks and the matrix unit's records and idleness keeps a done row. -/
theorem RowDone.of_kept (h : RowDone d p k i f acc toks s) (hwin : t.win (.task d p k) = s.win (.task d p k))
    (hstore : t.blockStore (.task d p k) = s.blockStore (.task d p k)) (hacc : (t.matOf (.task d p k)).acc = (s.matOf (.task d p k)).acc)
    (hidle : (s.matOf (.task d p k)).row = none → (t.matOf (.task d p k)).row = none) : RowDone d p k i f acc toks t := by
  obtain ⟨w, sl, hw, hsl, hq, hst, hkept, hf⟩ := h.slot
  exact ⟨hacc.trans h.acc, hidle h.idle, w, sl, hwin.trans hw, hsl, hq, hst, hkept, (fieldsAt_of_store hstore ..).trans hf⟩

theorem RowDone.of_cell (h : RowDone d p k i f acc toks s) (htask : t.task (.task d p k) = s.task (.task d p k))
    (hcell : (t.cell (cellKey d p)).cctxs = (s.cell (cellKey d p)).cctxs)
    (hacc : (t.cell (cellKey d p)).mat.acc = (s.cell (cellKey d p)).mat.acc)
    (hidle : (s.cell (cellKey d p)).mat.row = none → (t.cell (cellKey d p)).mat.row = none) : RowDone d p k i f acc toks t := by
  have htask' : (t.cell (cellKey d p)).task k = (s.cell (cellKey d p)).task k := htask
  refine h.of_kept (congrArg TaskCtx.win htask) ?_ hacc hidle
  simp only [State.blockStore, State.cfgOf, Cell.cctx, hcell, htask']

/-- A change of the task's own window that keeps the row's slot as it is. -/
theorem RowDone.window (h : RowDone d p k i f acc toks s) (g : Win → Win) {toks' : Option (List Token)}
    (hkept : ∀ w, w.kept.find i = toks → (g w).kept.find i = toks') (hbaddr : ∀ w, (g w).baddr = w.baddr)
    (hslot : ∀ w sl, w.slots[i]? = some sl → sl.l.q = [] → ∃ sl', (g w).slots[i]? = some sl' ∧ sl'.l.q = [] ∧ sl'.st = sl.st) :
    RowDone d p k i f acc toks' (s.modWin (.task d p k) g) := by
  obtain ⟨w, sl, hw, hsl, hq, hst, hk, hf⟩ := h.slot
  obtain ⟨sl', hsl', hq', hst'⟩ := hslot w sl hsl hq
  have hcalm := calm_modWin s (.task d p k) g
  have hmat : (s.modWin (.task d p k) g).matOf (.task d p k) = s.matOf (.task d p k) :=
    (congrArg Cell.mat (cell_of_calm hcalm (cellKey d p)) :)
  refine ⟨hmat ▸ h.acc, hmat ▸ h.idle, g w, sl', by rw [win_modWin_same, hw]; rfl, hsl', hq', hst'.trans hst, hkept w hk, ?_⟩
  rw [hbaddr, fieldsAt_of_store (blockStore_of_calm hcalm _), hf]

theorem RowDone.keep (h : RowDone d p k i f acc toks s) (l : List Token) : RowDone d p k i f acc (some l) (s.keep (.task d p k) i l) :=
  h.window _ (fun _ _ => find_put_same ..) (fun _ => rfl) fun _ sl hsl hq => ⟨sl, hsl, hq, rfl⟩

theorem RowDone.setSlot (h : RowDone d p k i f acc toks s) (n : Nat) (g : Slot → Slot)
    (hg : n = i → ∀ sl, sl.l.q = [] → (g sl).l.q = [] ∧ (g sl).st = sl.st) : RowDone d p k i f acc toks (s.setSlot (.task d p k) n g) := by
  refine h.window (fun w => { w with slots := listModify w.slots n g }) (fun _ hk => hk) (fun _ => rfl) fun w sl hsl hq => ?_
  dsimp only
  rw [getElem?_listModify]
  by_cases hn : n = i
  · obtain ⟨hq', hst'⟩ := hg hn sl hq
    exact ⟨g sl, by rw [if_pos hn, hsl]; rfl, hq', hst'⟩
  · exact ⟨sl, by rw [if_neg hn, hsl], hq, rfl⟩

theorem RowDone.of_memOp (h : RowDone d p k i f acc toks s) (hop : MemOp s t) : RowDone d p k i f acc toks t := by
  have hcell := hop.untiled (cellKey d p)
  exact h.of_cell (hop.task _) (congrArg Cell.cctxs hcell :) (congrArg (fun c : Cell => c.mat.acc) hcell :)
    fun hrow => (congrArg (fun c : Cell => c.mat.row) hcell :).trans hrow

theorem RowDone.modRegion (h : RowDone d p k i f acc toks s) (n : Nat) (g : Region → Region) : RowDone d p k i f acc toks (s.modRegion n g) := by
  have hcell : (s.modRegion n g).cells = s.cells := by unfold State.modRegion; split <;> rfl
  have hat : (s.modRegion n g).cell (cellKey d p) = s.cell (cellKey d p) := by unfold State.cell; rw [hcell]
  exact h.of_cell (task_modRegion ..) (by rw [hat]) (by rw [hat]) (by rw [hat]; exact id)

/-- What keeps cells and tasks keeps a done row. -/
theorem RowDone.of_cells (h : RowDone d p k i f acc toks s) (hcells : t.cells = s.cells) : RowDone d p k i f acc toks t := by
  have hat : t.cell (cellKey d p) = s.cell (cellKey d p) := by unfold State.cell; rw [hcells]
  have htask : t.task (.task d p k) = s.task (.task d p k) := (congrArg (fun c : Cell => c.task k) hat :)
  exact h.of_cell htask (by rw [hat]) (by rw [hat]) (by rw [hat]; exact id)

theorem RowDone.modTask (h : RowDone d p k i f acc toks s) (g : TaskCtx → TaskCtx) (hwin : ∀ t, (g t).win = t.win) (hcctx : ∀ t, (g t).cctx = t.cctx) :
    RowDone d p k i f acc toks (s.modTask (.task d p k) g) := by
  have hmat : (s.modTask (.task d p k) g).matOf (.task d p k) = s.matOf (.task d p k) := by
    change ((s.modCell (cellKey d p) _).cell (cellKey d p)).mat = _
    rw [cell_modCell_same]
    rfl
  refine h.of_kept (win_modTask_of _ _ hwin) ?_ (by rw [hmat]) (by rw [hmat]; exact id)
  exact blockStore_congr (by rw [task_modTask_same, hcctx]) (cctxs_modTask s _ g) (blocks_modTask s _ g)

theorem RowDone.stopBlock (h : RowDone d p k i f acc toks s) (r : FaultRec) (seq : Nat) : RowDone d p k i f acc toks (s.stopBlock (.task d p k) r seq) := by
  let u : State := { s.modTask (.task d p k) (fun t => t.faulted r) with
    accs := (s.modTask (.task d p k) (fun t => t.faulted r)).accs.filter fun x => !withdrawn (.task d p k) seq x
    kills := (s.modTask (.task d p k) (fun t => t.faulted r)).kills.filter fun m => !(m.agent == .task d p k && m.seq == seq) }
  have hu : RowDone d p k i f acc toks u := (h.modTask (fun t => t.faulted r) (fun _ => rfl) fun _ => rfl).of_cells rfl
  have hlet : RowDone d p k i f acc toks (u.letClaims fun x => x.agent == .task d p k && x.seq == seq) := hu.of_memOp (memOp_letClaims ..)
  exact hlet.of_cells rfl

theorem RowDone.abandon (h : RowDone d p k i f acc toks s) (seq : Nat) :
    RowDone d p k i f acc toks (s.modCell (cellKey d p) fun c => { c with mat := c.mat.abandon k seq }) := by
  refine h.of_cell (task_modCell_of (f := fun c : Cell => { c with mat := c.mat.abandon k seq }) s _ rfl _) ?_ ?_ fun hrow => ?_
  · rw [cell_modCell_same]
  · rw [cell_modCell_same]
    rfl
  · rw [cell_modCell_same]
    change (if (s.cell (cellKey d p)).mat.row == some k then none else (s.cell (cellKey d p)).mat.row) = none
    rw [hrow]
    rfl

theorem RowDone.report (h : RowDone d p k i f acc toks s) (n : Nat) (r : FaultRec) (quiet : Bool) : RowDone d p k i f acc toks (s.report n r quiet) :=
  (h.of_memOp (memOp_logPointers ..)).modRegion ..

/-- A fault of the task lets its row go, and no row stands. -/
theorem RowDone.takeFault (h : RowDone d p k i f acc toks s) (r : FaultRec) : RowDone d p k i f acc toks (s.takeFault (.task d p k) r) := by
  obtain ⟨cols, seq, heq⟩ := takeFault_task_eq s d p k r
  have hfold : ∀ u, RowDone d p k i f acc toks u →
      RowDone d p k i f acc toks (cols.foldl (fun t c => t.freeColour (s.regionOf (.task d p k)) c) u) := by
    clear heq
    induction cols with
    | nil => exact fun _ hu => hu
    | cons c cols ih => exact fun u hu => ih _ (hu.modRegion ..)
  rw [heq]
  exact ((hfold _ ((h.stopBlock r seq).abandon seq)).modRegion _ _).report _ _ _

theorem RowDone.blockFault (h : RowDone d p k i f acc toks s) (slot : Option Nat) (c dt addr : Nat) :
    RowDone d p k i f acc toks (s.blockFault (.task d p k) slot c dt addr) := by
  unfold State.blockFault
  split
  · exact (h.takeFault _).of_memOp (memOp_traceEvent ..)
  · exact h

/-- A token that a done row's slot is sent changes nothing in it: its field would be a fault, any other discards it. -/
theorem RowDone.give (h : RowDone d p k i f acc toks s) (hf : f.sh = .vector) (j n : Nat) (fd : Fld) (tok : Token) (lat : Nat) :
    RowDone d p k i f acc toks (s.give (.task d p k) j n fd tok lat) := by
  have hset : ∀ v : Slot → FieldSt, (∀ sl, n = i → fd = .l → sl.l.q = [] → (v sl).q = []) →
      RowDone d p k i f acc toks (s.setSlot (.task d p k) n fun sl => sl.setFld fd (v sl)) := fun v hv =>
    h.setSlot n _ fun hn sl hq => ⟨by
      by_cases hfd : fd = .l
      · subst hfd
        exact hv sl hn rfl hq
      · exact (congrArg FieldSt.q (fld_setFld_ne sl (fd := fd) (z := .l) (Ne.symm hfd) (v sl)) :).trans hq, st_setFld ..⟩
  have hsame : ∀ sl : Slot, n = i → fd = .l → sl.l.q = [] → (sl.fld fd).q = [] := fun sl _ hfd hq => by rw [hfd]; exact hq
  obtain ⟨w, sl, hw, hsl, hq, hst, -, hfields⟩ := h.slot
  unfold State.give
  rw [hw]
  dsimp only
  split
  next sl' op f' hsl' hf' =>
    split
    · exact hset _ hsame
    split
    · split <;> exact h.blockFault ..
    · exact h.blockFault ..
    · exact hset _ hsame
    · next hreach =>
      have hother : n = i → fd ≠ .l := fun hn hfd => by
        subst hn hfd
        cases Option.some.inj (hsl.symm.trans hsl')
        cases Option.some.inj (hfields.symm.trans hf')
        have hfld : digitField 0x62 (.t f) .l = false := by
          unfold digitField
          rw [show (Fmt.t f).sh = .vector from hf]
          rfl
        have hop : reach 0x62 (.t f) sl .l tok = .operand := by
          unfold reach
          dsimp only
          rw [hfld, hst]
          rfl
        rw [hop] at hreach
        cases hreach
      split
      · exact hset _ hsame
      · exact hset _ fun sl hn hfd => absurd hfd (hother hn)
  · exact h

/-- So does a token that leaves for a register or a channel. -/
theorem RowDone.send (h : RowDone d p k i f acc toks s) (hf : f.sh = .vector) (j op : Nat) (g : Fmt) (tgt : Target) (tok : Token) (lat : Nat) :
    RowDone d p k i f acc toks (s.send (.task d p k) j op g tgt tok lat) := by
  have hregs : ∀ n v, RowDone d p k i f acc toks (s.giveReg (.task d p k) j n v) := fun n v => by
    unfold State.giveReg
    split
    · exact h
    split
    · exact h.blockFault ..
    · exact h.window _ (fun _ hk => hk) (fun _ => rfl) fun _ sl hsl hq => ⟨sl, hsl, hq, rfl⟩
  unfold State.send
  split
  · exact h
  split
  · exact h
  · exact h.give hf ..
  · exact hregs ..
  · exact hregs ..
  · unfold State.giveChan
    split
    · exact h
    split
    · exact h
    dsimp only
    split
    · refine h.of_cell (task_modCell_of _ _ ?_ _) ?_ ?_ ?_
      · rfl
      all_goals rw [cell_modCell_same]
      · rfl
      · rfl
      · exact id
    · exact h.window _ (fun _ hk => hk) (fun _ => rfl) fun _ sl hsl hq => ⟨sl, hsl, hq, rfl⟩

theorem RowDone.sendBoth (h : RowDone d p k i f acc toks s) (hf : f.sh = .vector) (j op : Nat) (g : Fmt) (tok : Token) (lat : Nat) :
    RowDone d p k i f acc toks (s.sendBoth (.task d p k) j op g tok lat) := (h.send hf ..).send hf ..

/-- A done row has no token in excess. -/
theorem RowDone.rowExcess (h : RowDone d p k i f acc toks s) : s.rowExcess (.task d p k) i = s := by
  obtain ⟨w, sl, hw, hsl, hq, -, -, -⟩ := h.slot
  unfold State.rowExcess
  dsimp only
  rw [hw]
  refine if_neg ?_
  simp [optB, hsl, hq]

end

/-! ### A vector token of a row -/

theorem acc_addBlock (m : Matrix) (n b : Nat) (k : RowBlock) : (m.addBlock n b k).row = m.row ∧ (m.addBlock n b k).t0 = m.t0 := by
  unfold Matrix.addBlock
  generalize List.range 64 = cs
  induction cs generalizing m with
  | nil => exact ⟨rfl, rfl⟩
  | cons c cs ih => exact ih _

/-- What a change of a cell's matrix unit leaves of its tasks: their contexts, their windows and their blocks. -/
theorem matOf_modMat (s : State) (d p k : Nat) (g : Matrix → Matrix) :
    (s.modMat (.task d p k) g).matOf (.task d p k) = g (s.matOf (.task d p k)) ∧
    (s.modMat (.task d p k) g).task (.task d p k) = s.task (.task d p k) ∧
    (s.modMat (.task d p k) g).win (.task d p k) = s.win (.task d p k) ∧
    ∀ b i, (s.modMat (.task d p k) g).fieldsAt (.task d p k) b i = s.fieldsAt (.task d p k) b i := by
  have hcell : (s.modMat (.task d p k) g).cell (cellKey d p) = { s.cell (cellKey d p) with mat := g (s.cell (cellKey d p)).mat } :=
    cell_modCell_same ..
  have htask : (s.modMat (.task d p k) g).task (.task d p k) = s.task (.task d p k) := (congrArg (fun c : Cell => c.task k) hcell :)
  have hctx : ((s.modMat (.task d p k) g).cell (cellKey d p)).cctxs = (s.cell (cellKey d p)).cctxs := (congrArg Cell.cctxs hcell :)
  have hsame : ((s.modMat (.task d p k) g).cell (cellKey d p)).task k = (s.cell (cellKey d p)).task k := htask
  have hstore : (s.modMat (.task d p k) g).blockStore (.task d p k) = s.blockStore (.task d p k) := by
    simp only [State.blockStore, State.cfgOf, Cell.cctx, hctx, hsame]
  exact ⟨(congrArg Cell.mat hcell :), htask, (congrArg TaskCtx.win htask :), fun _ _ => fieldsAt_of_store hstore ..⟩

/-- A finished row of a first attempt. -/
theorem rowDone_finishRow {s : State} {d p k i : Nat} {f : FmtT} {e : StrEng} {w : Win} {sl : Slot} (hf : f.sh = .vector)
    (hagain : e.again = false) (hw : s.win (.task d p k) = some w) (hsl : w.slots[i]? = some sl) (hq : sl.l.q = [])
    (hfields : s.fieldsAt (.task d p k) w.baddr i = some (0x62, .t f)) :
    RowDone d p k i f (s.matOf (.task d p k)).acc (some [wordTok 0]) (s.finishRow (.task d p k) i f e) := by
  let idle := s.modMat (.task d p k) fun m => { m with row := none }
  obtain ⟨hmat, -, hwin, hfieldsAt⟩ := matOf_modMat s d p k fun m => { m with row := none }
  have hfired : RowDone d p k i f (s.matOf (.task d p k)).acc (w.kept.find i)
      (idle.setSlot (.task d p k) i fun sl => { sl with st := .fired, eng := .none }) := by
    let fire (sl : Slot) : Slot := { sl with st := .fired, eng := .none }
    have hcalm := calm_setSlot idle (.task d p k) i fun sl => { sl with st := .fired, eng := .none }
    have hsame : (idle.setSlot (.task d p k) i fire).matOf (.task d p k) = idle.matOf (.task d p k) :=
      (congrArg Cell.mat (cell_of_calm hcalm (cellKey d p)) :)
    refine ⟨(congrArg Matrix.acc hsame).trans (congrArg Matrix.acc hmat :), (congrArg Matrix.row hsame).trans (congrArg Matrix.row hmat :), { w with slots := listModify w.slots i fire }, fire sl,
      ?_, ?_, hq, rfl, rfl, ?_⟩
    · rw [win_setSlot, show idle.win (.task d p k) = some w from hwin.trans hw]
      rfl
    · rw [getElem?_listModify, if_pos rfl, hsl]
      rfl
    · rw [fieldsAt_of_store (blockStore_of_calm hcalm _), hfieldsAt, hfields]
  unfold State.finishRow
  dsimp only
  rw [hagain, if_neg (by decide)]
  refine RowDone.sendBoth (RowDone.keep (toks := w.kept.find i) ?_ _) hf _ _ _ _ _
  split
  · exact ((hfired.modRegion _ _).modRegion _ _).modRegion _ _
  · exact hfired.modRegion _ _

/-- The block of the last token of a row finishes it; any other moves its place on by one. -/
theorem addRowBlock_row {s : State} {d p k i : Nat} {f : FmtT} {de : DigEng} {e : StrEng} {b : RowBlock} {w : Win} {sl : Slot}
    (hf : f.sh = .vector) (hagain : e.again = false) (hw : s.win (.task d p k) = some w) (hsl : w.slots[i]? = some sl)
    (hrun : sl.st = .running) (hfields : s.fieldsAt (.task d p k) w.baddr i = some (0x62, .t f))
    (hlast : 32 * (e.i + 1) = (s.matOf (.task d p k)).t0.k → sl.l.q = []) :
    ∃ w' sl', ((s.addRowBlock (.task d p k) i f de e b).matOf (.task d p k)).acc =
        ((s.matOf (.task d p k)).addBlock (f.aux.toNat % 4) e.i b).acc ∧
      (s.addRowBlock (.task d p k) i f de e b).win (.task d p k) = some w' ∧ w'.slots[i]? = some sl' ∧ sl'.l.q = sl.l.q ∧
      (32 * (e.i + 1) ≠ (s.matOf (.task d p k)).t0.k →
        ((s.addRowBlock (.task d p k) i f de e b).matOf (.task d p k)).row = (s.matOf (.task d p k)).row ∧ sl'.st = .running ∧
        ∃ e2, sl'.eng = .row de e2 ∧ e2.i = e.i + 1 ∧ e2.cur = none) ∧
      (32 * (e.i + 1) = (s.matOf (.task d p k)).t0.k →
        ((s.addRowBlock (.task d p k) i f de e b).matOf (.task d p k)).row = none ∧ sl'.st = .fired ∧
        w'.kept.find i = some [wordTok 0]) := by
  let added := s.modMat (.task d p k) fun m => m.addBlock (f.aux.toNat % 4) e.i b
  obtain ⟨hmat, -, hsame, hfieldsAt⟩ := matOf_modMat s d p k fun m => m.addBlock (f.aux.toNat % 4) e.i b
  have hwin : added.win (.task d p k) = some w := hsame.trans hw
  unfold State.addRowBlock
  dsimp only
  rw [hagain]
  simp only [Bool.false_eq_true, if_false]
  by_cases hend : 32 * (e.i + 1) = (s.matOf (.task d p k)).t0.k
  · rw [if_pos hend]
    have hdone := rowDone_finishRow (e := { e with i := e.i + 1, cur := none, tag := some (joinTag e.tag (blockTag f e.cur))
                                                   special := e.special || b.bnan || b.vals.any fun v => v.2 = 1 || v.2 = 2 || v.2 = 3
                                                   again := false })
      hf rfl hwin hsl (hlast hend) ((hfieldsAt ..).trans hfields)
    rw [hdone.rowExcess]
    obtain ⟨w', sl', hw', hsl', hq', hst', hkept', -⟩ := hdone.slot
    exact ⟨w', sl', hdone.acc.trans (congrArg Matrix.acc hmat), hw', hsl', hq'.trans (hlast hend).symm, fun h => absurd hend h,
      fun _ => ⟨hdone.idle, hst', hkept'⟩⟩
  · rw [if_neg hend]
    let next (sl : Slot) : Slot := { sl with eng := .row de { e with
      i := e.i + 1, cur := none, tag := some (joinTag e.tag (blockTag f e.cur))
      special := e.special || b.bnan || b.vals.any fun v => v.2 = 1 || v.2 = 2 || v.2 = 3
      again := false } }
    have hset : (added.setSlot (.task d p k) i next).matOf (.task d p k) = added.matOf (.task d p k) :=
      (congrArg Cell.mat (cell_of_calm (calm_setSlot added (.task d p k) i next) (cellKey d p)) :)
    refine ⟨{ w with slots := listModify w.slots i next }, next sl, (congrArg Matrix.acc hset).trans (congrArg Matrix.acc hmat), ?_, ?_, rfl,
      fun _ => ⟨((congrArg Matrix.row hset).trans (congrArg Matrix.row hmat)).trans (acc_addBlock ..).1, hrun, _, rfl, rfl, rfl⟩, fun h => absurd h hend⟩
    · rw [win_setSlot, hwin]
      rfl
    · rw [getElem?_listModify, if_pos rfl, hsl]
      rfl

/-- A row takes the vector token that waits first. -/
theorem rowToken_vector {s : State} {a : Agent} {i : Nat} {f : FmtT} {de : DigEng} {e : StrEng} {y : Arrival}
    (hf : f.sh = .vector) (hkind : y.tok.kind = .vector) (hstop : y.tok.stop = 0) :
    s.rowToken a i f de e y = (s.setSlot a i fun sl => { sl with l := { sl.l with q := sl.l.q.tail } }).addRowBlock a i f de e
      (wordBlock f.ty (decide (pSoff e.pat ≠ 0)) e.cur y.tok) := by
  have hdrop : ∀ q : List Arrival,
      dropThrough (fun z => rowFits f de z || ((de.heads[0]?).getD none).isNone) (rowFits f de) q = q.tail := by
    intro q
    cases q with
    | nil => rfl
    | cons z q => simp [dropThrough, rowFits, hf]
  unfold State.rowToken
  dsimp only
  simp only [hdrop, hf, hkind, hstop]
  rfl

/-- MATRIX_ROW_ADD gives a running row the first token it may take. -/
theorem matrixRowAdd_takes {s : State} {a : Agent} {i op : Nat} {w : Win} {sl : Slot} {f : FmtT} {de : DigEng} {e : StrEng} {y : Arrival}
    (hw : s.win a = some w) (hsl : w.slots[i]? = some sl) (hst : sl.st = .running) (hf : s.fieldsAt a w.baddr i = some (op, .t f))
    (heng : sl.eng = .row de e) (hy : sl.l.q.find? (rowFits f de) = some y) (hat : y.at0 ≤ s.cycle) :
    exec (.matrixRowAdd a i) s = .next ((s.moved (s.regionOf a)).rowToken a i f de e y) := by
  change execMatrixRowAdd a i s = _
  unfold execMatrixRowAdd
  rw [hw]
  dsimp only
  rw [hsl, hf]
  dsimp only
  rw [hst, heng]
  dsimp only
  rw [hy]
  exact if_pos hat

theorem streamToken_steps {s : State} {a : Agent} {i op : Nat} {w : Win} {sl : Slot} {f : FmtT} {e : StrEng} (hw : s.win a = some w)
    (hsl : w.slots[i]? = some sl) (hst : sl.st = .running) (hf : s.fieldsAt a w.baddr i = some (op, .t f))
    (heng : sl.eng = .stream e) (hheld : e.held = false) (hact : (s.task a).st = .active) :
    exec (.streamToken a i) s = .next (s.stepStream a i op f sl e) := by
  change execStreamToken a i s = _
  unfold execStreamToken
  rw [hw]
  dsimp only
  rw [hsl, hf]
  dsimp only
  rw [hst, heng]
  exact if_neg (by simp [hheld, hact])

theorem fieldsAt_modRegion (s : State) (a : Agent) (k b i : Nat) (g : Region → Region) :
    (s.modRegion k g).fieldsAt a b i = s.fieldsAt a b i := fieldsAt_of_store (blockStore_modRegion ..) b i

/-- A row of MMROW takes the vector token at its head. -/
theorem matrixRowAdd_vector {s : State} {d p k i : Nat} {w : Win} {sl : Slot} {f : FmtT} {de : DigEng} {e : StrEng} {y : Arrival}
    {r : List Arrival} (hw : s.win (.task d p k) = some w) (hsl : w.slots[i]? = some sl) (hst : sl.st = .running)
    (hf : s.fieldsAt (.task d p k) w.baddr i = some (0x62, .t f)) (heng : sl.eng = .row de e) (hagain : e.again = false)
    (hvec : f.sh = .vector) (hq : sl.l.q = y :: r) (hat : y.at0 ≤ s.cycle) (hkind : y.tok.kind = .vector) (hstop : y.tok.stop = 0)
    (hlast : 32 * (e.i + 1) = (s.matOf (.task d p k)).t0.k → r = []) :
    let a := Agent.task d p k
    let m := s.matOf a
    let b := wordBlock f.ty (decide (pSoff e.pat ≠ 0)) e.cur y.tok
    ∃ u w' sl', exec (.matrixRowAdd a i) s = .next u ∧ (u.matOf a).acc = (m.addBlock (f.aux.toNat % 4) e.i b).acc ∧
      u.win a = some w' ∧ w'.slots[i]? = some sl' ∧ sl'.l.q = r ∧
      (32 * (e.i + 1) ≠ m.t0.k → (u.matOf a).row = m.row ∧ sl'.st = .running ∧ ∃ e2, sl'.eng = .row de e2 ∧ e2.i = e.i + 1 ∧ e2.cur = none) ∧
      (32 * (e.i + 1) = m.t0.k → (u.matOf a).row = none ∧ sl'.st = .fired ∧ w'.kept.find i = some [wordTok 0]) := by
  intro a m b
  let pop (sl : Slot) : Slot := { sl with l := { sl.l with q := sl.l.q.tail } }
  let taken := (s.moved (s.regionOf a)).setSlot a i pop
  have hmoved : (s.moved (s.regionOf a)).calm = s.calm := calm_modRegion _ _ fun _ => rfl
  have hcalm : taken.calm = s.calm := (calm_setSlot _ a i pop).trans hmoved
  have hmat : taken.matOf a = m := (congrArg Cell.mat (cell_of_calm hcalm (cellKey d p)) :)
  have hwin : taken.win a = some { w with slots := listModify w.slots i pop } := by
    rw [win_setSlot, show (s.moved (s.regionOf a)).win a = some w from (win_modRegion ..).trans hw]
    rfl
  have hslot : (listModify w.slots i pop)[i]? = some (pop sl) := by
    rw [getElem?_listModify, if_pos rfl, hsl]
    rfl
  have hfields : taken.fieldsAt a w.baddr i = some (0x62, .t f) := (fieldsAt_of_store (blockStore_of_calm hcalm a) ..).trans hf
  have hq' : (pop sl).l.q = r := congrArg List.tail hq
  obtain ⟨w', sl', hacc, hw', hsl', hr, hmore, hdone⟩ := addRowBlock_row (b := b) (de := de) hvec hagain hwin hslot hst hfields
    fun h => hq'.trans (hlast (h.trans (congrArg (·.t0.k) hmat)))
  rw [show taken.matOf (.task d p k) = m from hmat] at hacc hmore hdone
  refine ⟨_, w', sl', ?_, hacc, hw', hsl', hr.trans hq', hmore, hdone⟩
  rw [matrixRowAdd_takes (y := y) hw hsl hst hf heng (by rw [hq]; simp [rowFits, hvec]) hat, rowToken_vector hvec hkind hstop]

/-- Settles O32: each running engine by the equation of its step, a kill by what its message does to the engine's lanes. -/
theorem digitEngines : Obligations.DigitEngines := by
  unfold Obligations.DigitEngines
  refine ⟨?_, ?_, ?_, ?_, ?_⟩
  · intro s a i w sl hw hsl hst t
    refine ⟨?_, ?_, ?_, ?_⟩
    · intro op g e hf heng hok
      exact digitStep_runs hw hsl hst hf heng hok
    · intro op f d e y hf heng hy hat
      exact matrixRowAdd_takes hw hsl hst hf heng hy hat
    · intro op f e hf heng hheld hact
      exact streamToken_steps hw hsl hst hf heng hheld hact
    · intro n m hm ha hi hseq op g e hf heng
      exact killMessage_ended hm ha hi hw hseq hsl hf hst heng
  · intro s n i m w sl op g e hm hrcv hi hw hseq hsl hf hst heng
    exact killMessage_own hm hrcv hi hw hseq hsl hf hst heng
  · intro s a i w sl g e hw hsl hst heng hfault t ended pd vec r
    have hwt : t.win a = some w := (win_modRegion ..).trans hw
    have hfaultT : (t.task a).fault = none := (congrArg TaskCtx.fault (task_modRegion ..)).trans hfault
    refine ⟨?_, ?_, ?_⟩
    · intro hf hchan hq hend hdigs
      rw [digitStep_runs hw hsl hst hf heng (.inl hfault), if_pos rfl]
      exact congrArg _ (stepSink_rounds hwt hsl hfaultT hchan hq hend hdigs)
    · intro hf hhead ha hb hend j digit ds tok
      rw [digitStep_runs hw hsl hst hf heng (.inl hfault), if_neg (by decide), if_neg (by decide)]
      exact congrArg _ (stepPlain_source i hfaultT hhead ha hb hend)
    · intro n m hm hrcv hagent hi hseq htarget hf ha hb old new own e' u
      subst hagent
      rw [killMessage_own hm hrcv hi hw hseq.symm hsl hf hst heng, settleDigit_source ha hb]
  · intro s d p k i w sl f de e y r a hw hsl hst hf heng hagain hvec hq hat hkind hstop m b hlast
    exact matrixRowAdd_vector hw hsl hst hf heng hagain hvec hq hat hkind hstop hlast
  · intro s a i w sl f e x y xs ys hw hsl hst hf heng hheld hact hl hr hx hy hxs hys
    exact streamToken_isect hw hsl hst hf heng hheld hact hl hr hx hy hxs hys

end Sys2Proof.Machine

/-! # Proofs: the steps of a copy, and the record a copy stands at -/

namespace Sys2Proof.Machine

/-- The descriptor of a COPY of eight bytes from address 0 to address 4096, without a stamp. -/
def pausedWords : List Word := [0, 4096, 8, 0, 0, 0, 0, 0]

/-- The LINK_DOWN record that the copy's read has left in the mailbox of its region. -/
def linkRecord : FaultRec := State.reset.bareRecord 1 fcLinkDown 0 0

/-- The copy runs at its first chunk, and waits for the RESUME of that record. -/
def pausedCopy : Copy :=
  { num := 0, batch := 0, cfg := { (placedRegion 0).cfg with phys := true }, ln := 0, desc := some pausedWords, st := 1, eng := 0, pos := 0
    stage := 0, size := 0, due := 0, todo := [], acc := none, held := 0, gen := 1, fail := none, cancelled := false, ghost := false
    result := 0, region := 1, down := some linkRecord }

/-- The region frozen with that record; the link of I/O die 0 is up again, and the home of the source ready. -/
def pausedState : State :=
  { State.reset with
    regions := [(1, { placedRegion 0 with mail := some linkRecord })], readyBits := [64, 2224]
    copyqs := [(0, { batch := 0, num := 1, copies := [pausedCopy], err := false })] }

def ChunkRes.isOk : ChunkRes → Bool | .ok .. => true | _ => false

theorem ChunkRes.isOk_iff {r : ChunkRes} : r.isOk = true ↔ ∃ t todo size gen, r = .ok t todo size gen := by
  cases r with
  | ok t todo size gen => exact ⟨fun _ => ⟨t, todo, size, gen, rfl⟩, fun _ => rfl⟩
  | _ => exact ⟨fun h => Bool.noConfusion h, fun ⟨_, _, _, _, h⟩ => by cases h⟩

/-- A copy of a changed number has been changed. -/
theorem mem_modCopy {s : State} {q n : Nat} {g : Copy → Copy} {c : Copy} (hc : c ∈ ((s.modCopy q n g).copyq q).copies) :
    (∃ b ∈ (s.copyq q).copies, b.num = n ∧ c = g b) ∨ (c ∈ (s.copyq q).copies ∧ c.num ≠ n) := by
  rw [State.modCopy, State.modCopyq, State.copyq, get_put_same, List.mem_map] at hc
  obtain ⟨b, hb, rfl⟩ := hc
  split
  · exact .inl ⟨b, hb, ‹_›, rfl⟩
  · exact .inr ⟨hb, ‹_›⟩

/-- Refutes O37: a copy whose read met a link that was down waits for the RESUME of that record. With the link up its next chunk could be
computed, but COPY_CHUNK leaves the copy as it is, so no writes stand ready. -/
theorem not_copySteps : ¬ Obligations.CopySteps := by
  intro h
  obtain ⟨-, -, hchunk, -⟩ := h pausedState 0 pausedCopy
  have hcomputed : (pausedState.computeChunk 0 pausedCopy []).isOk = true := by decide +kernel
  obtain ⟨t, todo, size, gen, hok⟩ := ChunkRes.isOk_iff.1 hcomputed
  have hwaits : pausedState.copyStage 0 0 = pausedState := by decide +kernel
  have hmoves := hchunk rfl rfl rfl rfl (by decide) t todo size gen hok
  have hmem : pausedCopy ∈ ((pausedState.copyStage 0 0).copyq 0).copies := by rw [hwaits]; exact List.mem_singleton.2 rfl
  rw [show pausedState.copyStage 0 0 = _ from hmoves] at hmem
  obtain ⟨b, -, -, heq⟩ | ⟨-, hne⟩ := mem_modCopy hmem
  · exact Nat.zero_ne_one (congrArg Copy.stage heq)
  · exact hne rfl

end Sys2Proof.Machine

/-! # Proofs: conditions, admission, gang requests and loads -/

namespace Sys2Proof.Machine

/-! ### Conditions -/

/-- Does an address translate to an ONCE page? -/
def Look.once : Look → Bool | .hit _ attr => decide (attr.kind = 1) | _ => false

theorem Look.once_false {l : Look} (h : ∀ pa attr, l = .hit pa attr → attr.kind ≠ 1) : l.once = false := by
  cases l with
  | hit pa attr => exact decide_eq_false (h pa attr rfl)
  | _ => rfl

section
variable {s : State} {id n : Nat} {r : LRec} (hr : s.rec? id = some r) (hwait : r.st = .waiting) (hn : n < rNcond r.words)
  (hheld : r.held.contains n = false)
include hr hwait hn hheld

/-- A condition of a waiting record whose word lies on an ONCE page refuses the record (R369). -/
theorem conditionSatisfied_once {pa : Nat} {attr : Attr}
    (hlook : (s.elemLook (fetchVia (min 64 r.qdie) r.cfg accRead) (rCva r.words n)).1 = .hit pa attr) (honce : attr.kind = 1) :
    exec (.conditionSatisfied id n) s = .next
      (((s.recClose id).noteFetch id (memDetail accRead 2)).refuseRec id lsCondfault (regionKey r.homeDie 0) none) := by
  change execConditionSatisfied id n s = _
  unfold execConditionSatisfied
  rw [hr]
  dsimp only
  rw [hwait, hheld, hlook, if_neg (by simp [hn])]
  exact if_pos (decide_eq_true honce)

/-- Any other condition of a waiting record reads its word. -/
theorem conditionSatisfied_reads
    (hlook : ∀ pa attr, (s.elemLook (fetchVia (min 64 r.qdie) r.cfg accRead) (rCva r.words n)).1 = .hit pa attr → attr.kind ≠ 1) :
    (∀ c a d, s.fetchBytes id (fetchVia (min 64 r.qdie) r.cfg accRead) (rCva r.words n) 8 = .bad c a d →
      exec (.conditionSatisfied id n) s = .next
        (((s.recClose id).noteFetch id d).refuseRec id lsCondfault (regionKey r.homeDie 0) none)) ∧
    (∀ t bs, s.fetchBytes id (fetchVia (min 64 r.qdie) r.cfg accRead) (rCva r.words n) 8 = .ok t bs →
      let u := (t.recClose id).modRec id fun x =>
        { x with held := n :: r.held, st := if rNcond x.words ≤ (n :: r.held).length then .ready else .waiting }
      exec (.conditionSatisfied id n) s = .next
        (if (word (leNat bs)).toInt < rCval r.words n then t.recClose id else if r.qdie < 64 then u.advanceGen r.qdie else u)) := by
  have honce := Look.once_false hlook
  refine ⟨?_, ?_⟩
  · intro c a d hbad
    change execConditionSatisfied id n s = _
    unfold execConditionSatisfied
    rw [hr]
    dsimp only
    rw [hwait, hheld, if_neg (by simp [hn])]
    refine (if_neg (ne_true_of_eq_false honce)).trans ?_
    rw [hbad]
  · intro t bs hok u
    change execConditionSatisfied id n s = _
    unfold execConditionSatisfied
    rw [hr]
    dsimp only
    rw [hwait, hheld, if_neg (by simp [hn])]
    refine (if_neg (ne_true_of_eq_false honce)).trans ?_
    rw [hok]
    dsimp only
    split
    · rfl
    · rfl

end

/-! ### Admission -/

section
variable {s : State} {d : Nat}
  (hvictim : (s.regions.find? fun e => keyDie e.1 = d && e.2.victim && e.2.st == .gating && e.2.settled) = none)
include hvictim

theorem admissionDecision_full (hfull : 256 ≤ (s.die d).events.length) : exec (.admissionDecision d) s = .next s := by
  change execAdmissionDecision d s = _
  unfold execAdmissionDecision
  dsimp only
  rw [hvictim]
  exact if_pos (by simp [hfull])

/-- A die's scheduler that is due judges its levels from the highest (R370, R374). -/
theorem admissionDecision_due (hd : d < 64) (hdue : (s.die d).lastDecision = 0 ∨ (s.die d).lastDecision + 63 ≤ s.cycle)
    (hroom : (s.die d).events.length < 256) (hheld : (s.die d).evHeld = [])
    (horder : ∀ e, d < e → e < 65 → (s.die e).lastDecision ≠ s.cycle + 1) (hcancel : (s.die d).cancelAt ≠ s.cycle + 1) :
    exec (.admissionDecision d) s = .next ((s.beginDecision d).decideLevels d (List.range 64).reverse) := by
  have hnot64 : d ≠ 64 := by omega
  have hwait : ((s.die d).lastDecision ≠ 0 && s.cycle < (s.die d).lastDecision + 63 : Bool) = false := by
    rcases hdue with h | h
    · simp [h]
    · simp only [Bool.and_eq_false_iff, decide_eq_false_iff_not]
      exact .inr (by omega)
  have hlater : (List.range 65).any (fun e => d < e && (s.die e).lastDecision = s.cycle + 1) = false := by
    simp only [List.any_eq_false, List.mem_range, Bool.and_eq_true, decide_eq_true_eq, not_and]
    exact fun e he hde => horder e hde he
  change execAdmissionDecision d s = _
  unfold execAdmissionDecision
  dsimp only
  rw [hvictim]
  refine if_neg ?_
  rw [hwait, hlater, hheld]
  simp only [Bool.or_eq_true, Bool.and_eq_true, decide_eq_true_eq, hnot64, hcancel]
  simp only [List.isEmpty_nil, Bool.not_true, false_and, Bool.false_eq_true, or_false]
  omega

end

/-- A settled victim is saved before anything is decided (R372). -/
theorem admissionDecision_victim {s : State} {d : Nat} {e : Nat × Region}
    (h : (s.regions.find? fun e => keyDie e.1 = d && e.2.victim && e.2.st == .gating && e.2.settled) = some e) :
    exec (.admissionDecision d) s = .next (s.saveVictim e.1) := by
  change execAdmissionDecision d s = _
  unfold execAdmissionDecision
  dsimp only
  rw [h]

/-! ### Gang requests -/

theorem gangReservation_asks {s : State} {d : Nat} {r : LRec} (hhost : s.hostReady = true) (hfree : (s.die d).request = none)
    (hr : (s.recs.find? fun r => r.qdie = 64 && r.st == .reserved && (rDies r.words)[r.granted.length]? = some d) = some r)
    (hnone : ∀ e ∈ s.dies, e.2.request ≠ some r.id) :
    exec (.gangReservation d) s = .next (s.modDie d fun x => { x with request := some r.id }) := by
  change execGangReservation d s = _
  unfold execGangReservation
  rw [hhost, hfree]
  dsimp only
  rw [hr, if_neg (by decide)]
  refine if_neg ?_
  simpa using hnone

theorem gangReservation_forgets {s : State} {d id : Nat} (hhost : s.hostReady = true) (hreq : (s.die d).request = some id)
    (hgone : s.rec? id = none) : exec (.gangReservation d) s = .next (s.modDie d fun x => { x with request := none }) := by
  change execGangReservation d s = _
  unfold execGangReservation
  rw [hhost, hreq]
  dsimp only
  rw [hgone]
  rfl

/-! ### Loads -/

section
variable {s : State} {id : Nat} {r : LRec} (hr : s.rec? id = some r) (hload : r.st = .loading) (hq : r.qdie ≤ 64)
include hr hload hq

theorem loadCommit_saved (hsave : r.fromSave = true) : exec (.loadCommit id) s = .next (s.loadSaved r) := by
  change execLoadCommit id s = _
  unfold execLoadCommit
  rw [hr]
  dsimp only
  rw [hload, if_neg (by simp [hq]), if_pos hsave]

/-- The load of a record that does not return from SAVED goes as its phase 1 goes (R375, R377). -/
theorem loadCommit_phase1 (hsave : r.fromSave = false) :
    let ph := s.phase1 r (match r.pred with | some k => [k + 2 ^ 23] | none => []) none
    exec (.loadCommit id) s = match ph with
      | .wait t => .next t
      | .refuse t c a d => .next (t.refuseLoad r c a d)
      | .ok t ks =>
        if r.pred.isSome then .next (t.modRec id fun r => { r with st := .loaded })
        else match t.pinGang ks with
          | .ok ps => .next (t.activate ks ps false)
          | .error e => .next ((t.endGang ks .refused).refuseLoad r e.1 e.2.1 e.2.2) := by
  change execLoadCommit id s = _
  unfold execLoadCommit
  rw [hr]
  dsimp only
  rw [hload, if_neg (by simp [hq]), hsave, if_neg (by decide)] <;> rfl

end

/-- Settles O38: the steps of a record, each by the case of its event that the statement names. -/
theorem launchSteps : Obligations.LaunchSteps := by
  unfold Obligations.LaunchSteps
  refine ⟨fun s => ⟨?_, ?_, ?_, ?_, ?_, ?_, ?_⟩, ?_⟩
  · intro id n r c a d hr hwait hn hheld v
    exact ⟨fun hlook => (conditionSatisfied_reads hr hwait hn hheld hlook).1 c a d,
      fun pa attr hlook => conditionSatisfied_once hr hwait hn hheld hlook⟩
  · intro id n r t bs hr hwait hn hheld hlook
    exact (conditionSatisfied_reads hr hwait hn hheld hlook).2 t bs
  · intro d hvictim hfull
    exact admissionDecision_full hvictim hfull
  · intro d e h
    exact admissionDecision_victim h
  · intro d hd hvictim hdue hroom hheld horder hcancel
    exact admissionDecision_due hvictim hd hdue hroom hheld horder hcancel
  · intro d r hhost hfree hr hnone
    exact gangReservation_asks hhost hfree hr hnone
  · intro d id hhost hreq hgone
    exact gangReservation_forgets hhost hreq hgone
  · intro s id r hr hload hq
    refine ⟨loadCommit_saved hr hload hq, ?_⟩
    intro hsave ph
    have hstep := loadCommit_phase1 hr hload hq hsave
    change exec (.loadCommit id) s = match ph with | .wait t => _ | .refuse t c a d => _ | .ok t ks => _ at hstep
    refine ⟨?_, ?_, ?_, ?_⟩
    · intro t hph
      rw [hstep, hph]
    · intro t c a d hph
      rw [hstep, hph]
    · intro t ks hph hpred
      rw [hstep, hph]
      exact if_pos hpred
    · intro t ks ps hph hpred hpins
      rw [hstep, hph]
      dsimp only
      rw [hpred, hpins]
      rfl

end Sys2Proof.Machine

/-! # Proofs: completion, stalls, energy windows, save forms, waypoints, splices and notifications of a region -/

namespace Sys2Proof.Machine

/-! ### Completion and stalls -/

section
variable {s : State} {k : Nat}

theorem regionComplete_incomplete (h : ∃ g ∈ s.gangOf k, s.complete g = false) : exec (.regionComplete k) s = .next s := by
  obtain ⟨g, hg, hnot⟩ := h
  refine if_pos ?_
  rw [Bool.not_eq_true', List.all_eq_false]
  exact ⟨g, hg, by simp [hnot]⟩

section
variable (hall : ∀ g ∈ s.gangOf k, s.complete g = true)
include hall

theorem regionComplete_diverges {ln : Nat} (hun : s.unclaimed k = some ln) : exec (.regionComplete k) s = .next (s.diverged ln) := by
  change execRegionComplete k s = _
  unfold execRegionComplete
  dsimp only
  rw [List.all_eq_true.2 hall, hun]
  rfl

/-- A complete gang whose banks are written back and whose record's add has performed ends with DONE (R378). -/
theorem regionComplete_done {g0 : Nat} {x : LRec} {t : State} (hun : s.unclaimed k = none) (hhead : (s.gangOf k).head? = some g0)
    (hrec : s.recOf k = some x) (hback : (s.gangOf k).any ((s.gangOf k).foldl State.writeBackRegion s).regionBackDue = false)
    (hadd : ((s.gangOf k).foldl State.writeBackRegion s).doneAdd x (keyDie g0) = .done t) :
    let u := (s.gangOf k).foldl State.endPhase t
    exec (.regionComplete k) s = .next ((u.endGang (s.gangOf k) .done).postFor g0 1 0 (u.lidOf g0)) := by
  intro u
  change execRegionComplete k s = _
  unfold execRegionComplete
  dsimp only
  rw [List.all_eq_true.2 hall, hun]
  dsimp only
  rw [hhead, hrec]
  dsimp only
  rw [hback, hadd]
  rfl

end

/-- REGION_STALLED (R175), with a replay that nothing claims told apart (R145). -/
theorem regionStalled_eq {r : Region} (hr : s.regions.find k = some r) :
    exec (.regionStalled k) s = .next
      (if (r.st = .active ∨ r.st = .gating) ∧ r.mail = none ∧ r.dh = false ∧ s.tokensPresent k = true ∧ r.moved + r.stall * 1024 ≤ s.cycle
       then (match s.unclaimed k with | some ln => s.diverged ln | none => s.takeHeld k (s.stallRecord r k)) else s) := by
  have hcond : ((r.st == .active || r.st == .gating) && !r.frozen && !r.dh && s.tokensPresent k && decide (r.moved + r.stall * 1024 ≤ s.cycle)) = true ↔
      ((r.st = .active ∨ r.st = .gating) ∧ r.mail = none ∧ r.dh = false ∧ s.tokensPresent k = true ∧ r.moved + r.stall * 1024 ≤ s.cycle) := by
    simp [Region.frozen, and_assoc]
  change execRegionStalled k s = _
  unfold execRegionStalled
  rw [hr]
  dsimp only
  simp only [hcond]
  split
  · cases s.unclaimed k <;> rfl
  · rfl

/-! ### Energy windows -/

theorem energyWindow_waits {r : Region} (hr : s.regions.find k = some r)
    (h : (r.st ≠ .active ∧ r.st ≠ .gating) ∨ s.cycle < r.windowAt + windowCycles) : exec (.energyWindow k) s = .next s := by
  change execEnergyWindow k s = _
  unfold execEnergyWindow
  rw [hr]
  refine if_pos ?_
  rcases h with ⟨h1, h2⟩ | h
  · simp [h1, h2]
  · simp [h]

/-- A window that ends sets the level, and THROTTLE is posted where it moves (R382). -/
theorem energyWindow_ends {r : Region} (hr : s.regions.find k = some r) (hst : r.st = .active ∨ r.st = .gating)
    (hend : r.windowAt + windowCycles ≤ s.cycle) :
    let level := if r.erate * 10 ^ 9 < r.windowE then min 4 (r.level + 1)
      else if 2 * r.windowE ≤ r.erate * 10 ^ 9 then r.level - 1 else r.level
    let t := s.modRegion k fun r => { r with level := level, windowE := 0, windowAt := r.windowAt + windowCycles }
    exec (.energyWindow k) s = .next (if level = r.level then t else t.postFor k 5 0 (word level)) := by
  intro level t
  have hruns : (r.st == .active || r.st == .gating) = true := by
    rcases hst with h | h <;> rw [h] <;> rfl
  change execEnergyWindow k s = _
  unfold execEnergyWindow
  rw [hr]
  refine if_neg ?_
  rw [hruns]
  simp only [Bool.not_true, Bool.false_or, decide_eq_true_eq]
  omega

end

/-! ### Save forms and waypoints -/

/-- No token of the region is present, and it may still be settled without a full save (R136, R400). -/
def State.calmRegion (s : State) (k : Nat) : Bool :=
  !s.tokensPresent k && match s.regions.find k with | some r => !r.full && !s.boundPassed r && !r.frozen && !r.dh | none => false

theorem calmRegion_eq (s : State) (k : Nat) : s.calmRegion k =
    (!s.tokensPresent k && optB (s.regions.find k) fun r => !r.full && !s.boundPassed r && !r.frozen && !r.dh) := by
  unfold State.calmRegion optB
  cases s.regions.find k <;> rfl

/-- Has the bound of the region passed? -/
def State.lateRegion (s : State) (k : Nat) : Bool := match s.regions.find k with | some r => s.boundPassed r | none => false

theorem lateRegion_eq (s : State) (k : Nat) : s.lateRegion k = optB (s.regions.find k) s.boundPassed := by
  unfold State.lateRegion optB
  cases s.regions.find k <;> rfl

theorem gatedQuiescence_eq (s : State) (k : Nat) : exec (.gatedQuiescence k) s = .next
    (if s.gating (s.gangOf k) = true ∧ (s.gangOf k).all s.calmRegion = true then s.settle (s.gangOf k) false else s) := by
  change execGatedQuiescence k s = _
  unfold execGatedQuiescence
  change (if (s.gating (s.gangOf k) && (s.gangOf k).all s.calmRegion) = true then _ else _) = _
  simp only [Bool.and_eq_true]
  split <;> rfl

theorem qboundExpiry_gating {s : State} {k : Nat} (h : s.gating (s.gangOf k) = true) : exec (.qboundExpiry k) s = .next
    (if (s.gangOf k).all s.lateRegion then s.fullSave (s.gangOf k) else s) := by
  change execQboundExpiry k s = _
  unfold execQboundExpiry
  refine (if_pos h).trans ?_
  change (if (s.gangOf k).all s.lateRegion = true then _ else _) = _
  split <;> rfl

theorem waypointQuiescence_eq {s : State} {k : Nat} {l : ULog} (hl : s.log (s.logOf k) = some l) :
    exec (.waypointQuiescence k) s = .next
      (if l.wayWait ≠ [] ∧ l.regions.all s.calmRegion = true then s.doWaypoint (s.logOf k) false else s) := by
  change execWaypointQuiescence k s = _
  unfold execWaypointQuiescence
  dsimp only
  rw [hl]
  dsimp only
  change (if (!l.wayWait.isEmpty && l.regions.all s.calmRegion) = true then _ else _) = _
  simp only [Bool.and_eq_true, Bool.not_eq_true', List.isEmpty_eq_false_iff]
  split <;> rfl

/-! ### Splices and notifications -/

/-- A cell of a predecessor goes over when nothing holds it, with its banks written back (R171, R407). -/
theorem spliceSwitchover_eq {s : State} {cell c k2 n : Nat} {r : Region} (hr : s.regions.find ((s.cell cell).cctx c).region = some r)
    (hsucc : r.succ = some k2) (hn : s.cctxOn cell k2 = some n) :
    let x := (s.cell cell).cctx c
    let b := s.clearBanks cell x.region
    exec (.spliceSwitchover cell c) s = .next
      (if r.frozen = true ∨ s.mayCross cell c x.region = false ∨ s.crossRoom cell c = false then s
       else if b.2 = true then b.1 else s.cross cell c n x.region k2) := by
  intro x b
  change execSpliceSwitchover cell c s = _
  unfold execSpliceSwitchover
  dsimp only
  rw [hr]
  dsimp only
  rw [hsucc]
  dsimp only
  rw [hn]
  dsimp only
  simp only [Bool.or_eq_true, Bool.not_eq_true', or_assoc]
  split <;> rfl

/-- A region with a record notifies its handler, unless another record goes first; else the oldest notice of a handler leaves (R393, R394). -/
theorem handlerNotify_eq {s : State} {k : Nat} {r : Region} (hr : s.regions.find k = some r) :
    (∀ f, r.mail = some f → r.notifyWait = true →
      exec (.handlerNotify k) s = .next (if s.notifyLater k r f then s else s.notifyHandler k r f)) ∧
    (r.mail = none ∨ r.notifyWait = false → exec (.handlerNotify k) s = .next (s.deliverNotice k)) := by
  have hstep : exec (.handlerNotify k) s = execHandlerNotify k s := rfl
  rw [hstep]
  unfold execHandlerNotify
  rw [hr]
  dsimp only
  refine ⟨?_, ?_⟩
  · intro f hmail hwait
    rw [hmail, hwait]
    dsimp only
    rw [if_pos rfl]
    split <;> rfl
  · intro h
    cases hmail : r.mail with
    | none => rfl
    | some f => exact if_neg (by simpa [hmail] using h)

/-- Settles O39: each event of a region by the equation of its step. -/
theorem regionLifecycle : Obligations.RegionLifecycle := by
  unfold Obligations.RegionLifecycle
  refine ⟨?_, ?_, ?_⟩
  · intro s k r hr
    refine ⟨regionComplete_incomplete, ?_, ?_, regionStalled_eq hr, energyWindow_waits hr, energyWindow_ends hr⟩
    · intro ln hall hun
      exact regionComplete_diverges hall hun
    · intro g0 x t hall hun hhead hrec hback hadd
      exact regionComplete_done hall hun hhead hrec hback hadd
  · intro s k ks calm late
    have hcalm : s.calmRegion = calm := funext (calmRegion_eq s)
    have hlate : s.lateRegion = late := funext (lateRegion_eq s)
    refine ⟨hcalm ▸ gatedQuiescence_eq s k, fun h => hlate ▸ qboundExpiry_gating h, fun l hl => ?_, ?_⟩
    · change exec _ s = .next (if l.wayWait ≠ [] ∧ l.regions.all calm = true then _ else _)
      exact hcalm ▸ waypointQuiescence_eq hl
    intro cell c r k2 n hr hsucc hn
    exact spliceSwitchover_eq hr hsucc hn
  · intro s k r hr
    exact handlerNotify_eq hr

end Sys2Proof.Machine

/-! # Proofs: a self-test that fails on the last live channel of a die -/

namespace Sys2Proof.Machine

/-- Die 0 with its fabric ready and channel 0 alone not retired. -/
def lastChannel : State :=
  { State.reset.modDie 0 fun x => { x with chans := 1 } with readyBits := [0], image := { State.reset.image with verified := true } }

/-- The failed functions after an outcome. -/
def failedAfter (o : Host.Outcome State Fault Refusal) : List Nat := match o with | .next t => t.failedBits | _ => []

/-- Refutes O40: the last live channel of a die whose fabric is ready may report ready, and a self-test that it fails does not retire it. -/
theorem not_powerAndBringUp : ¬ Obligations.PowerAndBringUp := by
  intro ⟨_, h⟩
  obtain ⟨-, -, hfail, -⟩ := h lastChannel
  have hready : lastChannel.canReady 64 = true := by decide +kernel
  have hkept : failedAfter (exec (.functionReady 64 false) lastChannel) = [] := by decide +kernel
  rw [hfail 64 hready] at hkept
  exact absurd hkept (by decide +kernel)

end Sys2Proof.Machine

/-! # Proofs: frames at the host port and the messages of the command program -/

namespace Sys2Proof.Machine

/-! ### Frames -/

section
variable {s : State} {bs : List Byte} (hagent : s.agentReady = true)
include hagent

/-- A frame that breaks its table is answered with NAK FORMAT, whatever it came for. -/
theorem frames_nak (hbad : frameOk bs = false) : exec (.hostMsgFrame bs) s = .next (s.nak 3) ∧ exec (.sndreq bs) s = .next (s.nak 3) ∧
    exec (.dbgFrame bs) s = .next (s.nak 3) := by
  refine ⟨?_, ?_, ?_⟩
  · change execHostMsgFrame bs s = _
    unfold execHostMsgFrame
    rw [hagent, hbad]
    rfl
  · change execSndreq bs s = _
    unfold execSndreq
    rw [hagent, hbad]
    rfl
  · change execDbgFrame bs s = _
    unfold execDbgFrame
    rw [hagent, hbad]
    rfl

theorem hostMsgFrame_takes (hok : frameOk bs = true) (hkind : frameKind bs = 1) : exec (.hostMsgFrame bs) s = .next (s.takeMsg bs) := by
  change execHostMsgFrame bs s = _
  unfold execHostMsgFrame
  rw [hagent, hok]
  exact if_pos hkind

theorem sndreq_sounds (hok : frameOk bs = true) (hkind : frameKind bs = 5) : exec (.sndreq bs) s = .next s.startSounding := by
  change execSndreq bs s = _
  unfold execSndreq
  rw [hagent, hok]
  exact if_pos hkind

/-- A debug frame of a new number to an idle session is served at once (R432). -/
theorem dbgFrame_serves (hok : frameOk bs = true) (hkind : frameKind bs = 7)
    (hidle : (s.session (fieldN (byteWord bs 0) 3 0)).frames = [])
    (hnew : (s.session (fieldN (byteWord bs 0) 3 0)).fseq ≠ fieldN (byteWord bs 1) 31 0) :
    exec (.dbgFrame bs) s = .next (State.dbgServe (fieldN (byteWord bs 0) 3 0) 2 (s.modSession (fieldN (byteWord bs 0) 3 0) fun x =>
      { x with frames := x.frames ++ [(fieldN (byteWord bs 1) 31 0, dbgPairs bs)] })) := by
  change execDbgFrame bs s = _
  unfold execDbgFrame
  rw [hagent, hok]
  dsimp only
  rw [if_neg (by decide), if_neg (by decide), if_neg (by simp [hkind]), hidle]
  exact if_neg hnew

/-- A debug frame that repeats the last number of its session has the stored answer (R432). -/
theorem dbgFrame_repeats (hok : frameOk bs = true) (hkind : frameKind bs = 7)
    (hidle : (s.session (fieldN (byteWord bs 0) 3 0)).frames = [])
    (hold : (s.session (fieldN (byteWord bs 0) 3 0)).fseq = fieldN (byteWord bs 1) 31 0)
    (hopen : (s.session (fieldN (byteWord bs 0) 3 0)).open0 = false) (hrsp : (s.session (fieldN (byteWord bs 0) 3 0)).rsp ≠ []) :
    exec (.dbgFrame bs) s =
      .next { s with host := { s.host with sent := s.host.sent ++ [(s.session (fieldN (byteWord bs 0) 3 0)).rsp] } } := by
  change execDbgFrame bs s = _
  unfold execDbgFrame
  rw [hagent, hok]
  dsimp only
  rw [if_neg (by decide), if_neg (by decide), if_neg (by simp [hkind]), hidle]
  refine (if_pos hold).trans (congrArg _ (if_neg ?_))
  simp [hopen, hrsp]

theorem dbgWaitOp_serves {n : Nat} (hopen : (s.session n).open0 = true) (hbusy : (s.session n).busy = false) :
    exec (.dbgWaitOp n) s = .next (State.dbgServe n ((s.session n).frames.length + 2) s) := by
  change execDbgWaitOp n s = _
  unfold execDbgWaitOp
  rw [hagent, hopen, hbusy]
  rfl

/-- The oldest interrupt leaves with the next ISEQ (R431). -/
theorem irqFrame_sends {ws : List Word} {r : List (List Word)} (hirqs : s.host.irqs = ws :: r) (hlogs : s.logs = []) :
    let n := (s.host.iseq + 1) % 2 ^ 32
    exec .irqFrame s = .next (({ s with host := { s.host with irqs := r, iseq := n } } : State).sendFrame 4 0
      (wordBytes ((ws.map (·.toNat)) ++ [n]))) := by
  intro n
  change execIrqFrame s = _
  unfold execIrqFrame
  rw [hirqs]
  dsimp only
  rw [hagent, if_neg (by decide)]
  refine congrArg (fun u : State => Host.Outcome.next (u.sendFrame 4 0 _)) (if_neg ?_)
  simp [log_of_nolog, hlogs]

end

theorem irqFrame_none {s : State} (h : s.host.irqs = []) : exec .irqFrame s = .next s := by
  change execIrqFrame s = _
  unfold execIrqFrame
  rw [h]

/-- Settles O41: each frame by the branch of its event that the statement names. -/
theorem hostFrames : Obligations.HostFrames := by
  unfold Obligations.HostFrames
  intro s bs hagent
  refine ⟨frames_nak hagent, hostMsgFrame_takes hagent, sndreq_sounds hagent, ?_, fun n => dbgWaitOp_serves hagent, irqFrame_none, ?_⟩
  · intro hok hkind n fs x
    exact ⟨fun hidle hnew => dbgFrame_serves hagent hok hkind hidle hnew,
      fun hidle hold hopen hrsp => dbgFrame_repeats hagent hok hkind hidle hold hopen hrsp⟩
  · intro ws r hirqs hlogs
    exact irqFrame_sends hagent hirqs hlogs

/-! ### Messages -/

section
variable {s : State} {w : List Word} {kind : Nat} {bad : List Word → Bool} {go : State → List Word → State}
  (hw : s.message = some w) (hkind : field (pw w 0) 63 56 = kind) (h1 : 1 ≤ kind) (h9 : kind ≤ 9)
include hw hkind h1 h9

/-- The command program performs a message of the kind of its step that keeps to its table. -/
theorem onMessage_goes (hok : field (pw w 0) 55 32 = 0) (hgood : bad w = false) : s.onMessage kind bad go = .next (go s w) := by
  unfold State.onMessage
  rw [hw]
  dsimp only
  rw [hkind, if_neg (by simp; omega), if_neg (by simp), if_neg (by simp [hok, hgood])]

/-- A message of the kind of its step that breaks its table is REFUSED with reason 1. -/
theorem onMessage_refuses (hbad : field (pw w 0) 55 32 ≠ 0 ∨ bad w = true) : s.onMessage kind bad go = .next (s.reply w 4 1 []) := by
  unfold State.onMessage
  rw [hw]
  dsimp only
  rw [hkind, if_neg (by simp; omega), if_neg (by simp), if_pos (by simpa using hbad)]
  rfl

end

section
variable {s : State} {w : List Word} (hw : s.message = some w)
include hw

/-- A copy of the host joins its queue when there is room, and waits while there is none (R356, R430). -/
theorem msgCopy_eq (hkind : field (pw w 0) 63 56 = 2) (hok : field (pw w 0) 55 32 = 0) (hq : field (pw w 1) 63 6 = 0) :
    exec .msgCopy s = .next (if 256 ≤ (s.copyq (field (pw w 1) 5 0)).open then s
      else (s.addCopy (field (pw w 1) 5 0) (s.cfgFor (.helm cmdCore)) 0 false (.ok ((w.drop 2).take 8))).reply w 0 0
        (leBytes ((s.copyq (field (pw w 1) 5 0)).batch % 2 ^ 32) 8)) := by
  change execMsgCopy s = _
  unfold execMsgCopy
  exact onMessage_goes hw hkind (by decide) (by decide) hok (by simp [hq])

/-- WAITB of a queue without copies is answered with 0 (R359, R430). -/
theorem msgWaitb_empty (hkind : field (pw w 0) 63 56 = 3) (hok : field (pw w 0) 55 32 = 0) (hq : field (pw w 1) 63 6 = 0)
    (hnone : (s.copyq (field (pw w 1) 5 0)).copies = []) : exec .msgWaitb s = .next (s.reply w 0 0 (leBytes 0 8)) := by
  change execMsgWaitb s = _
  unfold execMsgWaitb
  refine (onMessage_goes hw hkind (by decide) (by decide) hok (by simp [hq])).trans ?_
  simp [hnone, stDone]

theorem keyload_held (hkind : field (pw w 0) 63 56 = 6) (hok : field (pw w 0) 55 32 = 0) (h1 : 1 ≤ (pw w 1).toNat)
    (h2 : (pw w 1).toNat ≤ 255) (hkey : (s.keys.find (pw w 1).toNat).isSome = true) : exec .keyload s = .next (s.reply w 4 0x10 []) := by
  change execKeyload s = _
  unfold execKeyload
  refine (onMessage_goes hw hkind (by decide) (by decide) hok ?_).trans (congrArg _ (if_pos hkey))
  simp
  omega

/-- KEYLOAD of a free id reads its blob and opens it (R444). -/
theorem keyload_free (hkind : field (pw w 0) 63 56 = 6) (hok : field (pw w 0) 55 32 = 0) (h1 : 1 ≤ (pw w 1).toNat)
    (h2 : (pw w 1).toNat ≤ 255) (hkey : s.keys.find (pw w 1).toNat = none) : exec .keyload s = .next
    (s.msgRead (pw w 3).toNat 1712 (fun t _ => t.reply w 4 0x12 []) fun t bs =>
      match Config.openBlob t.ekey bs (wordBytes [(pw w 1).toNat, (pw w 2).toNat, t.pkgNum]) with
      | some k => ({ t with keys := t.keys.put (pw w 1).toNat (keyEntry (pw w 2) k) } : State).reply w 0 0 []
      | none => t.reply w 4 0x11 []) := by
  change execKeyload s = _
  unfold execKeyload
  refine (onMessage_goes hw hkind (by decide) (by decide) hok ?_).trans (congrArg _ (if_neg ?_))
  · simp
    omega
  · simp [hkey]

theorem keyrel_eq (hkind : field (pw w 0) 63 56 = 7) (hok : field (pw w 0) 55 32 = 0) (h1 : 1 ≤ (pw w 1).toNat)
    (h2 : (pw w 1).toNat ≤ 255) : exec .keyrel s = .next
    (if s.keyUsed (pw w 1).toNat then s.reply w 4 0x13 []
     else ({ s with keys := s.keys.drop (pw w 1).toNat } : State).reply w 0 0 []) := by
  change execKeyrel s = _
  unfold execKeyrel
  refine onMessage_goes hw hkind (by decide) (by decide) hok ?_
  simp
  omega

/-- An attestation of a request that breaks its table is refused with its reason (R443). -/
theorem msgAttest_refuses (hkind : field (pw w 0) 63 56 = 9) (hok : field (pw w 0) 55 32 = 0) {n : Nat}
    (hn : s.attestReason (((w.drop 2).take 8).flatMap fun x => leBytes x.toNat 8) = some n) :
    exec .msgAttest s = .next (s.reply w 4 n []) := by
  change execMsgAttest s = _
  unfold execMsgAttest
  refine (onMessage_goes hw hkind (by decide) (by decide) hok rfl).trans ?_
  dsimp only
  rw [hn]
  rfl

/-- Any other writes its report, made once (R443). -/
theorem msgAttest_reports (hkind : field (pw w 0) 63 56 = 9) (hok : field (pw w 0) 55 32 = 0)
    (hn : s.attestReason (((w.drop 2).take 8).flatMap fun x => leBytes x.toNat 8) = none) (hacc : s.host.msgAcc = none) :
    let r := s.reportBytes (((w.drop 2).take 8).flatMap fun x => leBytes x.toNat 8)
    exec .msgAttest s = .next (r.1.msgWrite (pw w 1).toNat r.2 (fun t c => t.reply w 5 c []) fun t => t.reply w 0 0 []) := by
  intro r
  change execMsgAttest s = _
  unfold execMsgAttest
  refine (onMessage_goes hw hkind (by decide) (by decide) hok rfl).trans ?_
  dsimp only
  rw [hn, hacc]
  rfl

end

/-- Settles O42: each message through what the command program does with one of its kind. -/
theorem hostMessages : Obligations.HostMessages := by
  unfold Obligations.HostMessages
  intro s w hw kind ok q refused via
  refine ⟨?_, ?_, ?_, ?_, ?_, ?_, ?_, ?_, ?_, ?_, ?_, ?_, ?_, ?_, ?_⟩
  · intro hkind hok hown t id hcap
    change execMsgLaunch s = _
    unfold execMsgLaunch
    refine (onMessage_goes hw hkind (by decide) (by decide) hok (by simp [hown])).trans ?_
    dsimp only
    rw [show s.capture (s.cfgFor (.helm cmdCore)) 0 ((w.drop 2).take 16) = some (t, id) from hcap]
    rfl
  · intro hkind _ hown
    change execMsgLaunch s = _
    unfold execMsgLaunch
    exact onMessage_refuses hw hkind (by decide) (by decide) (.inr (by simp [hown]))
  · intro hkind hok hq hroom
    rw [msgCopy_eq hw hkind hok hq, if_neg (Nat.not_le.2 hroom)]
  · intro hkind hok hq hfull
    rw [msgCopy_eq hw hkind hok hq, if_pos hfull]
  · exact msgWaitb_empty hw
  · intro hkind hok hlen
    change execMsgWrite s = _
    unfold execMsgWrite
    exact onMessage_goes hw hkind (by decide) (by decide) hok hlen
  · intro hkind hok hlen
    change execMsgRead s = _
    unfold execMsgRead
    exact onMessage_goes hw hkind (by decide) (by decide) hok hlen
  · exact keyload_held hw
  · exact keyload_free hw
  · exact keyrel_eq hw
  · intro hkind hok
    change execPodcfg s = _
    unfold execPodcfg
    exact onMessage_goes hw hkind (by decide) (by decide) hok rfl
  · intro hkind hok n hn
    exact msgAttest_refuses hw hkind hok hn
  · exact msgAttest_reports hw
  · intro hkind hbad
    change execKeyload s = _
    unfold execKeyload
    exact onMessage_refuses hw hkind (by decide) (by decide) (.inl hbad)
  · intro hkind hbad
    change execMsgAttest s = _
    unfold execMsgAttest
    exact onMessage_refuses hw hkind (by decide) (by decide) (.inl hbad)

end Sys2Proof.Machine

/-! # Proofs: accesses of other packages, acknowledgements, planes, and commands of PKG.ULCMD -/

namespace Sys2Proof.Machine

/-! ### Accesses of other packages -/

section
variable {s : State} {kind pa size data : Nat}

theorem podAccessReceive_elsewhere (h : paPkg pa ≠ s.pkgNum) : exec (.podAccessReceive kind pa size data) s = .next s := by
  change execPodAccessReceive kind pa size data s = _
  unfold execPodAccessReceive
  exact if_pos (by simp [h])

variable (hpkg : paPkg pa = s.pkgNum) (hpa : pa < 2 ^ 52) (hsize : size ≠ 0)
include hpkg hpa hsize

/-- An access of this package that names no physical place is acknowledged as NOT_MAPPED, any other at a ready home performs (R30, R437). -/
theorem podAccessReceive_eq : exec (.podAccessReceive kind pa size data) s =
    if (s.physCheck pa).isSome then .next (s.podAcked kind pa ((s.physCheck pa).getD 0) fcNotMapped)
    else if !s.homeReady pa then .next s
    else match s.podPerform (s.podAccess kind pa size data) kind pa size with
      | .done s v => .next (s.podAcked kind pa v 0)
      | .fail c m => .next (s.podAcked kind pa m c)
      | .wait s => .next s
      | .full ln key held => .next (s.foreignFull ln key (podSrc kind).die held)
      | .diverge ln => .next (s.diverged ln)
      | .pod _ _ => .next s := by
  change execPodAccessReceive kind pa size data s = _
  unfold execPodAccessReceive
  rw [if_neg (by simp only [Bool.or_eq_true, decide_eq_true_eq]; omega)] <;> rfl

theorem podAccessReceive_noPlace {c : Nat} (hc : s.physCheck pa = some c) :
    exec (.podAccessReceive kind pa size data) s = .next { s with podAcks := s.podAcks ++ [⟨kind, pa, c, fcNotMapped⟩] } := by
  rw [podAccessReceive_eq hpkg hpa hsize, hc]
  rfl

variable (hplace : s.physCheck pa = none) (hhome : s.homeReady pa = true)
include hplace hhome

theorem podAccessReceive_performs :
    (∀ t v, s.podPerform (s.podAccess kind pa size data) kind pa size = .done t v →
      exec (.podAccessReceive kind pa size data) s = .next { t with podAcks := t.podAcks ++ [⟨kind, pa, v, 0⟩] }) ∧
    (∀ c m, s.podPerform (s.podAccess kind pa size data) kind pa size = .fail c m →
      exec (.podAccessReceive kind pa size data) s = .next { s with podAcks := s.podAcks ++ [⟨kind, pa, m, c⟩] }) := by
  rw [podAccessReceive_eq hpkg hpa hsize, hplace, hhome]
  refine ⟨?_, ?_⟩
  · intro t v h
    rw [h]
    rfl
  · intro c m h
    rw [h]
    rfl

end

/-! ### Acknowledgements and planes -/

theorem podAck_none {s : State} {id : Nat} (h : s.acc? id = none) (j data : Nat) : exec (.podAck id j data) s = .next s := by
  change execPodAck id j data s = _
  unfold execPodAck
  rw [h]

/-- The acknowledgement of a part that has performed at its home. -/
theorem podAck_performed {s : State} {id j data p c : Nat} {x : Access} {u : AUnit} (hx : s.acc? id = some x)
    (hu : x.units[j]? = some u) (hst : u.st = .pod p c) (hdone : data / 2 ^ (8 * u.size) % 256 = 0) :
    exec (.podAck id j data) s = .next (s.ackUnit x j u (data % 2 ^ (8 * u.size))) := by
  change execPodAck id j data s = _
  unfold execPodAck
  rw [hx]
  dsimp only
  rw [hu]
  dsimp only
  rw [hst]
  exact congrArg _ (if_neg (by simp [hdone]))

theorem planeTimeout_inTime {s : State} {p : Nat} (h : ∀ x ∈ s.accs, ∀ u ∈ x.units, u.late p s.cycle = false) :
    exec (.planeTimeout p) s = .next s := by
  have hnone : (s.accs.any fun x => x.units.any fun u => u.late p s.cycle) = false := by
    simp only [List.any_eq_false, Bool.not_eq_true]
    exact h
  change execPlaneTimeout p s = _
  unfold execPlaneTimeout
  exact if_pos (by rw [hnone]; simp)

theorem memOp_dropAcc (s : State) (id : Nat) : MemOp s (s.dropAcc id) := .of_mem_eq rfl rfl

theorem memOp_ackedAll (s : State) (id : Nat) : MemOp s (s.ackedAll id) := by
  unfold State.ackedAll
  cases s.acc? id with
  | none => exact .refl s
  | some x =>
    refine .ite (fun _ => .refl s) fun _ => .ite (fun _ => memOp_dropAcc ..) fun _ => .ite (fun _ => ?_) fun _ =>
      .ite (fun _ => (memOp_dropAcc ..).trans (memOp_openUnits ..)) fun _ => .refl s
    exact .ite (fun _ => (memOp_dropAcc ..).trans (memOp_traceFault ..)) fun _ => memOp_dropAcc ..

/-- A plane that a part has waited on past its time is used no more; sending again what waited for it leaves the lists as they are (R437). -/
theorem planeTimeout_late {s : State} {p : Nat} (hp : p < 32) (h : ∃ x ∈ s.accs, ∃ u ∈ x.units, u.late p s.cycle = true) :
    ∃ t, exec (.planeTimeout p) s = .next t ∧ t.planesOut = setAdd s.planesOut p ∧ t.lastPlane = p := by
  obtain ⟨x, hx, u, hu, hlate⟩ := h
  have hsome : (s.accs.any fun x => x.units.any fun u => u.late p s.cycle) = true :=
    List.any_eq_true.2 ⟨x, hx, List.any_eq_true.2 ⟨u, hu, hlate⟩⟩
  let out : State := { s with planesOut := setAdd s.planesOut p, lastPlane := p }
  let onPlane (x : Access) : Bool := x.units.any fun u => u.onPlane p
  let again (t : State) (x : Access) : State := (t.resend p x).ackedAll x.id
  have hkeep := MemOp.foldl (g := again) (fun _ _ => (memOp_modAcc ..).trans (memOp_ackedAll ..)) (out.accs.filter onPlane) out
  refine ⟨(out.accs.filter onPlane).foldl again out, ?_,
    (congrArg (fun q : Quiet => q.rest.planesOut) hkeep.quiet :), (congrArg (fun q : Quiet => q.rest.lastPlane) hkeep.quiet :)⟩
  change execPlaneTimeout p s = _
  unfold execPlaneTimeout
  rw [hsome]
  exact if_neg (by simp [hp])

/-! ### Commands of PKG.ULCMD -/

section
variable {s : State} {w : Word}

theorem ulcmdExtend_eq (hw : s.ulcmdIs w 1 = true) :
    (s.extendLog (field w 63 56) (field w 37 32) = none → exec (.ulcmdExtend w) s = .next (s.ulcmdEnd false)) ∧
    (∀ t, s.extendLog (field w 63 56) (field w 37 32) = some t →
      exec (.ulcmdExtend w) s = .next ((t.openLogGate (field w 63 56)).ulcmdEnd true)) := by
  have hstep : exec (.ulcmdExtend w) s = execUlcmdExtend w s := rfl
  rw [hstep]
  unfold execUlcmdExtend
  rw [hw]
  refine ⟨?_, ?_⟩
  · intro h
    rw [h]
    rfl
  · intro t h
    rw [h]
    rfl

theorem ulcmdDiscard_inactive (hw : s.ulcmdIs w 2 = true) (hl : s.log (field w 63 56) = none) :
    exec (.ulcmdDiscard w) s = .next (s.ulcmdEnd false) := by
  change execUlcmdDiscard w s = _
  unfold execUlcmdDiscard
  rw [hw]
  dsimp only
  rw [hl]
  rfl

/-- DISCARD of an active log: refused above NEWEST, done at or below OLDEST, else it drops what is older (R139). -/
theorem ulcmdDiscard_active {l : ULog} (hw : s.ulcmdIs w 2 = true) (hl : s.log (field w 63 56) = some l) :
    exec (.ulcmdDiscard w) s = .next
      (if l.newest < field w 31 0 then s.ulcmdEnd false else if field w 31 0 ≤ l.oldest then s.ulcmdEnd true
       else ((s.discardTo (field w 63 56) (field w 31 0)).openLogGate (field w 63 56)).ulcmdEnd true) := by
  change execUlcmdDiscard w s = _
  unfold execUlcmdDiscard
  rw [hw]
  dsimp only
  rw [hl]
  dsimp only
  rw [if_neg (by decide), apply_ite Host.Outcome.next, apply_ite Host.Outcome.next]

end

/-- Settles O43: each event at the pod ports and of PKG.ULCMD by the branch that the statement names. -/
theorem podAndService : Obligations.PodAndService := by
  unfold Obligations.PodAndService
  intro s
  refine ⟨fun kind pa size data => podAccessReceive_elsewhere, ?_, ?_, fun id j data h => podAck_none h j data, ?_,
    fun p => planeTimeout_inTime, fun p hp => planeTimeout_late hp, fun w hw => (ulcmdExtend_eq hw).1,
    fun w t hw => (ulcmdExtend_eq hw).2 t, fun w => ulcmdDiscard_inactive, fun w l => ulcmdDiscard_active⟩
  · intro kind pa size data c hpkg hpa hsize hc
    exact podAccessReceive_noPlace hpkg hpa hsize hc
  · intro kind pa size data hpkg hpa hsize hplace hhome
    exact podAccessReceive_performs hpkg hpa hsize hplace hhome
  · intro id j data x u p c hx hu hst hdone
    exact podAck_performed hx hu hst hdone

end Sys2Proof.Machine

/-! # Proofs: commands and registers of a debug session -/

namespace Sys2Proof.Machine

/-! ### The region of a command -/

section
variable {s : State} {n t : Nat} {go : State → Session → Nat → Region → CmdRes} (hbusy : (s.session n).busy = true)
  (htype : field (s.session n).command 63 56 = t)
include hbusy htype

theorem onCommand_noRegion (h : s.selRegion (s.session n).sel = none) : s.onCommand n t go = .next (s.cmdEnd n 5 0 none) := by
  unfold State.onCommand
  dsimp only
  rw [if_neg (by simp [hbusy, htype]), h]

variable {k : Nat} {r : Region} (hsel : s.selRegion (s.session n).sel = some (k, r))
include hsel

/-- A command below 0x30 does nothing in a sealed region (R424). -/
theorem onCommand_sealed (hseal : r.sealedTo n = true) (ht : t < 0x30) : s.onCommand n t go = .next (s.cmdEnd n 7 rsSealed none) := by
  unfold State.onCommand
  dsimp only
  rw [if_neg (by simp [hbusy, htype]), hsel]
  exact if_pos (by simp [hseal, ht])

/-- Any other runs on the region that its selection names. -/
theorem onCommand_runs (hseal : r.sealedTo n = false ∨ 0x30 ≤ t) :
    s.onCommand n t go = .next (s.cmdSettle n (go s (s.session n) k r)) := by
  unfold State.onCommand
  dsimp only
  rw [if_neg (by simp [hbusy, htype]), hsel]
  refine if_neg ?_
  rcases hseal with h | h
  · simp [h]
  · simp [Nat.not_lt.2 h]

end

/-! ### ACCREG and ACCMEM -/

theorem accreg_eq (s : State) (n : Nat) : exec (.accreg n) s = execAccreg n s := rfl

theorem accmem_eq (s : State) (n : Nat) : exec (.accmem n) s = execAccmem n s := rfl

section
variable {s : State} {n k : Nat} {r : Region} (hbusy : (s.session n).busy = true)
  (hsel : s.selRegion (s.session n).sel = some (k, r)) (hseal : r.sealedTo n = false)
include hbusy hsel hseal

theorem accreg_running (htype : field (s.session n).command 63 56 = 0) (hrun : s.haltedFor k = false) :
    exec (.accreg n) s = .next (s.cmdEnd n 4 rsNotHalted none) := by
  rw [accreg_eq]
  unfold execAccreg
  rw [onCommand_runs hbusy htype hsel (.inl hseal)]
  dsimp only
  rw [hrun]
  rfl

theorem accmem_running (htype : field (s.session n).command 63 56 = 2) (hrun : s.haltedFor k = false) :
    exec (.accmem n) s = .next (s.cmdEnd n 4 rsNotHalted none) := by
  rw [accmem_eq]
  unfold execAccmem
  rw [onCommand_runs hbusy htype hsel (.inl hseal)]
  dsimp only
  rw [hrun]
  rfl

variable (hhalt : s.haltedFor k = true)
include hhalt

section
variable {p : DbgSpot} (htype : field (s.session n).command 63 56 = 0) (hspot : s.spotOf k r (s.session n).sel = some p)
include htype hspot

/-- ACCREG writes the register that its command names (R411, R419). -/
theorem accreg_writes (hwrite : flag (s.session n).command 55 = true) :
    (∀ t v, s.regWrite k r (some p) (field (s.session n).command 23 19) (field (s.session n).command 18 0) ((s.session n).datum 0)
        (s.session n).lastOp = some (.done t v) → exec (.accreg n) s = .next ((t.touched k).cmdEnd n 0 0 none)) ∧
    (s.regWrite k r (some p) (field (s.session n).command 23 19) (field (s.session n).command 18 0) ((s.session n).datum 0)
        (s.session n).lastOp = none → exec (.accreg n) s = .next (s.cmdEnd n 3 0 none)) := by
  rw [accreg_eq]
  unfold execAccreg
  rw [onCommand_runs hbusy htype hsel (.inl hseal)]
  dsimp only
  rw [hhalt, hspot, if_neg (by decide), if_neg (by simp), if_pos hwrite]
  refine ⟨?_, ?_⟩
  · intro t v h
    rw [h]
    rfl
  · intro h
    rw [h]
    rfl

/-- ACCREG reads the register that its command names; a read that passes over no free value (R411, R419). -/
theorem accreg_reads (hread : flag (s.session n).command 55 = false) :
    (field (s.session n).command 23 19 ≠ 1 → field (s.session n).command 23 19 ≠ 3 → field (s.session n).command 23 19 ≠ 7 →
      ∀ v, s.regRead k r (some p) (field (s.session n).command 23 19) (field (s.session n).command 18 0) = some v →
      exec (.accreg n) s = .next
        ((s.modSession n fun y => { y.putData0 v with lastOp := (s.session n).lastOp }).cmdEnd n 0 0 none)) ∧
    (s.regRead k r (some p) (field (s.session n).command 23 19) (field (s.session n).command 18 0) = none →
      exec (.accreg n) s = .next (s.cmdEnd n 3 0 none)) := by
  rw [accreg_eq]
  unfold execAccreg
  rw [onCommand_runs hbusy htype hsel (.inl hseal)]
  dsimp only
  rw [hhalt, hspot, if_neg (by decide), if_neg (by simp), if_neg (by simp [hread])]
  refine ⟨?_, ?_⟩
  · intro h1 h3 h7 v h
    rw [h]
    dsimp only
    rw [if_neg (by simp [h1, h3, h7])]
    simp only [h7, if_false]
    rfl
  · intro h
    rw [h]
    rfl

end

/-- ACCMEM of an aligned address whose home is ready performs there (R412). -/
theorem accmem_performs {pa : Nat} {attr : Attr} (htype : field (s.session n).command 63 56 = 2) (hacc : (s.session n).acc = none)
    (halign : field ((s.session n).datum 1) 2 0 = 0)
    (hlook : s.lookBare { r.cfgOf with phys := flag (s.session n).command 54 }
      (if flag (s.session n).command 55 then accWrite else accRead) ((s.session n).datum 1).toNat = .hit pa attr)
    (hhome : s.homeReady pa = true) :
    exec (.accmem n) s = .next (s.cmdSettle n
      (s.accmemAt n k (s.session n) pa attr (if flag (s.session n).command 55 then accWrite else accRead))) := by
  rw [accmem_eq]
  unfold execAccmem
  rw [onCommand_runs hbusy htype hsel (.inl hseal)]
  dsimp only
  rw [hhalt, if_neg (by decide), if_neg (by simp [halign]), hacc]
  dsimp only
  rw [hlook]
  exact congrArg (fun c => Host.Outcome.next (s.cmdSettle n c)) (if_pos hhome)

end

/-- What an ACCMEM without an address that counts on leaves, once its access has performed (R412). -/
theorem accmemAt_done {s t : State} {n k pa code v : Nat} {x : Session} {attr : Attr} (hinc : flag x.command 53 = false) :
    (flag x.command 55 = true → s.binWrite (keyDie k) attr pa (x.datum 0) = .done t v →
      s.accmemAt n k x pa attr code = .ok ((t.modSession n fun y => y).touched k)) ∧
    (flag x.command 55 = false → s.binRead (keyDie k) attr pa = .done t v →
      s.accmemAt n k x pa attr code = .ok (t.modSession n fun y => y.putData0 (word v))) := by
  refine ⟨?_, ?_⟩
  · intro hwr h
    unfold State.accmemAt
    dsimp only
    rw [if_pos hwr, h]
    simp [State.accmemDone, hwr, hinc]
  · intro hrd h
    unfold State.accmemAt
    dsimp only
    rw [if_neg (by simp [hrd]), h]
    simp [State.accmemDone, hrd, hinc]

/-! ### The registers of a session -/

theorem session_modSession (s : State) (n : Nat) (f : Session → Session) : (s.modSession n f).session n = f (s.session n) :=
  get_put_same ..

theorem modSession_congr {s : State} {n : Nat} {f g : Session → Session} (h : f (s.session n) = g (s.session n)) :
    s.modSession n f = s.modSession n g := congrArg (fun y => { s with sessions := s.sessions.put n y }) h

/-- A command that is in order makes its session BUSY (R410). -/
theorem putCommand_starts {x : Session} {v : Word} (hbusy : x.busy = false) (herr : x.cmderr = 0)
    (htype : cmdTypes.contains (field v 63 56) = true) (hctl : field v 55 0 ||| ctlBits (field v 63 56) = ctlBits (field v 63 56)) :
    x.putCommand v = { x with command := v, sel := x.bsel, busy := true, phase := 0, acc := none } := by
  unfold Session.putCommand
  rw [if_neg (by simp [hbusy]), if_neg (by simp [herr]), if_neg (by simpa [hctl] using htype)]

/-- Clearing bits of CMDERR clears those that the write names (R410). -/
theorem field_clear (c : Nat) (v : Word) :
    field (word c &&& ~~~(word (field v 10 8))) 2 0 < 8 ∧
    ∀ i, i < 3 → (field (word c &&& ~~~(word (field v 10 8))) 2 0).testBit i = (c.testBit i && !v.getLsbD (8 + i)) := by
  have hlow : field (word c &&& ~~~(word (field v 10 8))) 2 0 = (word c &&& ~~~(word (field v 10 8))).toNat % 2 ^ 3 := by
    simp [field, fieldN]
  rw [hlow]
  refine ⟨Nat.mod_lt _ (by decide), fun i hi => ?_⟩
  rw [Nat.testBit_mod_two_pow, BitVec.testBit_toNat]
  simp only [hi, decide_true, Bool.true_and, BitVec.getLsbD_and, BitVec.getLsbD_not, word, BitVec.getLsbD_ofNat, show i < 64 by omega]
  congr 2
  rw [field, fieldN, Nat.testBit_mod_two_pow, Nat.testBit_shiftRight, decide_eq_true hi, Bool.true_and, BitVec.testBit_toNat]

theorem dbgWrite_command (s : State) (n : Nat) (v : Word) : s.dbgWrite n 5 v = s.modSession n fun x => x.putCommand v := by
  unfold State.dbgWrite
  rw [if_neg (by decide), if_neg (by decide), if_pos rfl]

theorem dbgWrite_abstractcs (s : State) (n : Nat) (v : Word) : s.dbgWrite n 6 v =
    s.modSession n fun x => { x with cmderr := field (word x.cmderr &&& ~~~(word (field v 10 8))) 2 0 } := by
  unfold State.dbgWrite
  rw [if_neg (by decide), if_neg (by decide), if_neg (by decide), if_pos rfl]

/-- Settles O44: each command of a session as it runs on its region, and each register by what a write of it leaves. -/
theorem debugAccess : Obligations.DebugAccess := by
  unfold Obligations.DebugAccess
  intro s n x type done
  refine ⟨?_, ?_, ?_, ?_, ?_, ?_⟩
  · intro hbusy hnone
    exact ⟨fun htype => (accreg_eq s n).trans (onCommand_noRegion hbusy htype hnone),
      fun htype => (accmem_eq s n).trans (onCommand_noRegion hbusy htype hnone)⟩
  · intro hbusy k r hsel hseal
    exact ⟨fun htype => (accreg_eq s n).trans (onCommand_sealed hbusy htype hsel hseal (by decide)),
      fun htype => (accmem_eq s n).trans (onCommand_sealed hbusy htype hsel hseal (by decide))⟩
  · intro hbusy k r hsel hseal hrun
    exact ⟨fun htype => accreg_running hbusy hsel hseal htype hrun, fun htype => accmem_running hbusy hsel hseal htype hrun⟩
  · intro hbusy k r p hsel hseal hhalt hspot htype space i
    exact ⟨fun hwr => (accreg_writes hbusy hsel hseal hhalt htype hspot hwr).1, fun hwr => (accreg_writes hbusy hsel hseal hhalt htype hspot hwr).2,
      fun hrd => (accreg_reads hbusy hsel hseal hhalt htype hspot hrd).1, fun hrd => (accreg_reads hbusy hsel hseal hhalt htype hspot hrd).2⟩
  · intro hbusy k r pa attr hsel hseal hhalt htype hacc halign wr hlook hhome
    have hstep := accmem_performs hbusy hsel hseal hhalt htype hacc halign hlook hhome
    refine ⟨?_, ?_⟩
    · intro hwr hinc t v hdone
      rw [hstep, (accmemAt_done hinc).1 hwr hdone]
      rfl
    · intro hrd hinc t v hdone
      rw [hstep, (accmemAt_done hinc).2 hrd hdone]
      rfl
  · intro hn
    have hwrite (reg : Nat) (hreg : reg < 6) (v : Word) : exec (.debugRegisterWrite n reg v) s = .next (s.dbgWrite n reg v) :=
      if_neg (by simp; omega)
    refine ⟨fun v => hwrite 0 (by decide) v, ?_, ?_, ?_⟩
    · intro i v hi
      rw [hwrite (i + 1) (by omega) v]
      unfold State.dbgWrite
      rw [if_neg (Nat.succ_ne_zero i), if_pos (by omega)]
      rfl
    · intro v hbusy herr htype hctl
      rw [hwrite 5 (by decide) v]
      rw [dbgWrite_command]
      exact congrArg _ (modSession_congr (putCommand_starts hbusy herr htype hctl))
    · intro v _
      obtain ⟨hlt, hbits⟩ := field_clear x.cmderr v
      refine ⟨s.dbgWrite n 6 v, if_neg (by omega), ?_⟩
      have hsession : (s.dbgWrite n 6 v).session n = { x with cmderr := field (word x.cmderr &&& ~~~(word (field v 10 8))) 2 0 } :=
        (congrArg (State.session · n) (dbgWrite_abstractcs s n v)).trans (session_modSession ..)
      rw [hsession]
      exact ⟨hlt, hbits, rfl, rfl, rfl⟩

end Sys2Proof.Machine

/-! # Proofs: halting, running, steps back, seals and status -/

namespace Sys2Proof.Machine

section
variable {s : State} {n k : Nat} {r : Region} (hbusy : (s.session n).busy = true)
  (hsel : s.selRegion (s.session n).sel = some (k, r))
include hbusy hsel

/-! ### Seals -/

section
variable (htype : field (s.session n).command 63 56 = 0x30)
include htype

theorem unseal_unkeyed (hkey : r.cfg.keyid = 0) : exec (.unseal n) s = .next (s.cmdEnd n 0 0 none) := by
  change execUnseal n s = _
  unfold execUnseal
  rw [onCommand_runs hbusy htype hsel (.inr (by decide)), if_pos hkey]
  rfl

variable (hkey : r.cfg.keyid ≠ 0)
include hkey

/-- Is the token of an UNSEAL the right one, before eight misses (R424)? -/
theorem unseal_keyed :
    let good := Nat.blt r.misses 8 && optB (s.keys.find r.cfg.keyid) fun e =>
      e.digest.toNat == Config.shake256 ((List.range 4).flatMap fun i => leBytes ((s.session n).datum i).toNat 8) % 2 ^ 256
    let all (f : Region → Region) : State := (s.gangOf k).foldl (fun s g => s.modRegion g f) s
    exec (.unseal n) s = .next (if good then (all fun r => { r with unsealed := setAdd r.unsealed n }).cmdEnd n 0 0 none
      else (all fun r => { r with misses := r.misses + 1 }).cmdEnd n 7 rsSealed none) := by
  intro good all
  change execUnseal n s = _
  unfold execUnseal
  rw [onCommand_runs hbusy htype hsel (.inr (by decide)), if_neg hkey]
  exact congrArg _ (apply_ite (s.cmdSettle n) ..)

end

theorem seal_eq (htype : field (s.session n).command 63 56 = 0x31) : exec (.seal n) s = .next ((s.sealTo k n).cmdEnd n 0 0 none) := by
  change execSeal n s = _
  unfold execSeal
  rw [onCommand_runs hbusy htype hsel (.inr (by decide))]
  rfl

theorem statr_eq (htype : field (s.session n).command 63 56 = 0x40) :
    exec (.statr n) s = .next ((s.modSession n fun x => x.putData0 (s.statusOf k n r)).cmdEnd n 0 0 none) := by
  change execStatr n s = _
  unfold execStatr
  rw [onCommand_runs hbusy htype hsel (.inr (by decide))]
  rfl

variable (hseal : r.sealedTo n = false)
include hseal

/-! ### HALTR, FWD and FSTEP -/

section
variable (htype : field (s.session n).command 63 56 = 0x10)
include htype

theorem haltr_starts (hphase : (s.session n).phase = 0) (hst : r.st ≠ .saved) (hdh : r.dh = false) : exec (.haltr n) s = .next
    ((s.haltGang k { kind := 1, num := 0, x := 0, y := 0, task := 0, fnum := 0, rk := k }).modSession n fun x => { x with phase := 1 }) := by
  change execHaltr n s = _
  unfold execHaltr
  rw [onCommand_runs hbusy htype hsel (.inl hseal), if_neg (by simp [hphase]), if_neg (by simpa using hst), if_neg (by simp [hdh])]
  rfl

/-- HALTR ends once nothing of the gang has moved for a cycle (R174, R414). -/
theorem haltrQuiescent_ends (hphase : (s.session n).phase = 1)
    (hquiet : ∀ g ∈ s.gangOf k, ∀ q, s.regions.find g = some q → q.moved + 2 ≤ s.cycle) :
    exec (.haltrQuiescent n) s = .next ((s.logPointers (s.logOf k)).cmdEnd n 0 0 none) := by
  change execHaltrQuiescent n s = _
  unfold execHaltrQuiescent
  rw [onCommand_runs hbusy htype hsel (.inl hseal)]
  rw [if_pos]
  · rfl
  · simp only [hphase, decide_true, Bool.true_and, List.all_eq_true]
    intro g hg
    cases hq : s.regions.find g with
    | none => rfl
    | some q => exact Nat.ble_eq_true_of_le (hquiet g hg q hq)

end

theorem fwd_eq (htype : field (s.session n).command 63 56 = 0x11) : exec (.fwd n) s = .next
    (if s.haltedFor k = true then (s.runGang k).cmdEnd n 0 0 none else s.cmdEnd n 4 rsNotHalted none) := by
  change execFwd n s = _
  unfold execFwd
  rw [onCommand_runs hbusy htype hsel (.inl hseal)]
  cases s.haltedFor k <;> rfl

section
variable (htype : field (s.session n).command 63 56 = 0x12) (hm : field ((s.session n).datum 0) 31 0 ≠ 0)
include htype hm

theorem fstep_running (hrun : s.haltedFor k = false) : exec (.fstep n) s = .next (s.cmdEnd n 4 rsNotHalted none) := by
  change execFstep n s = _
  unfold execFstep
  rw [onCommand_runs hbusy htype hsel (.inl hseal)]
  dsimp only
  rw [if_neg hm, hrun]
  rfl

/-- FSTEP arms a stop that many firings on, and runs (R415). -/
theorem fstep_arms (hhalt : s.haltedFor k = true) {g f : Nat} {p : DbgSpot} (hstep : s.stepTask k r (s.session n).sel = some (g, p, f)) :
    exec (.fstep n) s = .next
      (((s.modTask p.agent fun t => { t with stopAt := some (f + field ((s.session n).datum 0) 31 0) }).runGang k).cmdEnd n 0 0 none) := by
  change execFstep n s = _
  unfold execFstep
  rw [onCommand_runs hbusy htype hsel (.inl hseal)]
  dsimp only
  rw [if_neg hm, hhalt, if_neg (by decide), hstep]
  rfl

end

/-! ### BACK and BSTEP -/

section
variable (htype : field (s.session n).command 63 56 = 0x20)
include htype

theorem back_running (hrun : s.haltedFor k = false) : exec (.back n) s = .next (s.cmdEnd n 4 rsNotHalted none) := by
  change execBack n s = _
  unfold execBack
  rw [onCommand_runs hbusy htype hsel (.inl hseal)]
  dsimp only
  rw [hrun]
  rfl

variable (hhalt : s.haltedFor k = true)
include hhalt

theorem back_refused {e : Nat} {d : Option Word} (hbad : s.backBad k (field ((s.session n).datum 0) 31 0) = some (e, d)) :
    exec (.back n) s = .next (s.cmdEnd n 7 e d) := by
  change execBack n s = _
  unfold execBack
  rw [onCommand_runs hbusy htype hsel (.inl hseal)]
  dsimp only
  rw [hhalt, if_neg (by decide), hbad]
  rfl

/-- BACK of a retained waypoint with no write outstanding rewinds the context (R141). -/
theorem back_rewinds {l : ULog} (hbad : s.backBad k (field ((s.session n).datum 0) 31 0) = none) (hl : s.log (s.logOf k) = some l)
    (hout : s.writesOut l = false) :
    exec (.back n) s = .next ((s.backTo (s.logOf k) (field ((s.session n).datum 0) 31 0)).cmdEnd n 0 0 none) := by
  change execBack n s = _
  unfold execBack
  rw [onCommand_runs hbusy htype hsel (.inl hseal)]
  dsimp only
  rw [hhalt, if_neg (by decide), hbad, hl]
  dsimp only
  rw [hout]
  rfl

end

section
variable (htype : field (s.session n).command 63 56 = 0x21)
include htype

theorem bstep_running (hphase : (s.session n).phase = 0) (hrun : s.haltedFor k = false) :
    exec (.bstep n) s = .next (s.cmdEnd n 4 rsNotHalted none) := by
  change execBstep n s = _
  unfold execBstep
  rw [onCommand_runs hbusy htype hsel (.inl hseal)]
  rw [if_neg (by simp [hphase]), hrun]
  rfl

/-- BSTEP ends where its forward run has come to the stop (R142). -/
theorem bstep_ends (hphase : (s.session n).phase = 1) (hok : optB (s.log (s.logOf k)) (·.diverged) = false)
    (hhalt : s.haltedFor k = true) : exec (.bstep n) s = .next (s.cmdEnd n 0 0 none) := by
  change execBstep n s = _
  unfold execBstep
  rw [onCommand_runs hbusy htype hsel (.inl hseal)]
  rw [if_pos hphase, hok, hhalt]
  rfl

/-- BSTEP rewinds to the newest waypoint at or before its target, and runs to the stop (R142). -/
theorem bstep_rewinds {l : ULog} {g f wp : Nat} {p : DbgSpot} {q : Region} (hphase : (s.session n).phase = 0)
    (hhalt : s.haltedFor k = true) (hl : s.log (s.logOf k) = some l) (hstep : s.stepTask k r (s.session n).sel = some (g, p, f))
    (hm : field ((s.session n).datum 0) 31 0 ≠ 0) (hle : field ((s.session n).datum 0) 31 0 ≤ f) (hq : s.regions.find g = some q)
    (hway : s.stepWay (s.logOf k) l g (p.key % 16 - q.col0) (((s.die (p.key / 256)).logRow (p.key % 256 / 16)).getD 0 - q.row0) p.task
      (f - field ((s.session n).datum 0) 31 0) = some wp)
    (hbad : s.backBad k wp = none) (hout : s.writesOut l = false) :
    let stop := f - field ((s.session n).datum 0) 31 0
    exec (.bstep n) s = .next
      (((((s.backTo (s.logOf k) wp).modTask p.agent fun t => { t with stopAt := some stop, skip := none }).modLog (s.logOf k) fun l =>
        { l with target := some (p.agent, stop) }).runGang k).modSession n fun x => { x with phase := 1 }) := by
  intro stop
  change execBstep n s = _
  unfold execBstep
  rw [onCommand_runs hbusy htype hsel (.inl hseal)]
  rw [if_neg (by simp [hphase]), hhalt, if_neg (by decide)]
  unfold State.beginBstep
  dsimp only
  rw [hstep, hl]
  dsimp only
  rw [if_neg (by simp only [Bool.or_eq_true, decide_eq_true_eq]; omega), hq]
  dsimp only
  rw [hway]
  dsimp only
  rw [hbad]
  dsimp only
  rw [hout]
  rfl

end

end

/-- Settles O45: each command of a session as it runs on the region that its selection names. -/
theorem debugRun : Obligations.DebugRun := by
  unfold Obligations.DebugRun
  refine ⟨?_, ?_⟩
  · intro s n k r x type m done ln hbusy hsel hseal
    refine ⟨?_, ?_, ?_, ?_, ?_, ?_, ?_, ?_, ?_, ?_, ?_, ?_⟩
    · exact haltr_starts hbusy hsel hseal
    · exact haltrQuiescent_ends hbusy hsel hseal
    · intro htype hhalt
      rw [fwd_eq hbusy hsel hseal htype, if_pos hhalt]
    · intro htype hm hhalt g p f hstep
      exact fstep_arms hbusy hsel hseal htype hm hhalt hstep
    · intro hcases hrun o
      refine ⟨?_, ?_, ?_, ?_⟩
      · intro htype
        rw [fwd_eq hbusy hsel hseal htype, if_neg (by simp [hrun])]
      · intro htype
        have hm : m ≠ 0 := by omega
        exact fstep_running hbusy hsel hseal htype hm hrun
      · intro htype
        exact back_running hbusy hsel hseal htype hrun
      · intro htype
        have hphase : x.phase = 0 := by omega
        exact bstep_running hbusy hsel hseal htype hphase hrun
    · intro htype hhalt hbad l hl hout
      exact back_rewinds hbusy hsel hseal htype hhalt hbad hl hout
    · intro htype hhalt e d hbad
      exact back_refused hbusy hsel hseal htype hhalt hbad
    · intro htype hphase hhalt l g p f q wp hl hstep hm hle hq hway hbad hout
      exact bstep_rewinds hbusy hsel hseal htype hphase hhalt hl hstep hm hle hq hway hbad hout
    · exact bstep_ends hbusy hsel hseal
    · exact unseal_unkeyed hbusy hsel
    · exact seal_eq hbusy hsel
    · exact statr_eq hbusy hsel
  · intro s n k r x digest all hbusy htype hsel hkey
    have hstep := unseal_keyed hbusy hsel htype hkey
    refine ⟨?_, ?_⟩
    · intro e he hdigest hmisses
      rw [hstep, if_pos]
      rw [he]
      simp only [optB, Bool.and_eq_true, beq_iff_eq, Nat.blt_eq]
      exact ⟨hmisses, hdigest⟩
    · intro hbad
      rw [hstep, if_neg]
      rw [Bool.and_eq_true, Nat.blt_eq]
      rintro ⟨hmisses, hgood⟩
      rcases hbad with h | h | ⟨e, he, hne⟩
      · omega
      · rw [h] at hgood
        exact Bool.noConfusion hgood
      · rw [he] at hgood
        exact hne (beq_iff_eq.1 hgood)

end Sys2Proof.Machine

/-! # Proofs: that memory stays canonical: operations, logs, banks, firing and routers -/

namespace Sys2Proof.Machine

/-! Whatever happens in a step, memory keeps its one canonical form (R70, log entry 2). `State.Wf` says it of a state, and for each
kind of result of the model a predicate says it of the state in that result. One lemma for each function follows, in the order of
the model: from a canonical state the function gives a canonical one. Only the operations that `MemOp` is about write bytes of
memory; every other lemma unfolds its one function and cites the lemmas of the functions that it calls. -/

/-- Memory is in canonical form. -/
def State.Wf (s : State) : Prop := Memory.wf s.mem = true

/-! ## The same of the results that carry a state -/

def PerfRes.Wf : PerfRes → Prop
  | .done s _ | .wait s => s.Wf
  | _ => True

def LogRes.Wf : LogRes → Prop
  | .done s => s.Wf
  | _ => True

def RingRes.Wf : RingRes → Prop
  | .perf r => r.Wf
  | _ => True

def ClaimRes.Wf : ClaimRes → Prop
  | .taken s => s.Wf
  | _ => True

def AddRes.Wf : AddRes → Prop
  | .done s | .wait s => s.Wf

def ElemRes.Wf : ElemRes → Prop
  | .ok s _ | .wait s | .bad s _ _ _ | .claim s _ _ | .hold s _ _ _ => s.Wf
  | _ => True

def Looked.Wf : Looked → Prop
  | .ok s _ | .wait s | .bad s _ _ _ => s.Wf

def Bytes.Wf : Bytes → Prop
  | .ok s _ | .wait s | .bad s _ _ _ | .need s _ => s.Wf

def LoadRun.Wf (r : LoadRun) : Prop := r.res.Wf

def CmdRes.Wf : CmdRes → Prop
  | .ok s | .busy s => s.Wf
  | .err .. => True

def ChunkRes.Wf : ChunkRes → Prop
  | .ok s _ _ _ | .wait s | .bad s _ _ _ | .need s _ => s.Wf

def WriteRun.Wf (r : WriteRun) : Prop := r.s.Wf

def RecRes.Wf : RecRes → Prop
  | .ok s _ | .wait s | .bad s _ _ _ => s.Wf

def CommitRes.Wf : CommitRes → Prop
  | .done s _ | .wait s | .fault s _ _ _ => s.Wf

def JudgeRes.Wf : JudgeRes → Prop
  | .go s | .wait s | .fault s _ _ _ _ => s.Wf

def LateRes.Wf : LateRes → Prop
  | .go s _ | .fault s _ _ _ _ => s.Wf

def SaveRes.Wf : SaveRes → Prop
  | .done s | .wait s | .pod s _ | .full s _ _ _ | .fail s _ => s.Wf

def RestRes.Wf : RestRes → Prop
  | .done s | .wait s | .need s _ | .refuse s _ _ _ => s.Wf

def Fetched.Wf : Fetched → Prop
  | .ok s _ | .wait s => s.Wf
  | .bad .. => True

def GotChart.Wf : GotChart → Prop
  | .ok s _ | .wait s => s.Wf
  | .bad .. => True

def Phase1.Wf : Phase1 → Prop
  | .ok s _ | .wait s | .refuse s _ _ _ => s.Wf

def Prep.Wf : Prep → Prop
  | .idle s | .run s _ => s.Wf
  | .bad => True

/-- What an instruction answers next, if it does, is a state with canonical memory. -/
def NextWf : Host.Outcome State Fault Refusal → Prop
  | .next s => s.Wf
  | _ => True

/-! ## General rules -/

theorem LogRes.From.Wf {s : State} {r : LogRes} (h : r.From s) (hs : s.Wf) : r.Wf := by
  cases r with
  | done t => exact (h.done t rfl).wf hs
  | _ => trivial

theorem of_ite {α : Type} {P : α → Prop} {c : Prop} [Decidable c] {x y : α} (hx : P x) (hy : P y) : P (if c then x else y) :=
  iteInduction (fun _ => hx) fun _ => hy

theorem wf_getD {s : State} {o : Option State} (hs : s.Wf) (ho : ∀ t, o = some t → t.Wf) : (o.getD s).Wf := by
  cases o with
  | none => exact hs
  | some t => exact ho t rfl

theorem wf_withEntries {s : State} (h : s.Wf) (es : Table Word) : State.Wf { s with entries := es } := h

theorem wf_withLinks {s : State} (h : s.Wf) (l : List Nat) : State.Wf { s with links := l } := h

theorem wf_status {s : State} {st code : Nat} (h : s.Wf) : (CommitRes.status s st code).Wf := h

/-- A fold keeps memory canonical when each of its steps does. -/
theorem wf_foldl {α : Type} {g : State → α → State} {s : State} (hg : ∀ t x, t.Wf → (g t x).Wf) (l : List α) (h : s.Wf) :
    (l.foldl g s).Wf := by
  induction l generalizing s with
  | nil => exact h
  | cons x r ih => exact ih (hg s x h)

theorem wf_foldl_pair {α β : Type} {g : State × β → α → State × β} {p : State × β} (hg : ∀ q x, q.1.Wf → (g q x).1.Wf)
    (l : List α) (h : p.1.Wf) : (l.foldl g p).1.Wf := by
  induction l generalizing p with
  | nil => exact h
  | cons x r ih => exact ih (hg p x h)

section
variable {s : State}

/-! ## The state after reset -/

theorem wf_reset : State.reset.Wf := rfl

/-! ## Operations over the state -/

theorem wf_modCell {k : Nat} {f : Cell → Cell} (h0 : s.Wf) : (s.modCell k f).Wf := h0

theorem wf_modHelm {n : Nat} {f : Helm → Helm} (h0 : s.Wf) : (s.modHelm n f).Wf := h0

theorem wf_modPort {n : Nat} {f : Port → Port} (h0 : s.Wf) : (s.modPort n f).Wf := h0

theorem wf_modDie {d : Nat} {f : Die → Die} (h0 : s.Wf) : (s.modDie d f).Wf := h0

theorem wf_modRegion {k : Nat} {f : Region → Region} (h0 : s.Wf) : (s.modRegion k f).Wf := by
  unfold State.modRegion
  grind [State.Wf]

theorem wf_modCopyq {q : Nat} {f : CopyQ → CopyQ} (h0 : s.Wf) : (s.modCopyq q f).Wf := h0

theorem wf_modSession {n : Nat} {f : Session → Session} (h0 : s.Wf) : (s.modSession n f).Wf := h0

theorem wf_modAcc {id : Nat} {f : Access → Access} (h0 : s.Wf) : (s.modAcc id f).Wf := (memOp_modAcc ..).wf h0

theorem wf_modTask {a : Agent} {f : TaskCtx → TaskCtx} (h0 : s.Wf) : (s.modTask a f).Wf := by
  unfold State.modTask
  grind [wf_modCell, wf_modHelm]

theorem wf_modWin {a : Agent} {f : Win → Win} (h0 : s.Wf) : (s.modWin a f).Wf := wf_modTask h0

theorem wf_moved {k : Nat} (h0 : s.Wf) : (s.moved k).Wf := wf_modRegion h0

theorem wf_spend {k ev n : Nat} (h0 : s.Wf) : (s.spend k ev n).Wf := wf_modRegion h0

theorem wf_post {d : Nat} {ev payload : Word} (h0 : s.Wf) : (s.post d ev payload).Wf := h0

theorem wf_plainWrite {k pa : Nat} {bs : List Byte} (h0 : s.Wf) : (s.plainWrite k pa bs).Wf := (memOp_plainWrite ..).wf h0

theorem wf_markLine {line : Nat} (h0 : s.Wf) : (s.markLine line).Wf := (memOp_markLine ..).wf h0

theorem wf_homeError {pa : Nat} {corrected : Bool} (h0 : s.Wf) : (s.homeError pa corrected).Wf := by
  unfold State.homeError
  grind [State.Wf, wf_markLine]

theorem wf_tileError {cell tile off : Nat} {corrected : Bool} (h0 : s.Wf) : (s.tileError cell tile off corrected).Wf := by
  unfold State.tileError
  grind [State.Wf, wf_modCell]

theorem wf_logPointers {ln : Nat} (h0 : s.Wf) : (s.logPointers ln).Wf := (memOp_logPointers ..).wf h0

theorem wf_report {k : Nat} {f : FaultRec} {quiet : Bool} (h0 : s.Wf) : (s.report k f quiet).Wf :=
  wf_modRegion (wf_logPointers h0)

theorem wf_openUnits {op : Nat} {us : List AUnit} {about : optParam Nat 0} (h0 : s.Wf) : (s.openUnits op us about).Wf :=
  (memOp_openUnits ..).wf h0

theorem wf_letClaims {p : Access → Bool} (h0 : s.Wf) : (s.letClaims p).Wf := (memOp_letClaims ..).wf h0

theorem wf_releaseClaims {a : Agent} {seq : Nat} (h0 : s.Wf) : (s.releaseClaims a seq).Wf := wf_letClaims h0

theorem wf_freeColour {k col : Nat} (h0 : s.Wf) : (s.freeColour k col).Wf := wf_modRegion h0

theorem wf_takeFault {a : Agent} {f : FaultRec} (h0 : s.Wf) : (s.takeFault a f).Wf := by
  unfold State.takeFault
  grind [State.Wf, wf_modCell, wf_modHelm, wf_modRegion, wf_modTask, wf_report, wf_releaseClaims, wf_freeColour, wf_foldl]

theorem wf_takeStop {a : Agent} {f : FaultRec} {quiet : Bool} (h0 : s.Wf) : (s.takeStop a f quiet).Wf := by
  unfold State.takeStop
  grind [State.Wf, wf_modHelm, wf_modTask, wf_report]

theorem wf_takeHeld {k : Nat} {f : FaultRec} (h0 : s.Wf) : (s.takeHeld k f).Wf := wf_report h0

theorem wf_startBlock {a : Agent} {baddr : Nat} (h0 : s.Wf) : (s.startBlock a baddr).Wf := by
  unfold State.startBlock
  grind [wf_modCell, wf_modHelm, wf_modTask]

theorem wf_retryFault {f : FaultRec} (h0 : s.Wf) : (s.retryFault f).Wf := by
  unfold State.retryFault
  grind [State.Wf, wf_modCell, wf_modAcc, wf_modTask, wf_modWin, wf_startBlock]

theorem wf_askFills {d : Nat} (h0 : s.Wf) : (s.askFills d).Wf := (memOp_askFills ..).wf h0

theorem wf_resumeRegion {k : Nat} (h0 : s.Wf) : (s.resumeRegion k).Wf := by
  unfold State.resumeRegion
  grind [wf_modRegion, wf_retryFault, wf_askFills, wf_foldl]

/-! ## Operand tokens -/

theorem wf_takeIn {a : Agent} {j : Nat} (h0 : s.Wf) : (s.takeIn a j).Wf := by
  unfold State.takeIn
  grind [wf_modCell]

theorem wf_takeAs {a : Agent} {j : Nat} {head : Bool} (h0 : s.Wf) : (s.takeAs a j head).Wf := by
  unfold State.takeAs
  grind [wf_modCell]

theorem wf_takeChan {a : Agent} {j : Nat} (h0 : s.Wf) : (s.takeChan a j).Wf := wf_takeAs h0

theorem wf_takeHead {a : Agent} {j : Nat} (h0 : s.Wf) : (s.takeHead a j).Wf := wf_takeAs h0

/-! ## Walks and TLBs -/

theorem wf_lookPort {port : Nat} {cfg : Cfg} {acc va : Nat} (h0 : s.Wf) : (s.lookPort port cfg acc va).2.Wf := h0

theorem wf_localPut {a : Agent} {addr : Nat} {b : Byte} (h0 : s.Wf) : (s.localPut a addr b).Wf := by
  unfold State.localPut
  grind [wf_modCell, wf_modHelm]

theorem wf_localWrite {a : Agent} {y1 : Nat} {y : List Byte} (h0 : s.Wf) : (s.localWrite a y1 y).Wf := by
  fun_induction s.localWrite a y1 y <;> grind [wf_localPut]

theorem wf_localClean {a : Agent} {addr n : Nat} (h0 : s.Wf) : (s.localClean a addr n).Wf := by
  unfold State.localClean
  grind [wf_modCell]

/-! ## Home slices, logs, banks and links -/

theorem wf_modLog {ln : Nat} {f : ULog → ULog} (h0 : s.Wf) : (s.modLog ln f).Wf := (memOp_modLog ..).wf h0

theorem wf_logHeader {ln : Nat} (h0 : s.Wf) : (s.logHeader ln).Wf := (memOp_logHeader ..).wf h0

theorem wf_endReplay {ln : Nat} (h0 : s.Wf) : (s.endReplay ln).Wf := (memOp_endReplay ..).wf h0

theorem wf_putForeign {n0 n1 : Nat} (h0 : s.Wf) : (s.putForeign n0 n1).Wf := (memOp_putForeign ..).wf h0

theorem wf_putNote {ln key v : Nat} (h0 : s.Wf) : (s.putNote ln key v).Wf := (memOp_putNote ..).wf h0

theorem wf_countLine {line : Nat} (h0 : s.Wf) : (s.countLine line).Wf := (memOp_countLine ..).wf h0

theorem wf_foreignNow {ln key : Nat} (h0 : s.Wf) : (s.foreignNow ln key).Wf := (from_foreignNow ..).Wf h0

theorem wf_append {s0 : State} {ln key w0 w1 : Nat} (h0 : s0.Wf) : (s0.append ln key w0 w1).Wf := (from_append ..).Wf h0

theorem wf_horizon {ln cause : Nat} (h0 : s.Wf) : (s.horizon ln cause).Wf := (memOp_horizon ..).wf h0

theorem wf_orderLine {s0 : State} {ln : Nat} {ag : Option Agent} {pa : Nat} (h0 : s0.Wf) : (s0.orderLine ln ag pa).Wf :=
  (from_orderLine ..).Wf h0

theorem wf_logWord {src : Src} {attr : Attr} {wd v : Nat} {pres : Bool} (h0 : s.Wf) : (s.logWord src attr wd v pres).Wf :=
  (from_logWord ..).Wf h0

theorem wf_homeWrite {src : Src} {attr : Attr} {pres : Bool} {pa : Nat} {bs : List Byte} (h0 : s.Wf) :
    (s.homeWrite src attr pres pa bs).Wf := (from_homeWrite ..).Wf h0

theorem wf_orderLines {ln : Nat} {ag : Option Agent} {y : List Nat} (h0 : s.Wf) : (s.orderLines ln ag y).Wf := by
  fun_induction s.orderLines ln ag y <;> grind [LogRes.Wf, wf_orderLine]

theorem wf_homeReadOrder {src : Src} {pa n : Nat} (h0 : s.Wf) : (s.homeReadOrder src pa n).Wf := by
  unfold State.homeReadOrder
  grind [LogRes.Wf, wf_orderLines]

theorem wf_hitOrder {src : Src} {pa : Nat} (h0 : s.Wf) : ∀ t : State, s.hitOrder src pa = some t → t.Wf := by
  unfold State.hitOrder
  grind [wf_countLine]

theorem wf_bankPod {op cell tile pa : Nat} {parts : List (Nat × Nat × Nat)} {marked : optParam Bool false} (h0 : s.Wf) :
    (s.bankPod op cell tile pa parts marked).Wf := (memOp_bankPod ..).wf h0

theorem wf_writeBack {cell tile line : Nat} (h0 : s.Wf) : (s.writeBack cell tile line).Wf := (memOp_writeBack ..).wf h0

theorem wf_writeBackTile {cell tile : Nat} (h0 : s.Wf) : (s.writeBackTile cell tile).Wf := (memOp_writeBackTile ..).wf h0

theorem wf_clearBanks {key k : Nat} (h0 : s.Wf) : (s.clearBanks key k).1.Wf := by
  unfold State.clearBanks
  grind [wf_writeBackTile, wf_foldl]

theorem wf_writeBackRegion {k : Nat} (h0 : s.Wf) : (s.writeBackRegion k).Wf := by
  unfold State.writeBackRegion
  grind [wf_writeBackTile, wf_foldl]

theorem wf_bankAlloc {cell tile line : Nat} (h0 : s.Wf) : (s.bankAlloc cell tile line).Wf := (memOp_bankAlloc ..).wf h0

theorem wf_bankOrder {src : Src} {pa : Nat} (h0 : s.Wf) : (s.bankOrder src pa).Wf := (from_bankOrder ..).Wf h0

theorem wf_bankWrite {src : Src} {attr : Attr} {cell tile line off : Nat} {bs : List Byte} (h0 : s.Wf) :
    (s.bankWrite src attr cell tile line off bs).Wf := (from_bankWrite ..).Wf h0

theorem wf_rdcRequest {d line : Nat} (h0 : s.Wf) : (s.rdcRequest d line).Wf := by
  unfold State.rdcRequest
  grind [wf_modDie]

theorem wf_advanceGen {d : Nat} (h0 : s.Wf) : (s.advanceGen d).Wf := h0

theorem wf_acquireAt {a : Agent} {sc : Nat} (h0 : s.Wf) : (s.acquireAt a sc).Wf := by
  unfold State.acquireAt
  grind [wf_advanceGen]

theorem wf_viaLinks {src : Src} {pa : Nat} {r : PerfRes} (h0 : s.Wf) (h1 : r.Wf) : (s.viaLinks src pa r).Wf := by
  unfold State.viaLinks
  grind [PerfRes.Wf]

theorem wf_readHome {src : Src} {attr : Attr} {pa n : Nat} (h0 : s.Wf) : (s.readHome src attr pa n).Wf := by
  unfold State.readHome
  grind [LogRes.Wf, PerfRes.Wf, wf_homeReadOrder]

theorem wf_readAt {src : Src} {attr : Attr} {relaxed : Bool} {pa n : Nat} (h0 : s.Wf) :
    (s.readAt src attr relaxed pa n).Wf := by
  unfold State.readAt
  split
  · grind [PerfRes.Wf, LogRes.Wf, wf_bankAlloc, wf_bankOrder, wf_viaLinks]
  · exact wf_viaLinks h0 (wf_readHome h0)
  · grind [PerfRes.Wf, LogRes.Wf, wf_homeReadOrder, wf_hitOrder, wf_rdcRequest, wf_viaLinks, wf_readHome,
      Option.bind_eq_some_iff, Option.map_eq_some_iff]
  · grind [PerfRes.Wf]

theorem wf_writeAt {src : Src} {attr : Attr} {pres : Bool} {pa : Nat} {bs : List Byte} (h0 : s.Wf) :
    (s.writeAt src attr pres pa bs).Wf := by
  unfold State.writeAt
  grind [State.Wf, LogRes.Wf, PerfRes.Wf, wf_homeWrite, wf_bankWrite, wf_viaLinks]

theorem wf_readCuts {src : Src} {attr : Attr} {relaxed : Bool} {y : List (Nat × Nat)} (h0 : s.Wf) :
    (s.readCuts src attr relaxed y).Wf := by
  fun_induction s.readCuts src attr relaxed y <;> grind [PerfRes.Wf, wf_readAt]

theorem wf_readSpan {src : Src} {attr : Attr} {relaxed : Bool} {pa n : Nat} (h0 : s.Wf) :
    (s.readSpan src attr relaxed pa n).Wf := wf_readCuts h0

theorem wf_writeCuts {s0 : State} {src : Src} {attr : Attr} {pres : Bool} {pa : Nat} {bs : List Byte} {y : List (Nat × Nat)}
    (h0 : s0.Wf) (h1 : s.Wf) : (s0.writeCuts s src attr pres pa bs y).Wf := by
  fun_induction s0.writeCuts s src attr pres pa bs y <;> grind [PerfRes.Wf, wf_writeAt]

theorem wf_writeSpan {src : Src} {attr : Attr} {pres : Bool} {pa : Nat} {bs : List Byte} (h0 : s.Wf) :
    (s.writeSpan src attr pres pa bs).Wf := by
  unfold State.writeSpan
  grind [wf_writeCuts]

theorem wf_clearMark {src : Src} {pa : Nat} (h0 : s.Wf) : (s.clearMark src pa).Wf := by
  unfold State.clearMark
  grind [State.Wf, wf_modCell, wf_modDie]

theorem wf_rmwAt {src : Src} {attr : Attr} {pa n : Nat} {f : Nat → Option Nat} (h0 : s.Wf) : (s.rmwAt src attr pa n f).Wf := by
  unfold State.rmwAt
  grind [PerfRes.Wf, wf_readAt, wf_writeAt]

/-! ## Barrier instances -/

theorem wf_arrive {a : Agent} {f : FmtS} {v : Option Token} (h0 : s.Wf) : (s.arrive a f v).Wf := by
  unfold State.arrive
  grind [State.Wf]

theorem wf_podArrive {pkg asid bid n count : Nat} {val : Option (Nat × Nat × Nat × Nat)} (h0 : s.Wf) :
    (s.podArrive pkg asid bid n count val).Wf := by
  unfold State.podArrive
  grind [State.Wf]

/-! ## The trace writer -/

theorem wf_traceFault {k : Nat} (h0 : s.Wf) : (s.traceFault k).Wf := (memOp_traceFault ..).wf h0

theorem wf_traceRec {k head : Nat} {body : List Byte} (h0 : s.Wf) : (s.traceRec k head body).Wf := (memOp_traceRec ..).wf h0

theorem wf_traceNode {a : Agent} {slot : Nat} (h0 : s.Wf) : (s.traceNode a slot).Wf := (memOp_traceNode ..).wf h0

theorem wf_traceEvent {k ev arg : Nat} (h0 : s.Wf) : (s.traceEvent k ev arg).Wf := (memOp_traceEvent ..).wf h0

theorem wf_traceElide {k : Nat} (h0 : s.Wf) : (s.traceElide k).Wf := wf_modRegion h0

/-! ## Firing an instruction -/

theorem wf_blockFault {a : Agent} {slot : Option Nat} {fclass detail addr : Nat} (h0 : s.Wf) :
    (s.blockFault a slot fclass detail addr).Wf := by
  unfold State.blockFault
  grind [wf_takeFault, wf_traceEvent]

theorem wf_setSlot {a : Agent} {i : Nat} {g : Slot → Slot} (h0 : s.Wf) : (s.setSlot a i g).Wf := wf_modWin h0

theorem wf_give {a : Agent} {i n : Nat} {x : Fld} {tok : Token} {lat : Nat} (h0 : s.Wf) : (s.give a i n x tok lat).Wf := by
  unfold State.give
  grind [wf_blockFault, wf_setSlot]

theorem wf_giveReg {a : Agent} {i n : Nat} {v : Option Payload} (h0 : s.Wf) : (s.giveReg a i n v).Wf := by
  unfold State.giveReg
  grind [wf_modWin, wf_blockFault]

theorem wf_giveChan {a : Agent} {i j : Nat} {fromX : Bool} {op : Nat} {f : Fmt} {tok : Token} (h0 : s.Wf) :
    (s.giveChan a i j fromX op f tok).Wf := by
  unfold State.giveChan
  grind [wf_modCell, wf_modWin]

theorem wf_send {a : Agent} {i op : Nat} {f : Fmt} {tgt : Target} {tok : Token} {lat : Nat} (h0 : s.Wf) :
    (s.send a i op f tgt tok lat).Wf := by
  unfold State.send
  grind [wf_give, wf_giveReg, wf_giveChan]

theorem wf_sendBoth {a : Agent} {i op : Nat} {f : Fmt} {tok : Token} {lat : Nat} (h0 : s.Wf) :
    (s.sendBoth a i op f tok lat).Wf := wf_send (wf_send h0)

theorem wf_countFiring {a : Agent} {i : Nat} {st : SlotSt} (h0 : s.Wf) : (s.countFiring a i st).Wf := by
  unfold State.countFiring
  grind [wf_modCell, wf_modRegion, wf_modWin, wf_spend, wf_traceNode, wf_setSlot]

theorem wf_fireNull {a : Agent} {i op : Nat} {f : Fmt} (h0 : s.Wf) : (s.fireNull a i op f).Wf := wf_sendBoth (wf_countFiring h0)

theorem wf_firePass {a : Agent} {i op : Nat} {f : Fmt} {k : Nat} (h0 : s.Wf) : (s.firePass a i op f k).Wf := by
  unfold State.firePass
  grind [wf_sendBoth, wf_countFiring]

theorem wf_dropChl {a : Agent} {op : Nat} {f : Fmt} {sl : Slot} (h0 : s.Wf) : (s.dropChl a op f sl).Wf := by
  unfold State.dropChl
  grind [wf_takeChan]

theorem wf_endHead {a : Agent} {c lanes : Nat} {kg : Option Nat} {hd : Token} (h0 : s.Wf) : (s.endHead a c lanes kg hd).Wf := by
  unfold State.endHead
  grind [State.Wf]

theorem wf_passChl {a : Agent} {op : Nat} {f : Fmt} {sl : Slot} (h0 : s.Wf) : (s.passChl a op f sl).Wf := by
  unfold State.passChl
  grind [wf_takeHead, wf_endHead]

theorem wf_fireWith {op : Nat} {f : Fmt} {go : State → Agent → Nat → Slot → State} (h0 : s.Wf)
    (h1 : ∀ (t : State) (x : Agent) (k : Nat) (r : Slot), t.Wf → (go t x k r).Wf) : NextWf (fireWith s op f go) := by
  unfold fireWith
  grind [wf_countFiring, wf_fireNull, wf_firePass, wf_dropChl, wf_passChl, NextWf]

theorem wf_fireTok {op : Nat} {f : Fmt} {lat : Nat} {res : State → Agent → Nat → Slot → Token × Nat} (h0 : s.Wf) :
    NextWf (fireTok s op f lat res) := by
  unfold fireTok
  grind [wf_modWin, wf_sendBoth, wf_fireWith]

/-! ## Dataflow instructions -/

theorem wf_execMov {f : FmtG} (h0 : s.Wf) : NextWf (execMov f s) := by
  unfold execMov
  grind [wf_setSlot, wf_sendBoth, wf_fireWith]

theorem wf_execMovi {f : FmtI} (h0 : s.Wf) : NextWf (execMovi f s) := wf_fireTok h0

theorem wf_execNullTok {f : FmtG} (h0 : s.Wf) : NextWf (execNullTok f s) := wf_fireTok h0

theorem wf_execReadReg {f : FmtG} (h0 : s.Wf) : NextWf (execReadReg f s) := wf_fireTok h0

theorem wf_execSel {f : FmtG} (h0 : s.Wf) : NextWf (execSel f s) := wf_fireTok h0

theorem wf_inTake {a : Agent} {i j : Nat} {tok : Token} (h0 : s.Wf) : (s.inTake a i j tok).Wf := by
  unfold State.inTake
  grind [wf_modWin, wf_takeChan]

theorem wf_execInTok {f : FmtG} (h0 : s.Wf) : NextWf (execInTok f s) := by
  unfold execInTok
  grind [wf_setSlot, wf_sendBoth, wf_fireWith, wf_inTake]

theorem wf_execStopTok {f : FmtG} (h0 : s.Wf) : NextWf (execStopTok f s) := wf_fireTok h0

theorem wf_execTokt {f : FmtG} (h0 : s.Wf) : NextWf (execTokt f s) := by
  unfold execTokt
  grind [wf_send, wf_fireWith]

theorem wf_execColor {f : FmtG} (h0 : s.Wf) : NextWf (execColor f s) := wf_fireTok h0

/-! ## Routers -/

theorem wf_latchPut {key lk : Nat} {tok : Token} (h0 : s.Wf) : (s.latchPut key lk tok).Wf := h0

theorem wf_inboxPut {key circ : Nat} {tok : Token} (h0 : s.Wf) : (s.inboxPut key circ tok).Wf := h0

theorem wf_entered {k : Nat} (h0 : s.Wf) : (s.entered k).Wf := wf_modRegion h0

theorem wf_emitPort {k0 d p circ : Nat} {tok : Token} {port : Nat} (h0 : s.Wf) : (s.emitPort k0 d p circ tok port).Wf := by
  unfold State.emitPort
  grind [wf_modPort, wf_latchPut, wf_entered]

theorem wf_emit {k0 d p mask circ : Nat} {tok : Token} (h0 : s.Wf) : (s.emit k0 d p mask circ tok).Wf := by
  unfold State.emit
  grind [wf_spend, wf_latchPut, wf_inboxPut, wf_emitPort, wf_foldl]

theorem wf_latchPop {key lk : Nat} (h0 : s.Wf) : (s.latchPop key lk).Wf := h0

theorem wf_routed {key cctx : Nat} (h0 : s.Wf) : (s.routed key cctx).Wf := wf_moved h0

theorem wf_spliceAt {key cctx lk : Nat} (h0 : s.Wf) : (s.spliceAt key cctx lk).Wf := wf_routed h0

theorem wf_takeSplices {key cctx : Nat} {e : Word} (h0 : s.Wf) : ∀ t : State, s.takeSplices key cctx e = some t → t.Wf := by
  unfold State.takeSplices
  grind [wf_spliceAt]

theorem wf_routeWith {key cctx cid k : Nat} {go : State → Word → State} (h0 : s.Wf)
    (h1 : ∀ (t : State) (v : Word), t.Wf → (go t v).Wf) : NextWf (s.routeWith key cctx cid k go) := by
  unfold State.routeWith
  grind [wf_takeSplices, NextWf]

theorem wf_execCircuitForward {key cctx cid : Nat} (h0 : s.Wf) : NextWf (execCircuitForward key cctx cid s) := by
  unfold execCircuitForward
  grind [wf_emit, wf_latchPop, wf_routed, wf_routeWith]

theorem wf_execRouterSteer {key cctx cid : Nat} (h0 : s.Wf) : NextWf (execRouterSteer key cctx cid s) := by
  unfold execRouterSteer
  grind [wf_emit, wf_latchPop, wf_routed, wf_routeWith]

theorem wf_execRouterMerge {key cctx cid : Nat} (h0 : s.Wf) : NextWf (execRouterMerge key cctx cid s) := by
  unfold execRouterMerge
  grind [wf_emit, wf_latchPop, wf_routed, wf_routeWith]

theorem wf_execRouterCarry {key cctx cid : Nat} (h0 : s.Wf) : NextWf (execRouterCarry key cctx cid s) := by
  unfold execRouterCarry
  grind [wf_modCell, wf_emit, wf_latchPop, wf_routed, wf_routeWith]

end

end Sys2Proof.Machine

/-! # Proofs: that memory stays canonical: digit operators, accesses, rings and elements -/

namespace Sys2Proof.Machine

section
variable {s : State}

/-! ## Digit operators -/

theorem wf_eatDigit {a : Agent} {i op : Nat} {f : Fmt} {sl : Slot} {x : Fld} {pos : Nat} {grp : Option Nat} (h0 : s.Wf) :
    (s.eatDigit a i op f sl x pos grp).Wf := by
  unfold State.eatDigit
  grind [wf_takeIn, wf_takeHead, wf_blockFault, wf_setSlot]

theorem wf_setDig {a : Agent} {i : Nat} {e : DigEng} (h0 : s.Wf) : (s.setDig a i e).Wf := wf_setSlot h0

theorem wf_sendEnd {a : Agent} {i op : Nat} {f : Fmt} {x : Fld} {src pos lanes : Nat} {kg : Option Nat} (h0 : s.Wf) :
    (s.sendEnd a i op f x src pos lanes kg).Wf := by
  unfold State.sendEnd
  grind [State.Wf, wf_endHead]

theorem wf_countKills {k g n : Nat} (h0 : s.Wf) : (s.countKills k g n).Wf := wf_modRegion (wf_modRegion h0)

theorem wf_endIn {a : Agent} {i op : Nat} {f : Fmt} {e : DigEng} {x : Fld} {lanes : Nat} {kg : Option Nat} (h0 : s.Wf) :
    (s.endIn a i op f e x lanes kg).1.Wf := by
  unfold State.endIn
  grind [wf_sendEnd]

theorem wf_killIn {a : Agent} {i op : Nat} {g : FmtG} {e : DigEng} {x : Fld} {lanes : Nat} (h0 : s.Wf) :
    (s.killIn a i op g e x lanes).1.Wf := by
  unfold State.killIn
  grind [wf_countKills, wf_endIn]

theorem wf_settleDigit {a : Agent} {i op : Nat} {g : FmtG} {e : DigEng} (h0 : s.Wf) : (s.settleDigit a i op g e).Wf := by
  unfold State.settleDigit
  grind [wf_setSlot, wf_sendBoth, wf_setDig, wf_endIn, wf_foldl_pair]

theorem wf_sendHead {a : Agent} {i op : Nat} {g : FmtG} {e : DigEng} (h0 : s.Wf) : (s.sendHead a i op g e).1.Wf :=
  wf_sendBoth (wf_modWin h0)

theorem wf_sendDigit {a : Agent} {i op : Nat} {g : FmtG} {e : DigEng} {stopped : Nat} (h0 : s.Wf) :
    (s.sendDigit a i op g e stopped).1.Wf := wf_sendBoth (wf_spend h0)

theorem wf_decide {a : Agent} {i op : Nat} {g : FmtG} {e : DigEng} (h0 : s.Wf) : (s.decide a i op g e).1.Wf := by
  unfold State.decide
  grind [wf_endIn, wf_killIn]

theorem wf_stepPlain {a : Agent} {i op : Nat} {g : FmtG} {e : DigEng} (h0 : s.Wf) : (s.stepPlain a i op g e).Wf := by
  unfold State.stepPlain
  repeat' split
  all_goals grind [wf_blockFault, wf_eatDigit, wf_endIn, wf_settleDigit, wf_sendHead, wf_sendDigit, wf_decide, wf_foldl_pair]

theorem wf_stepSink {a : Agent} {i : Nat} {g : FmtG} {e : DigEng} (h0 : s.Wf) : (s.stepSink a i g e).Wf := by
  unfold State.stepSink
  grind [wf_modWin, wf_blockFault, wf_setSlot, wf_sendBoth, wf_eatDigit, wf_setDig, wf_endIn]

theorem wf_stepAcc {a : Agent} {i op : Nat} {g : FmtG} {e : DigEng} (h0 : s.Wf) : (s.stepAcc a i op g e).Wf := by
  unfold State.stepAcc
  grind [wf_blockFault, wf_eatDigit, wf_setDig, wf_endIn, wf_settleDigit, wf_sendHead, wf_sendDigit]

theorem wf_execDigitStep {a : Agent} {slot : Nat} (h0 : s.Wf) : NextWf (execDigitStep a slot s) := by
  unfold execDigitStep
  grind [wf_moved, wf_stepPlain, wf_stepSink, wf_stepAcc, NextWf]

theorem wf_execKillMessage {n : Nat} (h0 : s.Wf) : NextWf (execKillMessage n s) := by
  unfold execKillMessage
  repeat' split
  all_goals grind [State.Wf, wf_settleDigit, NextWf]

theorem wf_fireDigit {op : Nat} {g : FmtG} {wordFld : Option Fld} (h0 : s.Wf) : NextWf (fireDigit s op g wordFld) := by
  unfold fireDigit
  grind [wf_blockFault, wf_setSlot, wf_fireWith, wf_eatDigit, wf_setDig, wf_endIn, wf_foldl_pair]

theorem wf_execFexp2 {f : FmtG} (h0 : s.Wf) : NextWf (execFexp2 f s) := by
  unfold execFexp2
  grind [wf_fireTok]

/-! ## Lanewise instructions -/

theorem wf_lift1 {op : Nat} {f : Fmt} {lat : Nat} {it ot : Option Ty} {g : Nat → Nat → Res} (h0 : s.Wf) :
    NextWf (lift1 s op f lat it ot g) := wf_fireTok h0

theorem wf_lift2 {op : Nat} {f : Fmt} {lat : Nat} {ot : Option Ty} {g : Nat → Nat → Nat → Res} (h0 : s.Wf) :
    NextWf (lift2 s op f lat ot g) := wf_fireTok h0

theorem wf_lift3 {op : Nat} {f : Fmt} {lat : Nat} {g : Nat → Nat → Nat → Nat → Res} (h0 : s.Wf) : NextWf (lift3 s op f lat g) :=
  wf_fireTok h0

/-! ## FSCALE -/

theorem wf_execFscale {f : FmtG} (h0 : s.Wf) : NextWf (execFscale f s) := by
  unfold execFscale
  grind [wf_fireTok]

/-! ## Issue and precise stops -/

theorem wf_setEngSt {a : Agent} {e : EngSt} (h0 : s.Wf) : (s.setEngSt a e).Wf := by
  unfold State.setEngSt
  grind [wf_modCell, wf_modHelm]

theorem wf_haltGang {k : Nat} {h : HitRec} (h0 : s.Wf) : (s.haltGang k h).Wf := by
  unfold State.haltGang
  grind [wf_modRegion, wf_logPointers, wf_traceEvent, wf_foldl]

theorem wf_stopAt {c : Cand} {kind num : Nat} (h0 : s.Wf) : (s.stopAt c kind num).Wf := wf_haltGang h0

theorem wf_preciseStop {c : Cand} (h0 : s.Wf) : ∀ t : State, s.preciseStop c = some t → t.Wf := by
  unfold State.preciseStop
  grind [wf_modTask, wf_modLog, wf_stopAt, wf_foldl]

theorem wf_prepare {a : Agent} (h0 : s.Wf) : (s.prepare a).Wf := by
  unfold State.prepare
  repeat' split
  all_goals grind [State.Wf, Prep.Wf, wf_modTask, wf_setEngSt, wf_preciseStop]

/-! ## Accesses in flight -/

theorem wf_setUnit {id j : Nat} {f : AUnit → AUnit} (h0 : s.Wf) : (s.setUnit id j f).Wf := h0

theorem wf_dropAcc {id : Nat} (h0 : s.Wf) : (s.dropAcc id).Wf := h0

theorem wf_openAccess {a : Agent} {i op : Nat} {ty : Ty} {vec : Bool} {sc : Nat} {ord : Ord} {loc : Bool} {addr : Nat}
    {r x : Token} {wave : Option Nat} (h0 : s.Wf) : (s.openAccess a i op ty vec sc ord loc addr r x wave).Wf := by
  unfold State.openAccess
  grind [State.Wf, wf_spend, wf_setSlot]

theorem wf_deliverKept {a : Agent} {i op : Nat} {f : Fmt} {toks : List Token} {fl : Nat} (h0 : s.Wf) :
    (s.deliverKept a i op f toks fl).Wf := by
  unfold State.deliverKept
  grind [wf_modWin, wf_sendBoth, wf_foldl]

theorem wf_fireMem {op : Nat} {f : FmtM} (h0 : s.Wf) : NextWf (fireMem s op f) := by
  unfold fireMem
  grind [wf_setSlot, wf_fireWith, wf_openAccess, wf_deliverKept]

theorem wf_accFault {x : Access} {fclass detail addr : Nat} (h0 : s.Wf) : (s.accFault x fclass detail addr).Wf := by
  unfold State.accFault
  grind [wf_takeFault, wf_takeHeld, wf_blockFault]

theorem wf_watch {x : Access} (h0 : s.Wf) : (s.watch x).Wf := by
  unfold State.watch
  grind [wf_report, wf_takeStop, wf_haltGang]

theorem wf_translate {a : Agent} {acc va : Nat} {walk : Bool} (h0 : s.Wf) : (s.translate a acc va walk).2.Wf := by
  unfold State.translate
  grind [wf_modPort]

theorem wf_claim {x : Access} {wd : Nat} {turn : Option Nat} (h0 : s.Wf) : (s.claim x wd turn).Wf := by
  unfold State.claim
  grind [State.Wf, ClaimRes.Wf]

theorem wf_claimUnit {x : Access} {j : Nat} {u : AUnit} (h0 : s.Wf) : (s.claimUnit x j u).Wf := by
  unfold State.claimUnit
  grind [ClaimRes.Wf, wf_takeHeld, wf_horizon, wf_setUnit, wf_claim]

theorem wf_settleIssue {id : Nat} (h0 : s.Wf) : (s.settleIssue id).Wf := by
  unfold State.settleIssue
  grind [wf_setSlot, wf_accFault, wf_watch]

theorem wf_landUnit {x : Access} {j : Nat} {u : AUnit} {l : Look} (h0 : s.Wf) : (s.landUnit x j u l).Wf := by
  unfold State.landUnit
  grind [wf_setUnit, wf_claimUnit, wf_settleIssue]

theorem wf_issueUnit {x : Access} {j : Nat} {u : AUnit} {walk : Bool} (h0 : s.Wf) : (s.issueUnit x j u walk).Wf := by
  unfold State.issueUnit
  grind [wf_setUnit, wf_accFault, wf_translate, wf_settleIssue, wf_landUnit]

theorem wf_discardTo {ln wp : Nat} (h0 : s.Wf) : (s.discardTo ln wp).Wf := by
  unfold State.discardTo
  grind [wf_modLog, wf_logHeader]

theorem wf_discardAll {ln : Nat} (h0 : s.Wf) : (s.discardAll ln).Wf := wf_horizon (wf_modLog h0)

theorem wf_openLogGate {ln : Nat} (h0 : s.Wf) : (s.openLogGate ln).Wf := by
  unfold State.openLogGate
  grind [wf_modRegion, wf_modLog, wf_foldl]

theorem wf_logFull {ln key : Nat} {acc : Option Access} {held addr : Nat} (h0 : s.Wf) :
    (s.logFull ln key acc held addr).Wf := by
  unfold State.logFull
  grind [wf_modRegion, wf_post, wf_takeHeld, wf_modLog, wf_discardTo, wf_discardAll, wf_foldl]

theorem wf_standHeld {die pa : Nat} (h0 : s.Wf) : (s.standHeld die pa).Wf := by
  unfold State.standHeld
  grind [State.Wf]

theorem wf_foreignFull {ln key die pa : Nat} (h0 : s.Wf) : (s.foreignFull ln key die pa).Wf := wf_logFull (wf_standHeld h0)

theorem wf_diverged {ln : Nat} (h0 : s.Wf) : (s.diverged ln).Wf := by
  unfold State.diverged
  grind [State.Wf, wf_modLog, wf_endReplay, wf_haltGang, wf_foldl]

theorem wf_tileChoice {x : Access} {addr : Nat} (h0 : s.Wf) : (s.tileChoice x addr).Wf := by
  unfold State.tileChoice
  grind [LogRes.Wf, wf_modCell, wf_append]

theorem wf_logRes_perf {r : LogRes} {s0 : State} {go : State → PerfRes} (h0 : r.Wf) (h1 : s0.Wf)
    (h2 : ∀ (t : State), t.Wf → (go t).Wf) : (r.perf s0 go).Wf := by
  unfold LogRes.perf
  grind [LogRes.Wf, PerfRes.Wf]

theorem wf_clearWords {src : Src} {attr : Attr} {y : List Nat} (h0 : s.Wf) : (s.clearWords src attr y).Wf := by
  fun_induction s.clearWords src attr y <;> grind [State.Wf, LogRes.Wf, wf_logWord]

theorem wf_writeUnit {x : Access} {u : AUnit} (h0 : s.Wf) : (s.writeUnit x u).Wf := by
  unfold State.writeUnit
  grind [PerfRes.Wf, wf_localWrite, wf_viaLinks, wf_writeSpan, wf_tileChoice, wf_logRes_perf, wf_clearWords]

theorem wf_storeDone {y : Access} (h0 : s.Wf) : (s.storeDone y).Wf := by
  unfold State.storeDone
  grind [wf_modWin, wf_dropAcc]

theorem wf_unitDone {x : Access} {j : Nat} {u : AUnit} (h0 : s.Wf) : (s.unitDone x j u).Wf := by
  unfold State.unitDone
  grind [State.Wf, wf_modCell, wf_clearMark, wf_setUnit, wf_storeDone, wf_foldl]

theorem wf_toPod {x : Access} {j plane addr : Nat} (h0 : s.Wf) : (s.toPod x j plane addr).Wf := by
  unfold State.toPod
  grind [State.Wf, wf_modWin, wf_takeHeld, wf_horizon, wf_setUnit]

theorem wf_holdUnit {x : Access} {j : Nat} {u : AUnit} (h0 : s.Wf) : (s.holdUnit x j u).Wf := by
  unfold State.holdUnit
  grind [wf_setUnit]

theorem wf_readUnitBy {src : Src} {order : State → LogRes} {x : Access} {u : AUnit} (h0 : s.Wf)
    (h1 : ∀ (t : State), t.Wf → (order t).Wf) : (s.readUnitBy src order x u).Wf := by
  unfold State.readUnitBy
  grind [PerfRes.Wf, wf_readSpan, wf_logRes_perf]

theorem wf_readUnit {x : Access} {u : AUnit} (h0 : s.Wf) : (s.readUnit x u).Wf := by
  unfold State.readUnit
  grind [wf_tileChoice, wf_readUnitBy]

theorem wf_peekUnit {x : Access} {u : AUnit} (h0 : s.Wf) : (s.peekUnit x u).Wf := wf_readUnitBy h0 fun _ h => h

theorem wf_rewind {a : Agent} {seq : Nat} (h0 : s.Wf) : (s.rewind a seq).Wf := by
  unfold State.rewind
  grind [State.Wf, wf_modTask, wf_releaseClaims]

theorem wf_afterPerf {x : Access} {j : Nat} {u : AUnit} {r : PerfRes} {ok : State → Nat → State} (h0 : s.Wf) (h1 : r.Wf)
    (h2 : ∀ (t : State) (v : Nat), t.Wf → (ok t v).Wf) : (s.afterPerf x j u r ok).Wf := by
  unfold State.afterPerf
  grind [PerfRes.Wf, wf_setUnit, wf_accFault, wf_logFull, wf_diverged, wf_toPod, wf_rewind]

theorem wf_writeMates {s0 : State} {x : Access} {y : List Nat} (h0 : s0.Wf) (h1 : s.Wf) : (s0.writeMates s x y).Wf := by
  fun_induction s0.writeMates s x y <;> grind [PerfRes.Wf, wf_writeUnit]

theorem wf_readMates {x : Access} {y : List Nat} (h0 : s.Wf) : (s.readMates x y).Wf := by
  fun_induction s.readMates x y <;> grind [PerfRes.Wf, wf_setUnit, wf_readUnit]

theorem wf_writeStep {x : Access} {j : Nat} {u : AUnit} (h0 : s.Wf) : (s.writeStep x j u).Wf := by
  unfold State.writeStep
  grind [wf_unitDone, wf_afterPerf, wf_writeMates, wf_foldl]

theorem wf_forceStores {x : Access} (h0 : s.Wf) : (s.forceStores x).1.Wf := by
  unfold State.forceStores
  grind [wf_writeStep, wf_foldl, wf_foldl_pair]

theorem wf_answerAs {rmw : Bool} {x : Access} {tok : Token} {fl : Nat} (h0 : s.Wf) : (s.answerAs rmw x tok fl).Wf := by
  unfold State.answerAs
  grind [wf_modWin, wf_acquireAt, wf_setSlot, wf_sendBoth, wf_dropAcc, wf_watch]

theorem wf_answer {x : Access} {tok : Token} {fl : Nat} (h0 : s.Wf) : (s.answer x tok fl).Wf := wf_answerAs h0

theorem wf_readAll {id : Nat} (h0 : s.Wf) : (s.readAll id).Wf := by
  unfold State.readAll
  grind [wf_answer]

theorem wf_readDone {x : Access} {j v : Nat} (h0 : s.Wf) : (s.readDone x j v).Wf := wf_readAll h0

theorem wf_readStep {x : Access} {j : Nat} {u : AUnit} (h0 : s.Wf) : (s.readStep x j u).Wf := by
  unfold State.readStep
  grind [wf_holdUnit, wf_afterPerf, wf_readMates, wf_readAll]

theorem wf_mwaitStep {x : Access} {j : Nat} {u : AUnit} (h0 : s.Wf) : (s.mwaitStep x j u).Wf := by
  unfold State.mwaitStep
  grind [PerfRes.Wf, wf_dropAcc, wf_holdUnit, wf_readUnit, wf_peekUnit, wf_afterPerf, wf_answer]

theorem wf_rmwNow {x : Access} {j : Nat} {u : AUnit} (h0 : s.Wf) : (s.rmwNow x j u).Wf := by
  unfold State.rmwNow
  grind [PerfRes.Wf, wf_localWrite, wf_rmwAt, wf_tileChoice, wf_logRes_perf, wf_afterPerf, wf_forceStores, wf_answer]

theorem wf_probe {x : Access} {j : Nat} {u : AUnit} (h0 : s.Wf) : (s.probe x j u).Wf := by
  unfold State.probe
  grind [wf_horizon, wf_setUnit, wf_toPod]

theorem wf_rmwStep {x : Access} {j : Nat} {u : AUnit} (h0 : s.Wf) : (s.rmwStep x j u).Wf := by
  unfold State.rmwStep
  grind [PerfRes.Wf, wf_readUnit, wf_afterPerf, wf_answerAs, wf_rmwNow, wf_probe]

theorem wf_backRange {d pa n : Nat} {drop : Bool} (h0 : s.Wf) : (s.backRange d pa n drop).Wf := by
  unfold State.backRange
  grind [wf_modCell, wf_modDie, wf_writeBack, wf_foldl]

theorem wf_rangeStep {x : Access} {j : Nat} {u : AUnit} (h0 : s.Wf) : (s.rangeStep x j u).Wf := by
  unfold State.rangeStep
  grind [wf_setUnit, wf_accFault, wf_answer, wf_backRange]

theorem wf_dirPerf {x : Access} {u : AUnit} (h0 : s.Wf) : (s.dirPerf x u).Wf := by
  unfold State.dirPerf
  grind [State.Wf, LogRes.Wf, PerfRes.Wf, wf_homeWrite]

theorem wf_dirStep {x : Access} {j : Nat} {u : AUnit} (h0 : s.Wf) : (s.dirStep x j u).Wf := by
  unfold State.dirStep
  grind [wf_afterPerf, wf_answer, wf_dirPerf]

theorem wf_fenceStep {x : Access} (h0 : s.Wf) : (s.fenceStep x).Wf := by
  unfold State.fenceStep
  grind [State.Wf, wf_freeColour, wf_setSlot, wf_send, wf_latchPut, wf_dropAcc, wf_foldl]

/-! ## Rings -/

theorem wf_ringLocal {x : Access} (h0 : s.Wf) : (s.ringLocal x).Wf := by
  unfold State.ringLocal
  grind [PerfRes.Wf, RingRes.Wf, wf_modCell, wf_tileChoice, wf_logRes_perf]

theorem wf_slotParts {x : Access} {y : List (Nat × Nat)} (h0 : s.Wf) : (s.slotParts x y).2.Wf := by
  fun_induction s.slotParts x y <;> grind [wf_translate]

theorem wf_readParts {src : Src} {y : List (Nat × Attr × Nat)} (h0 : s.Wf) : (s.readParts src y).Wf := by
  fun_induction s.readParts src y <;> grind [PerfRes.Wf, wf_readSpan]

theorem wf_writeParts {s0 : State} {src : Src} {v : Nat} {y : List (Nat × Attr × Nat)} (h0 : s0.Wf) (h1 : s.Wf) :
    (s0.writeParts s src v y).Wf := by
  fun_induction s0.writeParts s src v y <;> grind [PerfRes.Wf, wf_writeSpan]

theorem wf_ringMark {x : Access} {u : AUnit} (h0 : s.Wf) : (s.ringMark x u).Wf := h0

theorem wf_ringGlobal {x : Access} {u : AUnit} {got : Option Nat} (h0 : s.Wf) : (s.ringGlobal x u got).Wf := by
  unfold State.ringGlobal
  dsimp only
  repeat' split
  all_goals grind [PerfRes.Wf, RingRes.Wf, wf_writeAt, wf_readSpan, wf_slotParts, wf_readParts, wf_writeParts]

theorem wf_ringStep {x : Access} {j : Nat} {u : AUnit} (h0 : s.Wf) : (s.ringStep x j u).Wf := by
  unfold State.ringStep
  grind [State.Wf, RingRes.Wf, wf_accFault, wf_holdUnit, wf_afterPerf, wf_forceStores, wf_answer, wf_ringLocal, wf_ringMark,
    wf_ringGlobal]

theorem wf_performUnit {x : Access} {j : Nat} {u : AUnit} (h0 : s.Wf) : (s.performUnit x j u).Wf := by
  unfold State.performUnit
  grind [wf_writeUnit, wf_unitDone, wf_afterPerf, wf_writeStep, wf_readStep, wf_mwaitStep, wf_rmwStep, wf_rangeStep, wf_dirStep,
    wf_ringStep]

theorem wf_tryPerform {x : Access} {j : Nat} {u : AUnit} (h0 : s.Wf) : (s.tryPerform x j u).Wf := by
  unfold State.tryPerform
  grind [wf_performUnit]

/-! ## Memory instructions and the steps of accesses -/

theorem wf_openFence {a : Agent} {i : Nat} {f : FmtM} {tok : Token} (h0 : s.Wf) : (s.openFence a i f tok).Wf := by
  unfold State.openFence
  grind [State.Wf]

theorem wf_execFence {f : FmtM} (h0 : s.Wf) : NextWf (execFence f s) := by
  unfold execFence
  grind [wf_acquireAt, wf_setSlot, wf_send, wf_fireWith, wf_openFence]

theorem wf_execPref {f : FmtM} (h0 : s.Wf) : NextWf (execPref f s) := by
  unfold execPref
  grind [State.Wf, wf_bankAlloc, wf_rdcRequest, wf_fireWith, wf_translate]

theorem wf_emptyStep {x : Access} (h0 : s.Wf) : (s.emptyStep x).Wf := by
  unfold State.emptyStep
  grind [wf_dropAcc, wf_settleIssue, wf_answer]

theorem wf_execHomeAccess {acc unit : Nat} (h0 : s.Wf) : NextWf (execHomeAccess acc unit s) := by
  unfold execHomeAccess
  grind [wf_issueUnit, wf_fenceStep, wf_tryPerform, wf_emptyStep, NextWf]

theorem wf_claimAnswer {id : Nat} (h0 : s.Wf) : (s.claimAnswer id).Wf := by
  unfold State.claimAnswer
  grind [State.Wf, wf_dropAcc]

theorem wf_execClaimResolve {w : Nat} (h0 : s.Wf) : NextWf (execClaimResolve w s) := by
  unfold execClaimResolve
  grind [wf_claimUnit, wf_settleIssue, wf_claimAnswer, NextWf, wf_foldl]

theorem wf_execHeldReadRelease {acc unit : Nat} (h0 : s.Wf) : NextWf (execHeldReadRelease acc unit s) := by
  unfold execHeldReadRelease
  grind [wf_tryPerform, NextWf]

theorem wf_execMwaitEvaluate {acc : Nat} (h0 : s.Wf) : NextWf (execMwaitEvaluate acc s) := by
  unfold execMwaitEvaluate
  grind [wf_tryPerform, NextWf]

theorem wf_execSliceRetry {acc unit : Nat} (h0 : s.Wf) : NextWf (execSliceRetry acc unit s) := by
  unfold execSliceRetry
  dsimp only
  repeat' split
  all_goals grind [wf_setUnit, wf_claimUnit, wf_settleIssue, wf_tryPerform, NextWf]

theorem wf_execRingWaitResume {acc : Nat} (h0 : s.Wf) : NextWf (execRingWaitResume acc s) := by
  unfold execRingWaitResume
  grind [wf_tryPerform, NextWf]

theorem wf_execLogHeldWrite {acc unit : Nat} (h0 : s.Wf) : NextWf (execLogHeldWrite acc unit s) := by
  unfold execLogHeldWrite
  grind [wf_setUnit, wf_openLogGate, wf_tryPerform, NextWf]

theorem wf_fillFrom {cell tile line : Nat} {l : BankLine} {pa : Nat} (h0 : s.Wf) : (s.fillFrom cell tile line l pa).Wf := by
  unfold State.fillFrom
  grind [wf_modCell, wf_bankPod, wf_dropAcc]

theorem wf_fillBank {cell tile line : Nat} {l : BankLine} {pa conf : Nat} (h0 : s.Wf) :
    (s.fillBank cell tile line l pa conf).Wf := h0

theorem wf_execBankFill {cell tile line : Nat} (h0 : s.Wf) : NextWf (execBankFill cell tile line s) := by
  unfold execBankFill
  grind [wf_fillFrom, wf_fillBank, NextWf]

theorem wf_fillCopy {die line : Nat} {r : RdcLine} (h0 : s.Wf) : (s.fillCopy die line r).Wf := h0

theorem wf_execRdcFill {die line : Nat} (h0 : s.Wf) : NextWf (execRdcFill die line s) := by
  unfold execRdcFill
  grind [wf_fillCopy, NextWf]

theorem wf_execWalkComplete {acc unit : Nat} (h0 : s.Wf) : NextWf (execWalkComplete acc unit s) := by
  unfold execWalkComplete
  grind [wf_issueUnit, NextWf]

/-! ## Element accesses of the engines -/

theorem wf_elemLook {v : Via} {va : Nat} (h0 : s.Wf) : (s.elemLook v va).2.Wf := by
  unfold State.elemLook
  grind [wf_lookPort]

theorem wf_lookParts {v : Via} {y : List (Nat × Nat)} (h0 : s.Wf) : (s.lookParts v y).Wf := by
  fun_induction s.lookParts v y <;> grind [Looked.Wf, wf_elemLook]

theorem wf_perfRes_elem {r : PerfRes} {acc : Nat} {p : ElemPart} (h0 : r.Wf) (h1 : s.Wf) : (r.elem s acc p).Wf := by
  unfold PerfRes.elem
  grind [ElemRes.Wf, PerfRes.Wf]

theorem wf_goFar {v : Via} {val : Nat} {ps : List ElemPart} : (s.goFar v val ps).Wf := by
  unfold State.goFar
  grind [ElemRes.Wf]

theorem wf_readPlaces {v : Via} {hit : Copied} {y : List ElemPart} (h0 : s.Wf) : (s.readPlaces v hit y).Wf := by
  fun_induction s.readPlaces v hit y <;> grind [ElemRes.Wf, wf_readSpan, wf_perfRes_elem]

theorem wf_readGlobal {v : Via} {hit : Copied} {parts : List (Nat × Nat)} (h0 : s.Wf) : (s.readGlobal v hit parts).Wf := by
  unfold State.readGlobal
  grind [ElemRes.Wf, Looked.Wf, wf_acquireAt, wf_lookParts, wf_goFar, wf_readPlaces]

theorem wf_writePlaces {s0 : State} {v : Via} {fills : Bool} {val : Nat} {y : List ElemPart} (h0 : s0.Wf) (h1 : s.Wf) :
    (s0.writePlaces s v fills val y).Wf := by
  fun_induction s0.writePlaces s v fills val y <;> grind [ElemRes.Wf, wf_writeSpan, wf_perfRes_elem]

theorem wf_writeGlobal {v : Via} {fills : Bool} {val : Nat} {parts : List (Nat × Nat)} (h0 : s.Wf) :
    (s.writeGlobal v fills val parts).Wf := by
  unfold State.writeGlobal
  grind [ElemRes.Wf, Looked.Wf, wf_lookParts, wf_goFar, wf_writePlaces]

theorem wf_readElem {a : Agent} {loc : Bool} {hit : Copied} {v : Via} {va n : Nat} (h0 : s.Wf) :
    (s.readElem a loc hit v va n).Wf := by
  unfold State.readElem
  grind [ElemRes.Wf, wf_readGlobal]

theorem wf_writeElem {a : Agent} {loc fills : Bool} {v : Via} {va n val : Nat} (h0 : s.Wf) :
    (s.writeElem a loc fills v va n val).Wf := by
  unfold State.writeElem
  grind [ElemRes.Wf, wf_localWrite, wf_writeGlobal]

theorem wf_openElem {x : Access} {us : List AUnit} (h0 : s.Wf) : (s.openElem x us).Wf := by
  unfold State.openElem
  grind [State.Wf, wf_horizon]

theorem wf_finishFar {v : Via} {wr : Bool} {y : List AUnit} (h0 : s.Wf) : (s.finishFar v wr y).Wf := by
  fun_induction s.finishFar v wr y <;> grind [ElemRes.Wf, wf_readSpan, wf_writeSpan, wf_perfRes_elem]

theorem wf_holdElem {x : Access} {held : Nat} (h0 : s.Wf) : (s.holdElem x held).Wf := h0

theorem wf_freeElem {x : Access} (h0 : s.Wf) : (s.freeElem x).Wf := wf_openLogGate h0

theorem wf_queueElem {x : Access} {va pa : Nat} (h0 : s.Wf) : (s.queueElem x va pa).Wf := h0

theorem wf_holdRead {x : Access} {va pa n : Nat} (h0 : s.Wf) : (s.holdRead x va pa n).Wf := h0

theorem wf_tryElem {v : Via} {x : Access} {k : Nat} {rd wr loc : Bool} {h : Hold} {put : State → Hold → State}
    {attempt : State → ElemRes} {ok : State → Nat → State} (h0 : s.Wf) (h1 : ∀ (t : State) (v : Hold), t.Wf → (put t v).Wf)
    (h2 : ∀ (t : State), t.Wf → (attempt t).Wf) (h3 : ∀ (t : State) (v : Nat), t.Wf → (ok t v).Wf) :
    (s.tryElem v x k rd wr loc h put attempt ok).Wf := by
  unfold State.tryElem
  repeat' split
  all_goals grind [State.Wf, ElemRes.Wf, wf_report, wf_takeHeld, wf_haltGang, wf_dropAcc, wf_logFull, wf_diverged, wf_openElem,
    wf_finishFar, wf_holdElem, wf_freeElem, wf_queueElem, wf_holdRead]

theorem wf_readBytes {v : Via} {got : List AUnit} {y : List (Nat × Nat)} (h0 : s.Wf) : (s.readBytes v got y).Wf := by
  fun_induction s.readBytes v got y <;> grind [Bytes.Wf, ElemRes.Wf, wf_diverged, wf_readGlobal]

theorem wf_openParts {a : Agent} {us : List AUnit} (h0 : s.Wf) : (s.openParts a us).Wf := by
  unfold State.openParts
  grind [State.Wf, wf_horizon]

end

end Sys2Proof.Machine

/-! # Proofs: that memory stays canonical: matrix unit, streams, ports, control, barriers and copies -/

namespace Sys2Proof.Machine

section
variable {s : State}

/-! ## The matrix unit, shape records and directory instructions -/

theorem wf_shapeFault {a : Agent} {i cause : Nat} (h0 : s.Wf) : (s.shapeFault a i cause).Wf := wf_blockFault h0

theorem wf_modMat {a : Agent} {f : Matrix → Matrix} (h0 : s.Wf) : (s.modMat a f).Wf := by
  unfold State.modMat
  grind [wf_modCell]

theorem wf_keep {a : Agent} {i : Nat} {toks : List Token} (h0 : s.Wf) : (s.keep a i toks).Wf := wf_modWin h0

theorem wf_orKept {a : Agent} {i op : Nat} {f : Fmt} {go : State → State} (h0 : s.Wf) (h1 : ∀ (t : State), t.Wf → (go t).Wf) :
    (s.orKept a i op f go).Wf := by
  unfold State.orKept
  grind [wf_deliverKept]

theorem wf_execTload {f : FmtT} (h0 : s.Wf) : NextWf (execTload f s) := by
  unfold execTload
  grind [wf_setSlot, wf_fireWith, wf_shapeFault, wf_modMat, wf_orKept]

theorem wf_loadRun_res {self : LoadRun} (h0 : self.Wf) : (self.res).Wf := h0

theorem wf_loadElems {a : Agent} {v : Via} {loc : Bool} {ty : Ty} {got : List AUnit} {y : List (Nat × Bool)} (h0 : s.Wf) :
    (s.loadElems a v loc ty got y).Wf := by
  fun_induction s.loadElems a v loc ty got y <;> grind [Bytes.Wf, ElemRes.Wf, LoadRun.Wf, wf_elemLook, wf_readElem, wf_readBytes, wf_loadRun_res]

theorem wf_unholdReads {a : Agent} {i : Nat} (h0 : s.Wf) : (s.unholdReads a i).Wf := h0

theorem wf_loadDown {a : Agent} {i d addr : Nat} (h0 : s.Wf) : (s.loadDown a i d addr).Wf := by
  unfold State.loadDown
  grind [wf_takeHeld, wf_dropAcc, wf_modMat]

theorem wf_elemRes_settle {r : ElemRes} {s0 : State} {a : Agent} {i addr : Nat} {ok : State → Nat → State} (h0 : r.Wf)
    (h1 : s0.Wf) (h2 : ∀ (t : State) (v : Nat), t.Wf → (ok t v).Wf) : (r.settle s0 a i addr ok).Wf := by
  unfold ElemRes.settle
  grind [ElemRes.Wf, wf_blockFault, wf_diverged, wf_holdRead, wf_loadDown]

theorem wf_execTloadComplete {cell : Nat} (h0 : s.Wf) : NextWf (execTloadComplete cell s) := by
  unfold execTloadComplete
  grind [wf_horizon, wf_setSlot, wf_sendBoth, wf_dropAcc, wf_openParts, wf_modMat, wf_keep, wf_loadRun_res, wf_loadElems,
    wf_unholdReads, wf_elemRes_settle, NextWf]

theorem wf_execTswap {f : FmtT} (h0 : s.Wf) : NextWf (execTswap f s) := by
  unfold execTswap
  grind [wf_sendBoth, wf_fireWith, wf_modMat, wf_keep, wf_orKept]

theorem wf_execMmrow {f : FmtT} (h0 : s.Wf) : NextWf (execMmrow f s) := by
  unfold execMmrow
  grind [wf_setSlot, wf_sendBoth, wf_fireWith, wf_shapeFault, wf_modMat]

theorem wf_finishRow {a : Agent} {i : Nat} {f : FmtT} {e : StrEng} (h0 : s.Wf) : (s.finishRow a i f e).Wf := by
  unfold State.finishRow
  grind [wf_modRegion, wf_spend, wf_traceElide, wf_setSlot, wf_sendBoth, wf_modMat, wf_keep, wf_orKept]

theorem wf_rowExcess {a : Agent} {i : Nat} (h0 : s.Wf) : (s.rowExcess a i).Wf := by
  unfold State.rowExcess
  grind [wf_shapeFault]

theorem wf_addRowBlock {a : Agent} {i : Nat} {f : FmtT} {d : DigEng} {e : StrEng} {k : RowBlock} (h0 : s.Wf) :
    (s.addRowBlock a i f d e k).Wf := by
  unfold State.addRowBlock
  grind [wf_setSlot, wf_modMat, wf_finishRow, wf_rowExcess]

theorem wf_rowToken {a : Agent} {i : Nat} {f : FmtT} {d : DigEng} {e : StrEng} {y : Arrival} (h0 : s.Wf) :
    (s.rowToken a i f d e y).Wf := by
  unfold State.rowToken
  grind [wf_blockFault, wf_setSlot, wf_endIn, wf_shapeFault, wf_addRowBlock]

theorem wf_execMatrixRowAdd {a : Agent} {slot : Nat} (h0 : s.Wf) : NextWf (execMatrixRowAdd a slot s) := by
  unfold execMatrixRowAdd
  repeat' split
  all_goals grind [State.Wf, NextWf, wf_moved, wf_rowToken]

theorem wf_execMmout {f : FmtT} (h0 : s.Wf) : NextWf (execMmout f s) := by
  unfold execMmout
  grind [wf_modWin, wf_send, wf_fireWith]

theorem wf_execMmzero {f : FmtT} (h0 : s.Wf) : NextWf (execMmzero f s) := by
  unfold execMmzero
  grind [wf_sendBoth, wf_fireWith, wf_modMat, wf_keep, wf_orKept]

theorem wf_execShape {f : FmtT} (h0 : s.Wf) : NextWf (execShape f s) := by
  unfold execShape
  grind [wf_fireWith, wf_shapeFault]

theorem wf_commitShape {a : Agent} {f : FmtT} {v : Nat} (h0 : s.Wf) : (s.commitShape a f v).Wf := by
  unfold State.commitShape
  grind [wf_modCell]

theorem wf_execShapeq {f : FmtT} (h0 : s.Wf) : NextWf (execShapeq f s) := by
  unfold execShapeq
  grind [wf_sendBoth, wf_fireWith, wf_shapeFault]

theorem wf_fireDir {op : Nat} {f : FmtT} (h0 : s.Wf) : NextWf (fireDir s op f) := by
  unfold fireDir
  grind [wf_fireWith, wf_openAccess, wf_orKept]

/-! ## The stream unit -/

theorem wf_strPop {a : Agent} {i op : Nat} {f : Fmt} {sl : Slot} {x : Fld} (h0 : s.Wf) : (s.strPop a i op f sl x).Wf := by
  unfold State.strPop
  grind [wf_moved, wf_takeChan, wf_setSlot]

theorem wf_strKeep {a : Agent} {tgt : Target} {k : Nat} {tok : Token} (h0 : s.Wf) : (s.strKeep a tgt k tok).Wf := by
  unfold State.strKeep
  grind [wf_modWin]

theorem wf_strSend {a : Agent} {i op : Nat} {f : Fmt} {x y : Token} (h0 : s.Wf) : (s.strSend a i op f x y).Wf := by
  unfold State.strSend
  grind [wf_moved, wf_send, wf_strKeep]

theorem wf_strStop {a : Agent} {i op : Nat} {f : Fmt} {k : Nat} (h0 : s.Wf) : (s.strStop a i op f k).Wf := wf_strSend h0

theorem wf_setStr {a : Agent} {i : Nat} {g : StrEng → StrEng} (h0 : s.Wf) : (s.setStr a i g).Wf := wf_setSlot h0

theorem wf_strEnd {a : Agent} {i rk k : Nat} (h0 : s.Wf) : (s.strEnd a i rk k).Wf := by
  unfold State.strEnd
  grind [wf_setSlot]

theorem wf_strElem {a : Agent} {i : Nat} {e : StrEng} {rd wr loc : Bool} {va n : Nat} {attempt : State → ElemRes}
    {ok : State → Nat → State} (h0 : s.Wf) (h1 : ∀ (t : State), t.Wf → (attempt t).Wf)
    (h2 : ∀ (t : State) (v : Nat), t.Wf → (ok t v).Wf) : (s.strElem a i e rd wr loc va n attempt ok).Wf := by
  unfold State.strElem
  grind [wf_moved, wf_tryElem, wf_setStr]

theorem wf_stepScan {a : Agent} {i : Nat} {f : FmtT} {sl : Slot} {e : StrEng} (h0 : s.Wf) : (s.stepScan a i f sl e).Wf := by
  unfold State.stepScan
  grind [wf_readElem, wf_strPop, wf_strSend, wf_strStop, wf_setStr, wf_strEnd, wf_strElem]

theorem wf_stepJoin {a : Agent} {i op : Nat} {f : FmtT} {sl : Slot} (h0 : s.Wf) : (s.stepJoin a i op f sl).Wf := by
  unfold State.stepJoin
  grind [wf_strPop, wf_strSend, wf_strStop, wf_strEnd]

theorem wf_stepRepeat {a : Agent} {i : Nat} {f : FmtT} {sl : Slot} {e : StrEng} (h0 : s.Wf) : (s.stepRepeat a i f sl e).Wf := by
  unfold State.stepRepeat
  grind [wf_strPop, wf_strSend, wf_strStop, wf_setStr, wf_strEnd]

theorem wf_strFlags {a : Agent} {i fl : Nat} (h0 : s.Wf) : (s.strFlags a i fl).Wf := wf_modWin h0

theorem wf_stepSacc {a : Agent} {i : Nat} {f : FmtT} {sl : Slot} {e : StrEng} (h0 : s.Wf) : (s.stepSacc a i f sl e).Wf := by
  unfold State.stepSacc
  dsimp only
  split
  · rename_i x y hx hy
    refine of_ite h0 <| of_ite (of_ite ?_ <| of_ite ?_ ?_) <| of_ite ?_ ?_
    · exact wf_strElem h0 (fun t ht => ht) fun t v ht => ht
    · refine wf_strElem h0 (fun t ht => ?_) fun t v ht => wf_strFlags (wf_strPop (wf_strPop ht))
      grind [ElemRes.Wf, wf_readElem, wf_writeElem]
    · exact wf_strElem h0 (fun t ht => wf_writeElem ht) fun t v ht => wf_setStr (wf_strPop (wf_strPop ht))
    · exact wf_strEnd (wf_strPop (wf_strPop h0))
    · split
      · exact wf_strElem h0 (fun t ht => wf_readElem ht) fun t v ht => wf_strSend (wf_setStr ht)
      · exact wf_strEnd (wf_strStop (wf_strPop (wf_strPop h0)))
  · exact h0

theorem wf_strPnr {a : Agent} (h0 : s.Wf) : (s.strPnr a).Wf := wf_modWin h0

theorem wf_scataElem {a : Agent} {loc : Bool} {v : Via} {va n : Nat} {g : Nat → Nat} (h0 : s.Wf) :
    (s.scataElem a loc v va n g).Wf := by
  unfold State.scataElem
  grind [ElemRes.Wf, wf_rmwAt, wf_elemLook, wf_perfRes_elem, wf_readElem, wf_writeElem]

theorem wf_stepGather {a : Agent} {i op : Nat} {f : FmtT} {sl : Slot} {e : StrEng} (h0 : s.Wf) :
    (s.stepGather a i op f sl e).Wf := by
  unfold State.stepGather
  grind [wf_acquireAt, wf_readElem, wf_writeElem, wf_strPop, wf_strSend, wf_strStop, wf_setStr, wf_strEnd, wf_strElem,
    wf_strFlags, wf_strPnr, wf_scataElem]

theorem wf_fireStream {op : Nat} {f : FmtT} (h0 : s.Wf) : NextWf (fireStream s op f) := by
  unfold fireStream
  grind [wf_setSlot, wf_fireWith, wf_shapeFault]

theorem wf_stepStream {a : Agent} {i op : Nat} {f : FmtT} {sl : Slot} {e : StrEng} (h0 : s.Wf) :
    (s.stepStream a i op f sl e).Wf := by
  unfold State.stepStream
  grind [wf_stepScan, wf_stepJoin, wf_stepRepeat, wf_stepSacc, wf_stepGather]

theorem wf_execStreamToken {a : Agent} {slot : Nat} (h0 : s.Wf) : NextWf (execStreamToken a slot s) := by
  unfold execStreamToken
  grind [wf_stepStream, NextWf]

/-! ## Commands of the memory ports -/

theorem wf_modCmd {port id : Nat} {g : StreamCmd → StreamCmd} (h0 : s.Wf) : (s.modCmd port id g).Wf := h0

theorem wf_addCmd {port : Nat} {c : StreamCmd} (h0 : s.Wf) : (s.addCmd port c).Wf := h0

theorem wf_cmdSlot {a : Agent} {i : Nat} {f : FmtT} (h0 : s.Wf) : (s.cmdSlot a i f).Wf := by
  unfold State.cmdSlot
  grind [wf_setSlot]

theorem wf_execSbind {f : FmtT} (h0 : s.Wf) : NextWf (execSbind f s) := by
  unfold execSbind
  grind [State.Wf, wf_fireWith, wf_shapeFault, wf_addCmd, wf_cmdSlot]

theorem wf_execSbar {f : FmtT} (h0 : s.Wf) : NextWf (execSbar f s) := by
  unfold execSbar
  grind [State.Wf, wf_fireWith, wf_addCmd, wf_cmdSlot]

theorem wf_execStreamCommandStart_start {port cmd : Nat} {p : Port} (h0 : s.Wf) :
    (execStreamCommandStart.start port cmd s p).Wf := by
  unfold execStreamCommandStart.start
  grind [wf_modCmd]

theorem wf_execStreamCommandStart {port cmd : Nat} (h0 : s.Wf) : NextWf (execStreamCommandStart port cmd s) := by
  unfold execStreamCommandStart
  grind [wf_modPort, wf_execStreamCommandStart_start, NextWf]

theorem wf_portSend {port circ : Nat} {tok : Token} (h0 : s.Wf) : ∀ t : State, s.portSend port circ tok = some t → t.Wf := by
  unfold State.portSend
  grind [wf_latchPut]

theorem wf_outlived {c : StreamCmd} {tok : Token} (h0 : s.Wf) : (s.outlived c tok).Wf := by
  unfold State.outlived
  grind [wf_latchPut]

theorem wf_endCmd {port : Nat} {c : StreamCmd} (h0 : s.Wf) : (s.endCmd port c).Wf := by
  unfold State.endCmd
  grind [wf_modPort, wf_setSlot, wf_send, wf_strKeep, wf_outlived]

theorem wf_cmdElem {port : Nat} {c : StreamCmd} {va n : Nat} {attempt : State → ElemRes} {ok : State → Nat → State} (h0 : s.Wf)
    (h1 : ∀ (t : State), t.Wf → (attempt t).Wf) (h2 : ∀ (t : State) (v : Nat), t.Wf → (ok t v).Wf) :
    (s.cmdElem port c va n attempt ok).Wf := by
  unfold State.cmdElem
  grind [wf_moved, wf_tryElem, wf_modCmd]

theorem wf_readVector {c : StreamCmd} {v : Via} {tiles : Table (BitVec 32768 × Word)} {y : List Nat} (h0 : s.Wf) :
    (s.readVector c v tiles y).1.Wf := by
  fun_induction s.readVector c v tiles y <;> grind [ElemRes.Wf, wf_readElem]

theorem wf_scaleByte {c : StreamCmd} {v : Via} (h0 : s.Wf) : (s.scaleByte c v).Wf := by
  unfold State.scaleByte
  grind [ElemRes.Wf, wf_readElem]

theorem wf_readCmd {port : Nat} {c : StreamCmd} (h0 : s.Wf) : (s.readCmd port c).Wf := by
  unfold State.readCmd
  dsimp only
  repeat' split
  all_goals grind [ElemRes.Wf, wf_entered, wf_readElem, wf_modCmd, wf_portSend, wf_endCmd, wf_cmdElem, wf_readVector,
    wf_scaleByte]

theorem wf_writeLane {c : StreamCmd} {v : Via} {ad : Nat × Bool} {val : Nat} (h0 : s.Wf) : (s.writeLane c v ad val).Wf := by
  unfold State.writeLane
  grind [ElemRes.Wf, wf_readElem, wf_writeElem]

theorem wf_writeCmd {port : Nat} {c : StreamCmd} (h0 : s.Wf) : (s.writeCmd port c).Wf := by
  unfold State.writeCmd
  grind [wf_modPort, wf_moved, wf_writeElem, wf_strPnr, wf_modCmd, wf_endCmd, wf_cmdElem, wf_writeLane]

theorem wf_execStreamCommandElement {port cmd : Nat} (h0 : s.Wf) : NextWf (execStreamCommandElement port cmd s) := by
  unfold execStreamCommandElement
  grind [wf_moved, wf_modCmd, wf_endCmd, wf_readCmd, wf_writeCmd, NextWf]

theorem wf_execHelmSbindActivation {port cmd : Nat} (h0 : s.Wf) : NextWf (execHelmSbindActivation port cmd s) := by
  unfold execHelmSbindActivation
  grind [wf_modPort, wf_takeHeld, wf_modCmd, NextWf]

/-! ## Control instructions and colours -/

theorem wf_choice {a : Agent} {ck slot v : Nat} (h0 : s.Wf) : (s.choice a ck slot v).Wf := by
  unfold State.choice
  grind [LogRes.Wf, wf_append]

theorem wf_choiceFull {ln key : Nat} (h0 : s.Wf) : (s.choiceFull ln key).Wf := wf_logFull h0

theorem wf_takeExit {a : Agent} {i op next code : Nat} (h0 : s.Wf) : (s.takeExit a i op next code).Wf := by
  unfold State.takeExit
  grind [wf_modTask, wf_modWin, wf_blockFault]

theorem wf_fireExit {op : Nat} {f : FmtC} (h0 : s.Wf) : NextWf (fireExit s op f) := by
  unfold fireExit
  grind [wf_fireWith, wf_takeExit]

theorem wf_indirect {a : Agent} {i op : Nat} {t : Token} {ok : State → State} (h0 : s.Wf)
    (h1 : ∀ (t : State), t.Wf → (ok t).Wf) : (s.indirect a i op t ok).Wf := by
  unfold State.indirect
  grind [wf_blockFault, wf_takeExit]

theorem wf_execBri {f : FmtC} (h0 : s.Wf) : NextWf (execBri f s) := by
  unfold execBri
  grind [wf_fireWith, wf_indirect]

theorem wf_execRet {f : FmtC} (h0 : s.Wf) : NextWf (execRet f s) := by
  unfold execRet
  grind [wf_fireWith, wf_indirect]

theorem wf_execCall {f : FmtC} (h0 : s.Wf) : NextWf (execCall f s) := by
  unfold execCall
  grind [wf_send, wf_fireWith, wf_takeExit]

theorem wf_execCalli {f : FmtC} (h0 : s.Wf) : NextWf (execCalli f s) := by
  unfold execCalli
  grind [wf_send, wf_fireWith, wf_indirect]

theorem wf_execBrk {f : FmtC} (h0 : s.Wf) : NextWf (execBrk f s) := by
  unfold execBrk
  grind [wf_takeStop, wf_traceEvent, wf_fireWith]

theorem wf_execSpawn {f : FmtC} (h0 : s.Wf) : NextWf (execSpawn f s) := by
  unfold execSpawn
  grind [wf_modRegion, wf_setSlot, wf_fireWith]

theorem wf_execSpawnGrant {region : Nat} (h0 : s.Wf) : NextWf (execSpawnGrant region s) := by
  unfold execSpawnGrant
  dsimp only
  repeat' split
  all_goals grind [LogRes.Wf, wf_modRegion, wf_modWin, wf_setSlot, wf_send, wf_diverged, wf_choice, wf_choiceFull, NextWf]

theorem wf_execRetc {f : FmtC} (h0 : s.Wf) : NextWf (execRetc f s) := by
  unfold execRetc
  grind [wf_send, wf_fireWith]

theorem wf_execTokenArrivalActivate {cell t : Nat} (h0 : s.Wf) : NextWf (execTokenArrivalActivate cell t s) := by
  unfold execTokenArrivalActivate
  grind [wf_modTask, wf_startBlock, NextWf]

/-! ## Barriers and semaphores -/

theorem wf_noteSync {a : Agent} {note : Nat} (h0 : s.Wf) : (s.noteSync a note).Wf := by
  unfold State.noteSync
  grind [wf_putNote]

theorem wf_syncSend {a : Agent} {i op : Nat} {f : FmtS} {tok : Token} {fl : Nat} {acq : Bool} (h0 : s.Wf) :
    (s.syncSend a i op f tok fl acq).Wf := by
  unfold State.syncSend
  grind [LogRes.Wf, wf_modWin, wf_moved, wf_acquireAt, wf_setSlot, wf_sendBoth, wf_diverged, wf_choice, wf_choiceFull,
    wf_noteSync]

theorem wf_setSync {a : Agent} {i phase live : Nat} (h0 : s.Wf) : (s.setSync a i phase live).Wf := wf_modWin h0

theorem wf_syncLive {a : Agent} {i op : Nat} {f : FmtS} {sl : Slot} (h0 : s.Wf) : (s.syncLive a i op f sl).Wf := by
  unfold State.syncLive
  grind [wf_modWin, wf_arrive, wf_setSync]

theorem wf_syncCheck {a : Agent} {i op : Nat} {f : FmtS} {p : Nat} (h0 : s.Wf) : (s.syncCheck a i op f p).Wf := by
  unfold State.syncCheck
  dsimp only
  repeat' split
  all_goals grind [wf_syncSend]

theorem wf_syncReplay {a : Agent} {i op : Nat} {f : FmtS} (h0 : s.Wf) : (s.syncReplay a i op f).Wf := by
  unfold State.syncReplay
  grind [wf_diverged, wf_syncSend]

theorem wf_syncTry {a : Agent} {i : Nat} (h0 : s.Wf) : (s.syncTry a i).Wf := by
  unfold State.syncTry
  grind [wf_syncLive, wf_syncCheck, wf_syncReplay]

theorem wf_fireSync {op : Nat} {f : FmtS} (h0 : s.Wf) : NextWf (fireSync s op f) := by
  unfold fireSync
  grind [wf_setSlot, wf_fireWith, wf_setSync, wf_syncLive, wf_syncTry]

theorem wf_execBarrierPhaseComplete {n : Nat} (h0 : s.Wf) : NextWf (execBarrierPhaseComplete n s) := by
  unfold execBarrierPhaseComplete
  grind [State.Wf, wf_syncTry, NextWf, wf_foldl]

theorem wf_fireSem {op : Nat} {f : FmtS} (h0 : s.Wf) : NextWf (fireSem s op f) := by
  unfold fireSem
  grind [wf_fireWith, wf_openAccess, wf_deliverKept]

theorem wf_execEvt {f : FmtS} (h0 : s.Wf) : NextWf (execEvt f s) := by
  unfold execEvt
  grind [wf_fireWith]

/-! ## Queues of copies -/

theorem wf_fireLate {op : Nat} {f : Fmt} (h0 : s.Wf) : NextWf (fireLate s op f) := by
  unfold fireLate
  grind [wf_fireWith]

theorem wf_opClose {a : Agent} {i : Nat} (h0 : s.Wf) : (s.opClose a i).Wf := by
  unfold State.opClose
  grind [wf_modWin, wf_dropAcc]

theorem wf_opNeed {a : Agent} {i : Nat} {got us : List AUnit} (h0 : s.Wf) : (s.opNeed a i got us).Wf := by
  unfold State.opNeed
  grind [wf_modWin, wf_openParts, wf_opClose]

theorem wf_readRecord {a : Agent} {i va n : Nat} (h0 : s.Wf) : (s.readRecord a i va n).Wf := by
  unfold State.readRecord
  grind [Bytes.Wf, RecRes.Wf, wf_readBytes, wf_opClose, wf_opNeed]

theorem wf_readJudged {a : Agent} {i va n : Nat} (h0 : s.Wf) : (s.readJudged a i va n).Wf := by
  unfold State.readJudged
  grind [RecRes.Wf, wf_opClose, wf_readRecord]

theorem wf_modCopy {q n : Nat} {g : Copy → Copy} (h0 : s.Wf) : (s.modCopy q n g).Wf := h0

theorem wf_waitbTry {a : Agent} {i : Nat} (h0 : s.Wf) : (s.waitbTry a i).Wf := by
  unfold State.waitbTry
  grind [wf_moved, wf_acquireAt, wf_setSlot, wf_sendBoth]

theorem wf_waitbAll (h0 : s.Wf) : (s.waitbAll).Wf := by
  unfold State.waitbAll
  grind [wf_waitbTry, wf_foldl]

theorem wf_endCopy {q n : Nat} (h0 : s.Wf) : (s.endCopy q n).Wf := by
  unfold State.endCopy
  grind [wf_modCopyq, wf_post, wf_modCopy, wf_waitbAll]

theorem wf_failCopy {q n d : Nat} (h0 : s.Wf) : (s.failCopy q n d).Wf := h0

theorem wf_linkCopy {q n d va : Nat} (h0 : s.Wf) : (s.linkCopy q n d va).Wf := by
  unfold State.linkCopy
  grind [wf_takeHeld, wf_modCopy, wf_failCopy]

theorem wf_copyBad {q n c d va : Nat} (h0 : s.Wf) : (s.copyBad q n c d va).Wf := by
  unfold State.copyBad
  grind [wf_failCopy, wf_linkCopy]

theorem wf_addCopy {q : Nat} {cfg : Cfg} {ln : Nat} {ghost : Bool} {d : Except Nat (List Word)} {region : optParam Nat 0}
    (h0 : s.Wf) : (s.addCopy q cfg ln ghost d region).Wf := by
  unfold State.addCopy
  grind [wf_modCopyq, wf_endCopy]

theorem wf_commitCopy {a : Agent} {i : Nat} {f : FmtT} {l : Token} (h0 : s.Wf) : (s.commitCopy a i f l).Wf := by
  unfold State.commitCopy
  grind [CommitRes.Wf, RecRes.Wf, wf_readRecord, wf_addCopy]

theorem wf_commitBatch {f : FmtT} (h0 : s.Wf) : (s.commitBatch f).Wf := h0

theorem wf_commitCancelCopies {f : FmtT} (h0 : s.Wf) : (s.commitCancelCopies f).Wf := h0

theorem wf_execWaitb {f : FmtT} (h0 : s.Wf) : NextWf (execWaitb f s) := by
  unfold execWaitb
  grind [wf_modCopyq, wf_modWin, wf_setSlot, wf_fireWith, wf_waitbTry]

theorem wf_execCstat {f : FmtT} (h0 : s.Wf) : NextWf (execCstat f s) := by
  unfold execCstat
  grind [wf_modCopyq, wf_sendBoth, wf_fireWith]

theorem wf_execCopyStart {q : Nat} (h0 : s.Wf) : NextWf (execCopyStart q s) := by
  unfold execCopyStart
  grind [wf_modCopy, wf_failCopy, NextWf]

theorem wf_bytes_chunk {b : Bytes} {go : State → List Byte → ChunkRes} (h0 : b.Wf)
    (h1 : ∀ (t : State) (v : List Byte), t.Wf → (go t v).Wf) : (b.chunk go).Wf := by
  unfold Bytes.chunk
  grind [Bytes.Wf, ChunkRes.Wf]

theorem wf_readSources {v : Via} {got : List AUnit} {base stride n : Nat} {y : List Nat} (h0 : s.Wf) :
    (s.readSources v got base stride n y).Wf := by
  fun_induction s.readSources v got base stride n y <;> grind [Bytes.Wf, wf_readBytes]

theorem wf_paceChunk {q : Nat} {c : Copy} {got : List AUnit} (h0 : s.Wf) : (s.paceChunk q c got).Wf := by
  unfold State.paceChunk
  grind [ChunkRes.Wf, wf_readBytes, wf_bytes_chunk]

theorem wf_computeChunk {q : Nat} {c : Copy} {got : List AUnit} (h0 : s.Wf) : (s.computeChunk q c got).Wf := by
  unfold State.computeChunk
  grind [State.Wf, ChunkRes.Wf, wf_readBytes, wf_bytes_chunk, wf_readSources, wf_paceChunk]

theorem wf_copyWrite {v : Via} {comb : Option (Nat → Nat → Nat → Nat)} {fills : Bool} {va n x : Nat} (h0 : s.Wf) :
    (s.copyWrite v comb fills va n x).Wf := by
  unfold State.copyWrite
  grind [ElemRes.Wf, Looked.Wf, wf_lookParts, wf_goFar, wf_readPlaces, wf_writePlaces]

theorem wf_runWritesFrom {v : Via} {comb : Option (Nat → Nat → Nat → Nat)} {fills : Bool} {lo hi : Nat}
    {y : List (Nat × Nat × Nat)} (h0 : s.Wf) : (s.runWritesFrom v comb fills lo hi y).Wf := by
  fun_induction s.runWritesFrom v comb fills lo hi y <;> grind [ElemRes.Wf, WriteRun.Wf, wf_clearMark, wf_diverged, wf_copyWrite]

theorem wf_runStores {v : Via} {ws : List (Nat × Nat × Nat)} (h0 : s.Wf) : (s.runStores v ws).Wf := wf_runWritesFrom h0

theorem wf_copyWrites {q : Nat} {c : Copy} {fin : State → State} (h0 : s.Wf) (h1 : ∀ (t : State), t.Wf → (fin t).Wf) :
    (s.copyWrites q c fin).Wf := by
  unfold State.copyWrites
  grind [State.Wf, WriteRun.Wf, wf_modAcc, wf_horizon, wf_dropAcc, wf_openLogGate, wf_foreignFull, wf_openParts, wf_modCopy,
    wf_copyBad, wf_runWritesFrom]

theorem wf_paceNow {s0 : State} {q : Nat} {c : Copy} {todo : List (Nat × Nat × Nat)} (h0 : s0.Wf) (h1 : s.Wf) :
    ∀ t, s0.paceNow s q c todo = some t → t.1.Wf := by
  unfold State.paceNow
  grind [WriteRun.Wf, wf_foreignFull, wf_modCopy, wf_copyBad, wf_runStores]

theorem wf_copyStage {q n : Nat} (h0 : s.Wf) : (s.copyStage q n).Wf := by
  unfold State.copyStage
  dsimp only
  split
  · exact h0
  · rename_i c hc
    refine of_ite h0 ?_
    split
    · rename_i us hst hgot
      have hc : (s.computeChunk q c us).Wf := wf_computeChunk h0
      have hdrop {t : State} (ht : t.Wf) : (match c.acc with | some id => t.dropAcc id | none => t).Wf := by
        split
        · exact wf_dropAcc ht
        · exact ht
      have hclose {t : State} (ht : t.Wf) : (match c.acc with
          | some id => (t.dropAcc id).modCopy q n fun c => { c with acc := none }
          | none => t).Wf := by
        split
        · exact wf_modCopy (wf_dropAcc ht)
        · exact ht
      split
      · rename_i t todo size gen hr
        rw [hr] at hc
        have hp := wf_paceNow (s0 := s) (s := t) (q := q) (c := c) (todo := todo) h0 hc
        split
        · exact wf_modCopy (hclose hc)
        · exact wf_modCopy (hclose (hp _ ‹_›))
        · exact hp _ ‹_›
      · rename_i hr
        rw [hr] at hc
        exact hc
      · rename_i hr
        rw [hr] at hc
        exact wf_copyBad (hclose hc)
      · rename_i hr
        rw [hr] at hc
        exact wf_openParts (wf_modCopy (of_ite (wf_horizon (hdrop hc)) (hdrop hc)))
    · exact wf_copyWrites h0 fun t ht => wf_modCopy ht
    · exact wf_copyWrites h0 fun t ht => wf_modCopy ht
    · exact h0

theorem wf_execCopyChunk {q n : Nat} (h0 : s.Wf) : NextWf (execCopyChunk q n s) := by
  unfold execCopyChunk
  grind [wf_copyStage, NextWf, wf_foldl]

theorem wf_execCopyStamp {q n : Nat} (h0 : s.Wf) : NextWf (execCopyStamp q n s) := by
  unfold execCopyStamp
  grind [wf_modCopy, wf_endCopy, wf_copyWrites, NextWf]

end

end Sys2Proof.Machine

/-! # Proofs: that memory stays canonical: launches, regions, registers and commits -/

namespace Sys2Proof.Machine

section
variable {s : State}

/-! ## Launch records -/

theorem wf_modLqueue {qd q : Nat} {g : LQueue → LQueue} (h0 : s.Wf) : (s.modLqueue qd q g).Wf := h0

theorem wf_modRec {id : Nat} {g : LRec → LRec} (h0 : s.Wf) : (s.modRec id g).Wf := h0

theorem wf_capture {cfg : Cfg} {va : Nat} {w : List Word} (h0 : s.Wf) : ∀ t, s.capture cfg va w = some t → t.1.Wf := by
  unfold State.capture
  grind [State.Wf, wf_modLqueue]

theorem wf_commitLaunch {a : Agent} {i : Nat} {l : Token} (h0 : s.Wf) : (s.commitLaunch a i l).Wf := by
  have hj : (s.readJudged a i l.w64 128).Wf := wf_readJudged h0
  unfold State.commitLaunch
  split <;> rename_i hr <;> rw [hr] at hj
  · exact hj
  · exact hj
  · split
    · exact wf_capture hj _ ‹_›
    · exact hj

theorem wf_commitSplice {a : Agent} {i : Nat} {l h : Token} (h0 : s.Wf) : (s.commitSplice a i l h).Wf := by
  unfold State.commitSplice
  grind [State.Wf, CommitRes.Wf, RecRes.Wf, wf_readJudged, wf_modLqueue]

theorem wf_refuseRec {id code key : Nat} {payload : Option Nat} (h0 : s.Wf) : (s.refuseRec id code key payload).Wf := by
  unfold State.refuseRec
  grind [wf_post, wf_modLqueue, wf_modRec]

theorem wf_commitCancel {l : Token} (h0 : s.Wf) : (s.commitCancel l).Wf := by
  unfold State.commitCancel
  grind [CommitRes.Wf, wf_modDie, wf_modLqueue, wf_modRec]

theorem wf_execQstat {f : FmtT} (h0 : s.Wf) : NextWf (execQstat f s) := by
  unfold execQstat
  grind [wf_sendBoth, wf_fireWith]

/-! ## Non-deterministic merges and recorded choices -/

theorem wf_ndmAppend {key cctx cid : Nat} (h0 : s.Wf) : (s.ndmAppend key cctx cid).Wf := by
  unfold State.ndmAppend
  grind [LogRes.Wf, wf_modCell, wf_append]

theorem wf_ndmFlush {key cctx cid : Nat} (h0 : s.Wf) : (s.ndmFlush key cctx cid).Wf := by
  unfold State.ndmFlush
  grind [LogRes.Wf, wf_openLogGate, wf_logFull, wf_diverged, wf_ndmAppend]

theorem wf_ndmRecord {key cctx cid : Nat} {right : Bool} (h0 : s.Wf) : (s.ndmRecord key cctx cid right).Wf := by
  unfold State.ndmRecord
  grind [wf_modCell, wf_ndmFlush]

theorem wf_execRouterNdmerge {key cctx cid : Nat} {right : Bool} (h0 : s.Wf) :
    NextWf (execRouterNdmerge key cctx cid right s) := by
  unfold execRouterNdmerge
  grind [wf_emit, wf_latchPop, wf_routed, wf_routeWith, wf_ndmFlush, wf_ndmRecord]

/-! ## Waypoints and images -/

theorem wf_putCell {ks : List Nat} {mv : Nat → Nat} {e : Nat × Nat × Nat × Cell × CfgCtx} (h0 : s.Wf) :
    (s.putCell ks mv e).Wf := by
  unfold State.putCell
  grind [wf_modCell]

theorem wf_putCmd {ks : List Nat} {sn : Snap} {mv : Nat → Nat} {e : Nat × StreamCmd} (h0 : s.Wf) : (s.putCmd ks sn mv e).Wf :=
  h0

theorem wf_putSnap {ks : List Nat} {sn : Snap} (h0 : s.Wf) : (s.putSnap ks sn).Wf := by
  unfold State.putSnap
  grind [State.Wf, wf_modRegion, wf_putCell, wf_putCmd, wf_foldl]

theorem wf_passWaypoint {ln : Nat} (h0 : s.Wf) : (s.passWaypoint ln).Wf := by
  unfold State.passWaypoint
  dsimp only
  repeat' split
  all_goals grind [wf_modRegion, wf_startBlock, wf_modLog, wf_foldl]

theorem wf_scribble {place k pa n : Nat} (h0 : s.Wf) : (s.scribble place k pa n).Wf := wf_plainWrite h0

theorem wf_flushNdm {y : List (Nat × Nat × Nat)} (h0 : s.Wf) : (s.flushNdm y).Wf := by
  fun_induction s.flushNdm y <;> grind [LogRes.Wf, wf_ndmAppend]

theorem wf_appendMarks {ln n : Nat} {y : List Nat} (h0 : s.Wf) : (s.appendMarks ln n y).Wf := by
  fun_induction s.appendMarks ln n y <;> grind [LogRes.Wf, wf_append]

theorem wf_resetTags {l : ULog} (h0 : s.Wf) : (s.resetTags l).Wf := by
  unfold State.resetTags
  grind [State.Wf, wf_modCell, wf_foldl]

theorem wf_writeSlots {ln n : Nat} {l : ULog} (h0 : s.Wf) : (s.writeSlots ln n l).Wf := by
  unfold State.writeSlots
  grind [wf_scribble, wf_foldl]

theorem wf_takeWaypoint {ln : Nat} {first full : Bool} (h0 : s.Wf) : (s.takeWaypoint ln first full).Wf := by
  unfold State.takeWaypoint
  grind [State.Wf, LogRes.Wf, wf_logPointers, wf_modLog, wf_logHeader, wf_flushNdm, wf_appendMarks, wf_resetTags, wf_writeSlots]

/-! ## The load of a record -/

theorem wf_fetchBytes {id : Nat} {v : Via} {va n : Nat} (h0 : s.Wf) : (s.fetchBytes id v va n).Wf := by
  unfold State.fetchBytes
  grind [State.Wf, Bytes.Wf, Fetched.Wf, wf_dropAcc, wf_readBytes, wf_openParts, wf_modRec]

theorem wf_noteFetch {id detail : Nat} (h0 : s.Wf) : (s.noteFetch id detail).Wf := h0

theorem wf_fetchChart {r : LRec} (h0 : s.Wf) : (s.fetchChart r).Wf := by
  unfold State.fetchChart
  dsimp only
  repeat' split
  all_goals grind [Fetched.Wf, GotChart.Wf, wf_dropAcc, wf_modRec, wf_fetchBytes]

theorem wf_install {r : LRec} {ch : Chart} {ps : List Spot} {keys : List Nat} {keepLog : Option Word} (h0 : s.Wf) :
    (s.install r ch ps keys keepLog).Wf := by
  unfold State.install
  grind [State.Wf, wf_modCell, wf_modRegion, wf_modRec, wf_foldl]

theorem wf_phase1 {r : LRec} {keys : List Nat} {keepLog : Option Word} (h0 : s.Wf) : (s.phase1 r keys keepLog).Wf := by
  unfold State.phase1
  grind [GotChart.Wf, Phase1.Wf, wf_modDie, wf_dropAcc, wf_modRec, wf_fetchChart, wf_install, wf_foldl]

theorem wf_serve {k : Nat} (h0 : s.Wf) : (s.serve k).Wf := by
  unfold State.serve
  grind [wf_modDie]

theorem wf_activate {keys : List Nat} {pins : List (Nat × List Pin)} {restored : Bool} (h0 : s.Wf) :
    (s.activate keys pins restored).Wf := by
  unfold State.activate
  dsimp only
  repeat' split
  all_goals grind [LogRes.Wf, wf_modCell, wf_modRegion, wf_advanceGen, wf_modRec, wf_takeWaypoint, wf_serve, wf_foldl]

theorem wf_leaveCell {k key n : Nat} (h0 : s.Wf) : (s.leaveCell k key n).Wf := wf_modRegion (wf_clearBanks h0)

theorem wf_unserve {k : Nat} (h0 : s.Wf) : (s.unserve k).Wf := by
  unfold State.unserve
  grind [wf_modDie, wf_post, wf_foldl]

theorem wf_withdrawRegion {k : Nat} (h0 : s.Wf) : (s.withdrawRegion k).Wf := wf_letClaims h0

theorem wf_leaveRegion {k : Nat} {st : RegSt} (h0 : s.Wf) : (s.leaveRegion k st).Wf := by
  unfold State.leaveRegion
  grind [wf_modRegion, wf_leaveCell, wf_unserve, wf_withdrawRegion, wf_foldl]

theorem wf_closeLog {ln : Nat} (h0 : s.Wf) : (s.closeLog ln).Wf := by
  unfold State.closeLog
  grind [State.Wf]

theorem wf_endGang {ks : List Nat} {st : RegSt} (h0 : s.Wf) : (s.endGang ks st).Wf := by
  unfold State.endGang
  grind [wf_modRec, wf_leaveRegion, wf_closeLog, wf_foldl]

/-! ## Registers that a session names -/

theorem wf_slotRegWrite {p : DbgSpot} {i : Nat} {v : Word} (h0 : s.Wf) : ∀ t : State, s.slotRegWrite p i v = some t → t.Wf := by
  intro t ht
  unfold State.slotRegWrite at ht
  dsimp only at ht
  split at ht
  · split at ht
    · cases ht
    · obtain ⟨o, -, rfl⟩ := Option.map_eq_some_iff.mp ht
      exact wf_modWin h0
  · cases ht

theorem wf_routerWrite {p : DbgSpot} {i : Nat} {v : Word} (h0 : s.Wf) : ∀ t : State, s.routerWrite p i v = some t → t.Wf := by
  intro t ht
  unfold State.routerWrite at ht
  dsimp only at ht
  split at ht
  · split at ht
    · cases ht
    · injection ht with ht
      exact ht ▸ wf_modCell h0
  split at ht
  · cases ht
  split at ht
  · cases ht
  · obtain ⟨o, -, rfl⟩ := Option.map_eq_some_iff.mp ht
    exact wf_modCell h0

theorem wf_putPair {p : DbgSpot} {r : Nat} {v : Word} (h0 : s.Wf) : (s.putPair p r v).Wf := by
  unfold State.putPair
  grind [wf_getD, wf_slotRegWrite, wf_routerWrite]

theorem wf_putPairs {p : DbgSpot} {l : List (Nat × Word)} (h0 : s.Wf) : (s.putPairs p l).Wf := by
  unfold State.putPairs
  grind [wf_putPair, wf_foldl]

/-! ## Regions: gates, saves, restores and aborts -/

theorem wf_commitRes_status {status reason : Nat} (h0 : s.Wf) : (CommitRes.status s status reason).Wf := h0

theorem wf_notifyHandler {k : Nat} {r : Region} {f : FaultRec} (h0 : s.Wf) : (s.notifyHandler k r f).Wf := by
  unfold State.notifyHandler
  grind [wf_modDie, wf_modRegion, wf_post]

theorem wf_deliverNotice {k : Nat} (h0 : s.Wf) : (s.deliverNotice k).Wf := by
  unfold State.deliverNotice
  grind [wf_modCell, wf_modDie, wf_entered]

theorem wf_execHandlerNotify {region : Nat} (h0 : s.Wf) : NextWf (execHandlerNotify region s) := by
  unfold execHandlerNotify
  grind [wf_notifyHandler, wf_deliverNotice, NextWf]

theorem wf_execRegionStalled {region : Nat} (h0 : s.Wf) : NextWf (execRegionStalled region s) := by
  unfold execRegionStalled
  grind [wf_takeHeld, wf_diverged, NextWf]

theorem wf_startGate {ks : List Nat} {victim : Bool} (h0 : s.Wf) : (s.startGate ks victim).Wf := by
  unfold State.startGate
  grind [wf_modRegion, wf_traceEvent, wf_foldl]

theorem wf_settle {ks : List Nat} {full : Bool} (h0 : s.Wf) : (s.settle ks full).Wf := by
  unfold State.settle
  grind [wf_modRegion, wf_writeBackRegion, wf_foldl]

theorem wf_execGatedQuiescence {region : Nat} (h0 : s.Wf) : NextWf (execGatedQuiescence region s) := by
  unfold execGatedQuiescence
  grind [wf_settle, NextWf]

theorem wf_dropClaims {k : Nat} (h0 : s.Wf) : (s.dropClaims k).Wf := wf_letClaims h0

theorem wf_fullSave {ks : List Nat} (h0 : s.Wf) : (s.fullSave ks).Wf := by
  unfold State.fullSave
  grind [wf_modRegion, wf_settle, wf_dropClaims, wf_foldl]

theorem wf_postFor {k kind stat : Nat} {payload : Word} (h0 : s.Wf) : (s.postFor k kind stat payload).Wf := by
  unfold State.postFor
  grind [wf_post]

theorem wf_endAborted {ks : List Nat} (h0 : s.Wf) : (s.endAborted ks).Wf := by
  unfold State.endAborted
  grind [State.Wf, wf_endGang, wf_foldl]

theorem wf_abortGang {ks : List Nat} (h0 : s.Wf) : (s.abortGang ks).Wf := by
  unfold State.abortGang
  grind [wf_postFor, wf_endAborted]

theorem wf_holdOp {a : Agent} {i k : Nat} (h0 : s.Wf) : (s.holdOp a i k).Wf := by
  unfold State.holdOp
  grind [wf_modRegion, wf_modWin, wf_foldl]

theorem wf_onRegion {a : Agent} {i : Nat} {h : Word} {go : State → CommitRes} (h0 : s.Wf)
    (h1 : ∀ (t : State), t.Wf → (go t).Wf) : (s.onRegion a i h go).Wf := by
  unfold State.onRegion
  grind [CommitRes.Wf, wf_commitRes_status, wf_holdOp]

theorem wf_abortWaits {ks : List Nat} (h0 : s.Wf) : ∀ t : State, s.abortWaits ks = some t → t.Wf := by
  unfold State.abortWaits
  grind [wf_writeBackRegion, wf_foldl]

theorem wf_commitAbort {h : Word} (h0 : s.Wf) : (s.commitAbort h).Wf := by
  unfold State.commitAbort
  grind [CommitRes.Wf, wf_commitRes_status, wf_abortGang, wf_abortWaits]

theorem wf_commitResume {h : Word} (h0 : s.Wf) : (s.commitResume h).Wf := by
  unfold State.commitResume
  grind [wf_resumeRegion, wf_traceEvent, wf_commitRes_status]

theorem wf_commitPreempt {a : Agent} {i : Nat} {h : Word} (h0 : s.Wf) : (s.commitPreempt a i h).Wf := by
  unfold State.commitPreempt
  grind [CommitRes.Wf, wf_modWin, wf_commitRes_status, wf_startGate]

theorem wf_writeArea {ks : List Nat} {va : Nat} (h0 : s.Wf) : (s.writeArea ks va).Wf := by
  unfold State.writeArea
  grind [State.Wf, SaveRes.Wf, WriteRun.Wf, wf_runStores]

theorem wf_leaveSaved {ks : List Nat} {va : Nat} (h0 : s.Wf) : (s.leaveSaved ks va).Wf := by
  unfold State.leaveSaved
  grind [State.Wf, wf_modRegion, wf_logPointers, wf_modRec, wf_leaveRegion, wf_foldl]

theorem wf_failSave {ks : List Nat} {fclass : Nat} (h0 : s.Wf) : (s.failSave ks fclass).Wf := by
  unfold State.failSave
  grind [wf_postFor, wf_endAborted]

theorem wf_commitCksave {a : Agent} {i : Nat} {h : Word} {va : Nat} (h0 : s.Wf) : (s.commitCksave a i h va).Wf := by
  unfold State.commitCksave
  grind [CommitRes.Wf, SaveRes.Wf, wf_foreignFull, wf_opClose, wf_opNeed, wf_commitRes_status, wf_writeArea, wf_leaveSaved,
    wf_failSave]

theorem wf_adoptLog {ks : List Nat} {old : Nat} (h0 : s.Wf) : (s.adoptLog ks old).Wf := by
  unfold State.adoptLog
  split
  · exact h0
  dsimp only
  refine of_ite h0 ?_
  · refine wf_foldl (fun t k ht => ?_) _ (wf_modLog (wf_closeLog h0))
    split
    · exact ht
    · refine wf_foldl (fun u key hu => ?_) _ ht
      split
      · exact wf_modCell hu
      · exact hu

theorem wf_readPointers {ln : Nat} (h0 : s.Wf) : (s.readPointers ln).Wf := wf_modLog h0

theorem wf_putArea {ks : List Nat} {sn : Option Snap} {parts : List (Nat × List Byte)} (h0 : s.Wf) :
    (s.putArea ks sn parts).Wf := by
  unfold State.putArea
  grind [wf_modCell, wf_modRegion, wf_traceEvent, wf_putSnap, wf_putPairs, wf_foldl, wf_foldl_pair]

theorem wf_readRanges {v : Via} {got : List AUnit} {va : Nat} {y : List (Nat × Nat)} (h0 : s.Wf) :
    (s.readRanges v got va y).Wf := by
  fun_induction s.readRanges v got va y <;> grind [Bytes.Wf, wf_readBytes]

theorem wf_rejoin {ln : Nat} {ks : List Nat} (h0 : s.Wf) : (s.rejoin ln ks).Wf := by
  unfold State.rejoin
  grind [wf_modRegion, wf_modLog, wf_foldl]

theorem wf_restore {ks : List Nat} {va : Nat} {got : List AUnit} (h0 : s.Wf) : (s.restore ks va got).Wf := by
  unfold State.restore
  dsimp only
  repeat' split
  all_goals grind [State.Wf, Bytes.Wf, RestRes.Wf, wf_activate, wf_adoptLog, wf_readPointers, wf_putArea, wf_readRanges,
    wf_rejoin]

theorem wf_commitCkrest {a : Agent} {i : Nat} {h : Word} {va : Nat} (h0 : s.Wf) : (s.commitCkrest a i h va).Wf := by
  unfold State.commitCkrest
  grind [CommitRes.Wf, RestRes.Wf, wf_opClose, wf_opNeed, wf_noteFetch, wf_commitRes_status, wf_restore]

/-! ## Conditions, completion, energy windows, splices -/

theorem wf_recClose {id : Nat} (h0 : s.Wf) : (s.recClose id).Wf := by
  unfold State.recClose
  grind [wf_dropAcc, wf_modRec]

theorem wf_execConditionSatisfied {id cond : Nat} (h0 : s.Wf) : NextWf (execConditionSatisfied id cond s) := by
  unfold execConditionSatisfied
  grind [Fetched.Wf, wf_advanceGen, wf_modRec, wf_refuseRec, wf_fetchBytes, wf_noteFetch, wf_recClose, NextWf]

theorem wf_takeRecord {d : Nat} {r : LRec} {o : Nat} (h0 : s.Wf) : (s.takeRecord d r o).Wf := h0

theorem wf_execGangReservation {die : Nat} (h0 : s.Wf) : NextWf (execGangReservation die s) := by
  unfold execGangReservation
  grind [wf_modDie, wf_modRec, NextWf]

theorem wf_refuseLoad {r : LRec} {code addr detail : Nat} (h0 : s.Wf) : (s.refuseLoad r code addr detail).Wf := by
  unfold State.refuseLoad
  grind [wf_modDie, wf_refuseRec, wf_noteFetch]

theorem wf_refuseSaved {r : LRec} {ks : List Nat} {code addr detail : Nat} (h0 : s.Wf) :
    (s.refuseSaved r ks code addr detail).Wf := wf_refuseRec (wf_endGang h0)

theorem wf_loadSaved {r : LRec} (h0 : s.Wf) : (s.loadSaved r).Wf := by
  unfold State.loadSaved
  grind [Phase1.Wf, RestRes.Wf, wf_openParts, wf_modRec, wf_phase1, wf_restore, wf_recClose, wf_refuseSaved]

theorem wf_execLoadCommit {id : Nat} (h0 : s.Wf) : NextWf (execLoadCommit id s) := by
  unfold execLoadCommit
  grind [Phase1.Wf, wf_modRec, wf_phase1, wf_activate, wf_endGang, wf_refuseLoad, wf_loadSaved, NextWf]

theorem wf_refuseBlocks {k : Nat} {w : Word × Word} (h0 : s.Wf) : (s.refuseBlocks k w).Wf := by
  unfold State.refuseBlocks
  grind [wf_modRegion, wf_modRec, wf_refuseRec, wf_endGang, wf_foldl]

theorem wf_helmFill {core cell cctx : Nat} {blocks : List Word} (h0 : s.Wf) : (s.helmFill core cell cctx blocks).Wf := by
  unfold State.helmFill
  grind [wf_modCell, wf_modHelm, wf_refuseBlocks]

theorem wf_placeChload {r : LRec} {k : Nat} (h0 : s.Wf) :
    (∀ e, s.placeChload r k = .error e → e.Wf) ∧ ∀ o, s.placeChload r k = .ok o → o.1.Wf := by
  unfold State.placeChload
  grind [CommitRes.Wf, GotChart.Wf, wf_modRec, wf_fetchChart, wf_commitRes_status]

theorem wf_goChload {r : LRec} {k : Nat} (h0 : s.Wf) : (s.goChload r k).Wf := by
  obtain ⟨he, ho⟩ := wf_placeChload (r := r) (k := k) h0
  unfold State.goChload
  split
  · exact he _ ‹_›
  · rename_i t q hr
    have hp : (t.phase1 q [k] none).Wf := wf_phase1 (ho _ hr)
    split <;> rename_i hr <;> rw [hr] at hp
    · exact hp
    · exact wf_status (of_ite (wf_post (wf_modRec hp)) (wf_modRec hp))
    · exact wf_status (wf_modRec hp)

theorem wf_commitChload {a : Agent} {i va : Nat} {h : Word} (h0 : s.Wf) : (s.commitChload a i va h).Wf := by
  unfold State.commitChload
  grind [State.Wf, CommitRes.Wf, RecRes.Wf, wf_modWin, wf_readJudged, wf_commitRes_status, wf_goChload]

theorem wf_commitChact {h : Word} (h0 : s.Wf) : (s.commitChact h).Wf := by
  unfold State.commitChact
  grind [wf_noteFetch, wf_activate, wf_commitRes_status]

theorem wf_endPhase {k : Nat} (h0 : s.Wf) : (s.endPhase k).Wf := by
  unfold State.endPhase
  grind [State.Wf, wf_modRegion, wf_traceEvent, wf_postFor]

theorem wf_doneAdd {r : LRec} {d : Nat} (h0 : s.Wf) : (s.doneAdd r d).Wf := by
  unfold State.doneAdd
  grind [State.Wf, AddRes.Wf, ElemRes.Wf, wf_modAcc, wf_foreignFull, wf_diverged, wf_readGlobal, wf_writeGlobal, wf_openParts,
    wf_modRec, wf_recClose]

theorem wf_closeAccounts {ks : List Nat} (h0 : s.Wf) : (s.closeAccounts ks).Wf := by
  unfold State.closeAccounts
  grind [wf_modRegion, wf_foldl]

theorem wf_execRegionComplete {region : Nat} (h0 : s.Wf) : NextWf (execRegionComplete region s) := by
  unfold execRegionComplete
  grind [AddRes.Wf, wf_writeBackRegion, wf_diverged, wf_endGang, wf_postFor, wf_endPhase, wf_doneAdd, wf_closeAccounts, NextWf,
    wf_foldl]

theorem wf_execEnergyWindow {region : Nat} (h0 : s.Wf) : NextWf (execEnergyWindow region s) := by
  unfold execEnergyWindow
  grind [wf_modRegion, wf_postFor, NextWf]

theorem wf_sendSplices {key n k : Nat} (h0 : s.Wf) : (s.sendSplices key n k).Wf := by
  unfold State.sendSplices
  grind [wf_emitPort, wf_foldl]

theorem wf_spliceFault {key n k code addr detail : Nat} (h0 : s.Wf) : (s.spliceFault key n k code addr detail).Wf :=
  wf_takeHeld h0

theorem wf_beginPhase {k2 : Nat} (h0 : s.Wf) : (s.beginPhase k2).Wf := by
  unfold State.beginPhase
  grind [LogRes.Wf, wf_modRegion, wf_takeWaypoint]

theorem wf_renameRegion {k k2 : Nat} (h0 : s.Wf) : (s.renameRegion k k2).Wf := by
  unfold State.renameRegion
  grind [State.Wf, wf_modCell, wf_modLog, wf_modRec, wf_serve, wf_unserve, wf_closeLog, wf_endPhase, wf_foldl]

theorem wf_cross {key n n2 k k2 : Nat} (h0 : s.Wf) : (s.cross key n n2 k k2).Wf := by
  unfold State.cross
  grind [wf_modCell, wf_modRegion, wf_advanceGen, wf_leaveCell, wf_sendSplices, wf_spliceFault, wf_beginPhase, wf_renameRegion]

theorem wf_execSpliceSwitchover {cell cctx : Nat} (h0 : s.Wf) : NextWf (execSpliceSwitchover cell cctx s) := by
  unfold execSpliceSwitchover
  grind [wf_clearBanks, wf_cross, NextWf]

theorem wf_afterWaypoint {ln : Nat} (h0 : s.Wf) : (s.afterWaypoint ln).Wf := by
  unfold State.afterWaypoint
  grind [wf_traceEvent, wf_passWaypoint, wf_foldl]

theorem wf_doWaypoint {ln : Nat} {full : Bool} (h0 : s.Wf) : (s.doWaypoint ln full).Wf := by
  unfold State.doWaypoint
  grind [LogRes.Wf, wf_logFull, wf_diverged, wf_takeWaypoint, wf_afterWaypoint]

theorem wf_execWaypointQuiescence {region : Nat} (h0 : s.Wf) : NextWf (execWaypointQuiescence region s) := by
  unfold execWaypointQuiescence
  grind [wf_doWaypoint, NextWf]

theorem wf_execQboundExpiry {region : Nat} (h0 : s.Wf) : NextWf (execQboundExpiry region s) := by
  unfold execQboundExpiry
  grind [wf_modRegion, wf_fullSave, wf_doWaypoint, NextWf, wf_foldl]

/-! ## Special registers -/

theorem wf_modCtx {key t : Nat} {f : TaskCtx → TaskCtx} (h0 : s.Wf) : (s.modCtx key t f).Wf := h0

theorem wf_putUlog {key n : Nat} {v : Word} (h0 : s.Wf) : (s.putUlog key n v).Wf := by
  unfold State.putUlog
  grind [wf_modCell, wf_modLog]

theorem wf_csrWriteAt {a : Agent} {at0 : Nat × Nat × Nat} {n : Nat} {v : Word} (h0 : s.Wf) : (s.csrWriteAt a at0 n v).Wf := by
  have hd {t : State} (h : t.Wf) : (CommitRes.done t none).Wf := h
  have hi {c : Prop} [Decidable c] {p q : CommitRes} (hp : p.Wf) (hq : q.Wf) : (if c then p else q).Wf :=
    iteInduction (motive := CommitRes.Wf) (fun _ => hp) fun _ => hq
  unfold State.csrWriteAt
  refine hi (hd (wf_modCtx h0)) <| hi (hd (wf_modCtx h0)) <| hi (hd (wf_modCtx h0)) <| hi (hd (wf_modCtx h0)) <|
    hi (hd (wf_modCtx h0)) <| hi (hd (wf_modCell h0)) <| hi (hd (wf_modCell h0)) <| hi (hd (wf_modCell h0)) <|
    hi (hd (wf_modCell h0)) <| hi (hd (wf_putUlog h0)) <| hi (hi h0 (hi h0 h0)) <| hi ?_ <|
    hi (hd (wf_modTask h0)) <| hi (hd (wf_modTask h0)) <| hi (hd (wf_modTask h0)) <| hd h0
  cases a with
  | helm h => exact hd (wf_modHelm h0)
  | task d p t => exact hd h0

theorem wf_csrWrite {a : Agent} {n : Nat} {v : Word} (h0 : s.Wf) : (s.csrWrite a n v).Wf := wf_csrWriteAt h0

theorem wf_ulcmdEnd {ok : Bool} (h0 : s.Wf) : (s.ulcmdEnd ok).Wf := h0

theorem wf_extendLog {ln d : Nat} (h0 : s.Wf) : ∀ t : State, s.extendLog ln d = some t → t.Wf := by
  unfold State.extendLog
  grind [wf_modLog]

theorem wf_execUlcmdExtend {w : Word} (h0 : s.Wf) : NextWf (execUlcmdExtend w s) := by
  unfold execUlcmdExtend
  grind [wf_openLogGate, wf_ulcmdEnd, wf_extendLog, NextWf]

theorem wf_execUlcmdDiscard {w : Word} (h0 : s.Wf) : NextWf (execUlcmdDiscard w s) := by
  unfold execUlcmdDiscard
  grind [wf_discardTo, wf_openLogGate, wf_ulcmdEnd, NextWf]

/-! ## SOUNDING -/

theorem wf_ringPut {i v : Nat} (h0 : s.Wf) : (s.ringPut i v).Wf := by
  unfold State.ringPut
  grind [LogRes.Wf, wf_homeWrite]

theorem wf_ringFlag {m : Nat} (h0 : s.Wf) : (s.ringFlag m).Wf := wf_ringPut h0

theorem wf_sendFrame {fkind nakc : Nat} {payload : List Byte} (h0 : s.Wf) : (s.sendFrame fkind nakc payload).Wf := h0

theorem wf_sealRecord {k : Nat} {plain : List Byte} (h0 : s.Wf) : (s.sealRecord k plain).1.Wf := by
  unfold State.sealRecord
  grind [State.Wf]

theorem wf_mailEntry {k : Nat} {r : Region} (h0 : s.Wf) : (s.mailEntry k r).1.Wf := by
  unfold State.mailEntry
  grind [wf_sealRecord]

theorem wf_summary (h0 : s.Wf) : (s.summary).1.Wf := by
  unfold State.summary
  grind [State.Wf, wf_mailEntry, wf_foldl_pair]

theorem wf_startSounding (h0 : s.Wf) : (s.startSounding).Wf := by
  unfold State.startSounding
  grind [State.Wf, wf_summary]

theorem wf_sendPart (h0 : s.Wf) : (s.sendPart).Wf := by
  unfold State.sendPart
  grind [State.Wf, wf_ringPut, wf_sendFrame]

theorem wf_commitSound {a : Agent} {i : Nat} (h0 : s.Wf) : (s.commitSound a i).Wf := by
  unfold State.commitSound
  grind [State.Wf, CommitRes.Wf, wf_modWin, wf_commitRes_status, wf_startSounding]

/-! ## System instructions -/

theorem wf_fireRead {op : Nat} {f : FmtS} {v : State → Agent → Slot → Word × Word} (h0 : s.Wf) :
    NextWf (fireRead s op f v) := by
  unfold fireRead
  grind [State.Wf, wf_send, wf_fireWith]

theorem wf_execCsrr {f : FmtS} (h0 : s.Wf) : NextWf (execCsrr f s) := wf_fireRead h0

theorem wf_execMailr {f : FmtS} (h0 : s.Wf) : NextWf (execMailr f s) := wf_fireRead h0

theorem wf_execReckRdbudget {f : FmtS} (h0 : s.Wf) : NextWf (execReckRdbudget f s) := wf_fireRead h0

theorem wf_execReckRdctr {f : FmtS} (h0 : s.Wf) : NextWf (execReckRdctr f s) := wf_fireRead h0

theorem wf_commitBudget {r : Word} (h0 : s.Wf) : (s.commitBudget r).Wf := by
  unfold State.commitBudget
  grind [State.Wf, wf_commitRes_status]

theorem wf_tlbi {a : Agent} {i sc mode va asid : Nat} (h0 : s.Wf) : (s.tlbi a i sc mode va asid).Wf := wf_modWin (wf_modWin h0)

theorem wf_execTlbi {f : FmtS} (h0 : s.Wf) : NextWf (execTlbi f s) := by
  unfold execTlbi
  grind [wf_fireWith, wf_tlbi]

theorem wf_execTlbiComplete {a : Agent} {slot : Nat} (h0 : s.Wf) : NextWf (execTlbiComplete a slot s) := by
  unfold execTlbiComplete
  grind [wf_modWin, wf_setSlot, wf_send, NextWf]

theorem wf_execAlmr {f : FmtS} (h0 : s.Wf) : NextWf (execAlmr f s) := wf_fireRead h0

theorem wf_commitAlmw {a : Agent} {i : Nat} {w0 w1 : Word} (h0 : s.Wf) : (s.commitAlmw a i w0 w1).Wf := by
  unfold State.commitAlmw
  grind [State.Wf, CommitRes.Wf, wf_modWin, wf_commitRes_status]

theorem wf_execAlmwDurable (h0 : s.Wf) : NextWf (execAlmwDurable s) := by
  unfold execAlmwDurable
  grind [State.Wf, wf_modWin, NextWf]

theorem wf_execIdle {f : FmtS} (h0 : s.Wf) : NextWf (execIdle f s) := by
  unfold execIdle
  grind [wf_modDie, wf_send, wf_fireWith]

theorem wf_reportBytes {req : List Byte} (h0 : s.Wf) : (s.reportBytes req).1.Wf := h0

theorem wf_writeReport {s0 : State} {a : Agent} {i va : Nat} {bs : List Byte} (h0 : s.Wf) (h1 : s0.Wf) :
    (s.writeReport s0 a i va bs).Wf := by
  unfold State.writeReport
  grind [CommitRes.Wf, WriteRun.Wf, wf_modWin, wf_logFull, wf_holdElem, wf_freeElem, wf_openParts, wf_runStores,
    wf_commitRes_status]

theorem wf_commitAttest {a : Agent} {i va rep : Nat} (h0 : s.Wf) : (s.commitAttest a i va rep).Wf := by
  unfold State.commitAttest
  grind [CommitRes.Wf, RecRes.Wf, wf_dropAcc, wf_readJudged, wf_commitRes_status, wf_reportBytes, wf_writeReport]

/-! ## The commit of a block -/

theorem wf_windowCall {a : Agent} (h0 : s.Wf) : (s.windowCall a).Wf := by
  unfold State.windowCall
  grind [wf_modTask, wf_localWrite, wf_localClean]

theorem wf_windowRet {a : Agent} (h0 : s.Wf) : (s.windowRet a).Wf := by
  unfold State.windowRet
  grind [wf_modTask]

theorem wf_commitEvt {a : Agent} {f : FmtS} {v : Word} (h0 : s.Wf) : (s.commitEvt a f v).Wf := by
  unfold State.commitEvt
  grind [State.Wf, CommitRes.Wf, wf_post, wf_horizon]

theorem wf_commitOp {a : Agent} {i op : Nat} {f : Fmt} {sl : Slot} (h0 : s.Wf) : (s.commitOp a i op f sl).Wf := by
  unfold State.commitOp
  grind [CommitRes.Wf, wf_commitShape, wf_commitCopy, wf_commitBatch, wf_commitCancelCopies, wf_commitLaunch, wf_commitSplice,
    wf_commitCancel, wf_onRegion, wf_commitAbort, wf_commitResume, wf_commitPreempt, wf_commitCksave, wf_commitCkrest,
    wf_commitChload, wf_commitChact, wf_csrWrite, wf_commitSound, wf_commitBudget, wf_commitAlmw, wf_commitAttest, wf_commitEvt]

theorem wf_opFinish {a : Agent} {i : Nat} {f : Fmt} {sl : Slot} {tok : Option Token} (h0 : s.Wf) :
    (s.opFinish a i f sl tok).Wf := by
  unfold State.opFinish
  grind [wf_modWin]

theorem wf_opReports {a : Agent} {op : Nat} (h0 : s.Wf) : (s.opReports a op).Wf := by
  unfold State.opReports
  grind [wf_acquireAt]

theorem wf_runLate {a : Agent} {y : List (Nat × Nat × Fmt × Slot)} (h0 : s.Wf) : (s.runLate a y).Wf := by
  fun_induction s.runLate a y <;> grind [CommitRes.Wf, LateRes.Wf, wf_commitOp, wf_opFinish, wf_opReports]

theorem wf_judgeRecords {a : Agent} {y : List (Nat × Nat × Fmt × Slot)} (h0 : s.Wf) : (s.judgeRecords a y).Wf := by
  fun_induction s.judgeRecords a y <;> grind [JudgeRes.Wf, RecRes.Wf, wf_modWin, wf_readRecord]

theorem wf_lateFault {a : Agent} {ops : List (Nat × Nat × Fmt × Slot)} (h0 : s.Wf) :
    ∀ t, s.lateFault a ops = some t → t.1.Wf := by
  intro t ht
  obtain ⟨o, -, ho⟩ := List.mem_filterMap.mp (List.mem_of_mem_head? ht)
  have hc : (s.commitOp a o.1 o.2.1 o.2.2.1 o.2.2.2).Wf := wf_commitOp h0
  obtain ⟨-, ho⟩ := Option.ite_none_left_eq_some.mp ho
  split at ho
  · rename_i hr
    rw [hr] at hc
    injection ho with ho
    exact ho ▸ hc
  · cases ho

theorem wf_judgeLate {a : Agent} {w : Win} {ops : List (Nat × Nat × Fmt × Slot)} (h0 : s.Wf) : (s.judgeLate a w ops).Wf := by
  have hj : (s.judgeRecords a ops).Wf := wf_judgeRecords h0
  unfold State.judgeLate
  split
  · exact h0
  · split
    · rename_i hr
      rw [hr] at hj
      split
      · exact wf_lateFault hj _ ‹_›
      · exact hj
    · exact hj

theorem wf_keepStores {a : Agent} {seq : Nat} (h0 : s.Wf) : (s.keepStores a seq).Wf := by
  unfold State.keepStores
  grind [wf_modWin, wf_foldl]

theorem wf_freeStores {a : Agent} {seq : Nat} (h0 : s.Wf) : (s.freeStores a seq).Wf := h0

theorem wf_settleTask {a : Agent} {w : Win} (h0 : s.Wf) : (s.settleTask a w).Wf := wf_modTask (wf_modTask h0)

theorem wf_sendOuts {a : Agent} {w : Win} {l : List OutTok} (h0 : s.Wf) : (s.sendOuts a w l).Wf := by
  unfold State.sendOuts
  dsimp only
  repeat' split
  all_goals grind [wf_modAcc, wf_freeColour, wf_latchPut, wf_foldl]

theorem wf_trapTask {a : Agent} {f : FaultRec} {next : Nat} (h0 : s.Wf) : (s.trapTask a f next).Wf := by
  unfold State.trapTask
  grind [State.Wf, wf_modHelm, wf_modTask, wf_report, wf_traceEvent]

theorem wf_joinWaypoint {a : Agent} {ln next : Nat} (h0 : s.Wf) : (s.joinWaypoint a ln next).Wf := by
  unfold State.joinWaypoint
  grind [wf_modRegion, wf_modTask, wf_modLog, wf_foldl]

theorem wf_takeEffect {a : Agent} {e : ExitRec} {f : FaultRec} (h0 : s.Wf) : (s.takeEffect a e f).Wf := by
  unfold State.takeEffect
  grind [wf_modCell, wf_modHelm, wf_modTask, wf_startBlock, wf_trapTask, wf_joinWaypoint]

theorem wf_commitBlock {a : Agent} {w : Win} {e : ExitRec} (h0 : s.Wf) : (s.commitBlock a w e).Wf := by
  unfold State.commitBlock
  grind [wf_modTask, wf_moved, wf_windowCall, wf_windowRet, wf_freeStores, wf_sendOuts, wf_takeEffect, wf_foldl]

theorem wf_divergeAt {a : Agent} {ln : Nat} (h0 : s.Wf) : (s.divergeAt a ln).Wf := wf_modTask (wf_diverged h0)

theorem wf_tryCommit {a : Agent} (h0 : s.Wf) : (s.tryCommit a).Wf := by
  unfold State.tryCommit
  dsimp only
  repeat' split
  all_goals grind [JudgeRes.Wf, LateRes.Wf, wf_blockFault, wf_runLate, wf_judgeLate, wf_keepStores, wf_freeStores,
    wf_settleTask, wf_commitBlock, wf_divergeAt]

theorem wf_execEvtDeliver {a : Agent} (h0 : s.Wf) : NextWf (execEvtDeliver a s) := by
  unfold execEvtDeliver
  grind [wf_tryCommit, NextWf]

theorem wf_execQueueRoomCapture {a : Agent} (h0 : s.Wf) : NextWf (execQueueRoomCapture a s) := by
  unfold execQueueRoomCapture
  grind [wf_tryCommit, NextWf]

end

end Sys2Proof.Machine

/-! # Proofs: that memory stays canonical: bring-up, host, pod, debug, and the step -/

namespace Sys2Proof.Machine

section
variable {s : State}

/-! ## Bring-up, failures and power -/

theorem wf_bootEntry {kind place unit : Nat} (h0 : s.Wf) : (s.bootEntry kind place unit).Wf := by
  unfold State.bootEntry
  dsimp only
  repeat' split
  all_goals grind [State.Wf]

theorem wf_retireFn {fn : Nat} (h0 : s.Wf) : (s.retireFn fn).Wf := by
  have h1 : State.Wf { s with failedBits := setAdd s.failedBits fn } := h0
  unfold State.retireFn
  refine of_ite ?_ (of_ite ?_ (of_ite ?_ h1))
  · exact wf_withEntries (wf_modDie (wf_bootEntry h1)) _
  · exact wf_withLinks (wf_foldl (fun t u ht => wf_bootEntry ht) _ h1) _
  · exact wf_withLinks (wf_bootEntry (wf_bootEntry h1)) _

theorem wf_ringInit (h0 : s.Wf) : (s.ringInit).Wf := wf_plainWrite h0

theorem wf_execFunctionReady {fn : Nat} {pass : Bool} (h0 : s.Wf) : NextWf (execFunctionReady fn pass s) := by
  unfold execFunctionReady
  grind [State.Wf, wf_modHelm, wf_retireFn, wf_ringInit, NextWf]

theorem wf_execHelmStart {core : Nat} (h0 : s.Wf) : NextWf (execHelmStart core s) := by
  unfold execHelmStart
  grind [wf_modHelm, wf_startBlock, NextWf]

theorem wf_execFunctionFailure {fn : Nat} (h0 : s.Wf) : NextWf (execFunctionFailure fn s) := by
  unfold execFunctionFailure
  grind [State.Wf, wf_modHelm, wf_modDie, NextWf]

theorem wf_execCellClockGate {cell : Nat} (h0 : s.Wf) : NextWf (execCellClockGate cell s) := by
  unfold execCellClockGate
  grind [wf_modCell, NextWf]

theorem wf_execCellWake {cell : Nat} (h0 : s.Wf) : NextWf (execCellWake cell s) := by
  unfold execCellWake
  grind [wf_modCell, wf_moved, NextWf, wf_foldl]

theorem wf_execCellPowerGate {cell : Nat} (h0 : s.Wf) : NextWf (execCellPowerGate cell s) := by
  unfold execCellPowerGate
  grind [wf_modCell, NextWf]

/-! ## The host port and its messages -/

theorem wf_nak {c : Nat} (h0 : s.Wf) : (s.nak c).Wf := wf_ringFlag h0

theorem wf_putSlots {bs : List Byte} {next k : Nat} {y : List Nat} (h0 : s.Wf) : (s.putSlots bs next k y).Wf := by
  fun_induction s.putSlots bs next k y <;> grind [LogRes.Wf, wf_homeWrite]

theorem wf_takeMsg {bs : List Byte} (h0 : s.Wf) : (s.takeMsg bs).Wf := by
  unfold State.takeMsg
  dsimp only
  repeat' split
  all_goals grind [wf_ringPut, wf_sendFrame, wf_nak, wf_putSlots]

theorem wf_execHostMsgFrame {bytes : List Byte} (h0 : s.Wf) : NextWf (execHostMsgFrame bytes s) := by
  unfold execHostMsgFrame
  grind [wf_nak, wf_takeMsg, NextWf]

theorem wf_execSndreq {bytes : List Byte} (h0 : s.Wf) : NextWf (execSndreq bytes s) := by
  unfold execSndreq
  grind [wf_startSounding, wf_nak, NextWf]

theorem wf_execIrqFrame (h0 : s.Wf) : NextWf (execIrqFrame s) := by
  unfold execIrqFrame
  grind [State.Wf, wf_horizon, wf_sendFrame, NextWf]

theorem wf_reply {w : List Word} {status reason : Nat} {data : List Byte} (h0 : s.Wf) : (s.reply w status reason data).Wf := by
  unfold State.reply
  grind [State.Wf, LogRes.Wf, wf_homeWrite, wf_sendFrame]

theorem wf_onMessage {kind : Nat} {bad : List Word → Bool} {go : State → List Word → State} (h0 : s.Wf)
    (h1 : ∀ (t : State) (v : List Word), t.Wf → (go t v).Wf) : NextWf (s.onMessage kind bad go) := by
  unfold State.onMessage
  grind [wf_reply, NextWf]

theorem wf_msgClose (h0 : s.Wf) : (s.msgClose).Wf := by
  unfold State.msgClose
  grind [State.Wf, wf_dropAcc]

theorem wf_msgRead {pa n : Nat} {bad : State → Nat → State} {ok : State → List Byte → State} (h0 : s.Wf)
    (h1 : ∀ (t : State) (v : Nat), t.Wf → (bad t v).Wf) (h2 : ∀ (t : State) (v : List Byte), t.Wf → (ok t v).Wf) :
    (s.msgRead pa n bad ok).Wf := by
  unfold State.msgRead
  grind [State.Wf, Bytes.Wf, wf_readBytes, wf_openParts, wf_msgClose]

theorem wf_msgWrite {pa : Nat} {bs : List Byte} {bad : State → Nat → State} {ok : State → State} (h0 : s.Wf)
    (h1 : ∀ (t : State) (v : Nat), t.Wf → (bad t v).Wf) (h2 : ∀ (t : State), t.Wf → (ok t).Wf) :
    (s.msgWrite pa bs bad ok).Wf := by
  unfold State.msgWrite
  grind [State.Wf, WriteRun.Wf, wf_foreignFull, wf_openParts, wf_runStores, wf_msgClose]

theorem wf_execMsgLaunch (h0 : s.Wf) : NextWf (execMsgLaunch s) := by
  refine wf_onMessage h0 fun t w ht => ?_
  dsimp only
  split
  · exact wf_reply (wf_capture ht _ ‹_›)
  · exact ht

theorem wf_execMsgCopy (h0 : s.Wf) : NextWf (execMsgCopy s) := by
  unfold execMsgCopy
  grind [wf_addCopy, wf_reply, wf_onMessage]

theorem wf_execMsgWaitb (h0 : s.Wf) : NextWf (execMsgWaitb s) := by
  unfold execMsgWaitb
  grind [wf_modCopyq, wf_reply, wf_onMessage]

theorem wf_execMsgWrite (h0 : s.Wf) : NextWf (execMsgWrite s) := by
  unfold execMsgWrite
  grind [wf_reply, wf_onMessage, wf_msgWrite]

theorem wf_execMsgRead (h0 : s.Wf) : NextWf (execMsgRead s) := by
  unfold execMsgRead
  grind [wf_reply, wf_onMessage, wf_msgRead]

theorem wf_execKeyload (h0 : s.Wf) : NextWf (execKeyload s) := by
  unfold execKeyload
  grind [State.Wf, wf_reply, wf_onMessage, wf_msgRead]

theorem wf_execKeyrel (h0 : s.Wf) : NextWf (execKeyrel s) := by
  unfold execKeyrel
  grind [State.Wf, wf_reply, wf_onMessage]

theorem wf_execPodcfg (h0 : s.Wf) : NextWf (execPodcfg s) := by
  unfold execPodcfg
  grind [State.Wf, wf_reply, wf_onMessage, wf_msgRead]

theorem wf_execMsgAttest (h0 : s.Wf) : NextWf (execMsgAttest s) := by
  unfold execMsgAttest
  grind [wf_reportBytes, wf_reply, wf_onMessage, wf_msgWrite]

/-! ## Accesses of other packages -/

theorem wf_perfRes_after {r : PerfRes} {f : State → Nat → PerfRes} (h0 : r.Wf)
    (h1 : ∀ (t : State) (v : Nat), t.Wf → (f t v).Wf) : (r.after f).Wf := by
  unfold PerfRes.after
  grind [PerfRes.Wf]

theorem wf_podClaim {kind pa : Nat} (h0 : s.Wf) : (s.podClaim kind pa).Wf := by
  unfold State.podClaim
  grind [State.Wf, ClaimRes.Wf, PerfRes.Wf, wf_claim]

theorem wf_podRing {src : Src} {x : Access} {attr : Attr} {pa : Nat} (h0 : s.Wf) : (s.podRing src x attr pa).Wf := by
  unfold State.podRing
  grind [PerfRes.Wf, wf_readAt, wf_writeAt, wf_perfRes_after]

theorem wf_podPerform {x : Access} {kind pa size : Nat} (h0 : s.Wf) : (s.podPerform x kind pa size).Wf := by
  unfold State.podPerform
  refine of_ite (wf_podClaim h0) <| of_ite (wf_rmwAt h0) <| of_ite ?_ <| of_ite (wf_dirPerf h0) ?_
  · split
    · trivial
    · exact h0
  · split
    · exact of_ite h0 (wf_perfRes_after (wf_readAt h0) fun t v ht => of_ite ht ht)
    · exact of_ite h0 (wf_perfRes_after (wf_readAt h0) fun t v ht => of_ite ht ht)
    · refine of_ite h0 <| of_ite trivial (wf_perfRes_after (wf_writeAt h0) fun t v ht => ?_)
      exact of_ite (wf_markLine ht) ht
    · exact of_ite h0 (wf_logRes_perf (wf_clearWords h0) h0 fun _ h => h)
    · exact of_ite (wf_rmwAt h0) (wf_rmwAt h0)
    · exact wf_podRing h0
    · exact h0
    · exact h0
    · exact h0

theorem wf_podAcked {kind pa data fclass : Nat} (h0 : s.Wf) : (s.podAcked kind pa data fclass).Wf := h0

theorem wf_execPodAccessReceive {kind pa size data : Nat} (h0 : s.Wf) : NextWf (execPodAccessReceive kind pa size data s) := by
  unfold execPodAccessReceive
  grind [PerfRes.Wf, wf_foreignFull, wf_diverged, wf_podPerform, wf_podAcked, NextWf]

theorem wf_ackedAll {id : Nat} (h0 : s.Wf) : (s.ackedAll id).Wf := by
  unfold State.ackedAll
  grind [wf_openUnits, wf_traceFault, wf_dropAcc]

theorem wf_ackFail {x : Access} {j : Nat} {u : AUnit} {c m : Nat} (h0 : s.Wf) : (s.ackFail x j u c m).Wf := by
  unfold State.ackFail
  grind [wf_setUnit, wf_dropAcc, wf_accFault, wf_settleIssue, wf_ackedAll]

theorem wf_ackUnit {x : Access} {j : Nat} {u : AUnit} {data : Nat} (h0 : s.Wf) : (s.ackUnit x j u data).Wf := by
  unfold State.ackUnit
  grind [RingRes.Wf, wf_setUnit, wf_accFault, wf_settleIssue, wf_unitDone, wf_holdUnit, wf_afterPerf, wf_answerAs, wf_answer,
    wf_readDone, wf_ringMark, wf_ringGlobal, wf_ackedAll]

theorem wf_execPodAck {acc unit data : Nat} (h0 : s.Wf) : NextWf (execPodAck acc unit data s) := by
  unfold execPodAck
  grind [wf_ackFail, wf_ackUnit, NextWf]

theorem wf_resend {plane : Nat} {x : Access} (h0 : s.Wf) : (s.resend plane x).Wf := h0

theorem wf_execPlaneTimeout {plane : Nat} (h0 : s.Wf) : NextWf (execPlaneTimeout plane s) := by
  unfold execPlaneTimeout
  grind [State.Wf, wf_ackedAll, wf_resend, NextWf, wf_foldl]

/-! ## Debug frames -/

theorem wf_regWrite {k : Nat} {r : Region} {p : Option DbgSpot} {space i : Nat} {v : Word} {last : Option (Nat × Word)}
    (h0 : s.Wf) : ∀ o, s.regWrite k r p space i v last = some o → o.Wf := by
  intro o ho
  unfold State.regWrite at ho
  grind [State.Wf, CommitRes.Wf, Option.map_eq_some_iff, Option.bind_eq_some_iff, wf_modCell, wf_modRegion, wf_modTask, wf_slotRegWrite, wf_routerWrite, wf_csrWriteAt]

/-! ## Debug commands -/

theorem wf_cmdEnd {n e rst : Nat} {d : Option Word} (h0 : s.Wf) : (s.cmdEnd n e rst d).Wf := by
  unfold State.cmdEnd
  grind [wf_modSession, wf_dropAcc]

theorem wf_cmdSettle {s0 : State} {n : Nat} {r : CmdRes} (h0 : s0.Wf) (h1 : r.Wf) : (s0.cmdSettle n r).Wf := by
  unfold State.cmdSettle
  grind [CmdRes.Wf, wf_cmdEnd]

theorem wf_notHalted : (notHalted).Wf := by
  unfold notHalted
  grind [CmdRes.Wf]

theorem wf_onCommand {n t : Nat} {go : State → Session → Nat → Region → CmdRes} (h0 : s.Wf)
    (h1 : ∀ (t : State) (x : Session) (k : Nat) (r : Region), t.Wf → (go t x k r).Wf) : NextWf (s.onCommand n t go) := by
  unfold State.onCommand
  grind [wf_cmdEnd, wf_cmdSettle, NextWf]

theorem wf_touched {k : Nat} (h0 : s.Wf) : (s.touched k).Wf := by
  unfold State.touched
  grind [wf_endReplay]

theorem wf_execAccreg {session : Nat} (h0 : s.Wf) : NextWf (execAccreg session s) := by
  refine wf_onCommand h0 fun t x k r ht => of_ite wf_notHalted <| of_ite trivial <| of_ite ?_ ?_
  · have hr := wf_regWrite (k := k) (r := r) (p := t.spotOf k r x.sel) (space := field x.command 23 19)
      (i := field x.command 18 0) (v := x.datum 0) (last := x.lastOp) ht
    split
    · trivial
    · rename_i u _ hu
      have hu : u.Wf := hr _ hu
      exact wf_touched hu
    · exact hr _ ‹_›
    · trivial
  · split
    · trivial
    · grind [CmdRes.Wf, State.Wf, wf_modSession]

theorem wf_binRead {d : Nat} {attr : Attr} {pa : Nat} (h0 : s.Wf) : (s.binRead d attr pa).Wf := wf_readAt h0

theorem wf_binWrite {d : Nat} {attr : Attr} {pa : Nat} {v : Word} (h0 : s.Wf) : (s.binWrite d attr pa v).Wf := by
  unfold State.binWrite
  grind [LogRes.Wf, PerfRes.Wf, wf_bankWrite, wf_writeAt]

theorem wf_accmemDone {n k : Nat} {x : Session} {v : Nat} (h0 : s.Wf) : (s.accmemDone n k x v).Wf := by
  unfold State.accmemDone
  grind [CmdRes.Wf, wf_modSession, wf_touched]

theorem wf_accmemAt {n k : Nat} {x : Session} {pa : Nat} {attr : Attr} {code : Nat} (h0 : s.Wf) :
    (s.accmemAt n k x pa attr code).Wf := by
  unfold State.accmemAt
  grind [CmdRes.Wf, PerfRes.Wf, wf_modSession, wf_foreignFull, wf_diverged, wf_openParts, wf_binRead, wf_binWrite,
    wf_accmemDone]

theorem wf_execAccmem {session : Nat} (h0 : s.Wf) : NextWf (execAccmem session s) := by
  unfold execAccmem
  grind [CmdRes.Wf, wf_notHalted, wf_onCommand, wf_accmemDone, wf_accmemAt]

theorem wf_execHaltr {session : Nat} (h0 : s.Wf) : NextWf (execHaltr session s) := by
  unfold execHaltr
  grind [CmdRes.Wf, wf_modSession, wf_haltGang, wf_notHalted, wf_onCommand]

theorem wf_execHaltrQuiescent {session : Nat} (h0 : s.Wf) : NextWf (execHaltrQuiescent session s) :=
  wf_onCommand h0 fun _ _ _ _ ht => of_ite (wf_logPointers ht) ht

theorem wf_forTasks {k : Nat} {f : TaskCtx → TaskCtx} (h0 : s.Wf) : (s.forTasks k f).Wf := by
  unfold State.forTasks
  grind [wf_modCell, wf_foldl]

theorem wf_runGang {k : Nat} (h0 : s.Wf) : (s.runGang k).Wf := by
  unfold State.runGang
  grind [wf_modRegion, wf_advanceGen, wf_traceEvent, wf_forTasks, wf_foldl]

theorem wf_execFwd {session : Nat} (h0 : s.Wf) : NextWf (execFwd session s) := by
  unfold execFwd
  grind [CmdRes.Wf, wf_notHalted, wf_onCommand, wf_runGang]

theorem wf_execFstep {session : Nat} (h0 : s.Wf) : NextWf (execFstep session s) := by
  unfold execFstep
  grind [CmdRes.Wf, wf_modTask, wf_notHalted, wf_onCommand, wf_runGang]

theorem wf_undoSub {ln key n y1 : Nat} {y : State} (h0 : y.Wf) : (State.undoSub ln key n y1 y).Wf := by
  fun_induction State.undoSub ln key n y1 y <;> grind [wf_modLog, wf_putForeign]

theorem wf_dropBanks {k : Nat} (h0 : s.Wf) : (s.dropBanks k).Wf := by
  unfold State.dropBanks
  grind [wf_modCell, wf_foldl]

theorem wf_backTo {ln n : Nat} (h0 : s.Wf) : (s.backTo ln n).Wf := by
  unfold State.backTo
  grind [State.Wf, wf_logPointers, wf_letClaims, wf_modLog, wf_writeBackRegion, wf_putSnap, wf_passWaypoint, wf_resetTags,
    wf_undoSub, wf_dropBanks, wf_foldl]

theorem wf_execBack {session : Nat} (h0 : s.Wf) : NextWf (execBack session s) := by
  unfold execBack
  grind [CmdRes.Wf, wf_notHalted, wf_onCommand, wf_backTo]

theorem wf_beginBstep {session k : Nat} {r : Region} {x : Session} {n : Nat} (h0 : s.Wf) :
    (s.beginBstep session k r x n).Wf := by
  unfold State.beginBstep
  grind [CmdRes.Wf, wf_modSession, wf_modTask, wf_modLog, wf_runGang, wf_backTo]

theorem wf_execBstep {session : Nat} (h0 : s.Wf) : NextWf (execBstep session s) := by
  unfold execBstep
  grind [CmdRes.Wf, wf_notHalted, wf_onCommand, wf_beginBstep]

theorem wf_execUnseal {session : Nat} (h0 : s.Wf) : NextWf (execUnseal session s) :=
  wf_onCommand h0 fun _ _ _ _ ht => of_ite ht <| of_ite
    (wf_foldl (fun _ _ hu => wf_modRegion hu) _ ht) (wf_cmdEnd (wf_foldl (fun _ _ hu => wf_modRegion hu) _ ht))

theorem wf_sealTo {k n : Nat} (h0 : s.Wf) : (s.sealTo k n).Wf := by
  unfold State.sealTo
  grind [wf_modRegion, wf_foldl]

theorem wf_execSeal {session : Nat} (h0 : s.Wf) : NextWf (execSeal session s) := wf_onCommand h0 fun _ _ _ _ ht => wf_sealTo ht

theorem wf_execStatr {session : Nat} (h0 : s.Wf) : NextWf (execStatr session s) :=
  wf_onCommand h0 fun _ _ _ _ ht => wf_modSession ht

theorem wf_putBsel {n : Nat} {v : Word} (h0 : s.Wf) : (s.putBsel n v).Wf := by
  unfold State.putBsel
  grind [wf_modSession, wf_sealTo]

theorem wf_dbgWrite {n reg : Nat} {v : Word} (h0 : s.Wf) : (s.dbgWrite n reg v).Wf := by
  unfold State.dbgWrite
  grind [wf_modSession, wf_putBsel]

theorem wf_execCmderrClear {session : Nat} {v : Word} (h0 : s.Wf) : NextWf (execCmderrClear session v s) := by
  unfold execCmderrClear
  grind [wf_dbgWrite, NextWf]

theorem wf_execDebugRegisterWrite {session reg : Nat} {v : Word} (h0 : s.Wf) :
    NextWf (execDebugRegisterWrite session reg v s) := by
  unfold execDebugRegisterWrite
  grind [wf_dbgWrite, NextWf]

theorem wf_dbgOps {n : Nat} {y : List (Word × Word)} (h0 : s.Wf) : (s.dbgOps n y).Wf := by
  fun_induction s.dbgOps n y <;> grind [State.Wf, wf_modSession, wf_dbgWrite]

theorem wf_dbgRespond {n : Nat} (h0 : s.Wf) : (s.dbgRespond n).Wf := by
  unfold State.dbgRespond
  grind [State.Wf, wf_modSession]

theorem wf_dbgServe {n y1 : Nat} {y : State} (h0 : y.Wf) : (State.dbgServe n y1 y).Wf := by
  fun_induction State.dbgServe n y1 y <;> grind [wf_modSession, wf_dbgOps, wf_dbgRespond]

theorem wf_execDbgFrame {bytes : List Byte} (h0 : s.Wf) : NextWf (execDbgFrame bytes s) := by
  unfold execDbgFrame
  grind [State.Wf, wf_modSession, wf_nak, wf_dbgServe, NextWf]

theorem wf_execDbgWaitOp {session : Nat} (h0 : s.Wf) : NextWf (execDbgWaitOp session s) := by
  unfold execDbgWaitOp
  grind [wf_dbgServe, NextWf]

theorem wf_execTraceWindow {region : Nat} (h0 : s.Wf) : NextWf (execTraceWindow region s) := by
  unfold execTraceWindow
  grind [wf_modRegion, wf_traceRec, NextWf]

theorem wf_execTraceSample {region : Nat} (h0 : s.Wf) : NextWf (execTraceSample region s) := by
  unfold execTraceSample
  grind [wf_modRegion, wf_traceRec, NextWf, wf_foldl]

theorem wf_replayTick (h0 : s.Wf) : (s.replayTick).Wf := by
  unfold State.replayTick
  grind [LogRes.Wf, wf_foreignNow, wf_diverged, wf_foldl]

theorem wf_clock (h0 : s.Wf) : (s.clock).Wf := wf_replayTick (wf_sendPart h0)

/-! ## The clock and the decision of a scheduler -/

theorem wf_preemptFor {d p : Nat} {h : LRec} (h0 : s.Wf) : (s.preemptFor d p h).Wf := by
  unfold State.preemptFor
  grind [wf_startGate]

theorem wf_levelHead {d p : Nat} {h : LRec} (h0 : s.Wf) : (s.levelHead d p h).Wf := h0

theorem wf_markHead {d p : Nat} {h : LRec} (h0 : s.Wf) : (s.markHead d p h).Wf := h0

theorem wf_decideLevels {d : Nat} {y : List Nat} (h0 : s.Wf) : (s.decideLevels d y).Wf := by
  fun_induction s.decideLevels d y <;> grind [wf_modDie, wf_takeRecord, wf_preemptFor, wf_levelHead, wf_markHead]

theorem wf_askCharts {d : Nat} (h0 : s.Wf) : (s.askCharts d).Wf := by
  unfold State.askCharts
  grind [GotChart.Wf, wf_fetchChart, wf_foldl]

theorem wf_beginDecision {d : Nat} (h0 : s.Wf) : (s.beginDecision d).Wf := wf_askCharts h0

theorem wf_saveVictim {k : Nat} (h0 : s.Wf) : (s.saveVictim k).Wf := by
  unfold State.saveVictim
  grind [SaveRes.Wf, wf_foreignFull, wf_openParts, wf_modRec, wf_writeArea, wf_leaveSaved, wf_failSave, wf_recClose]

theorem wf_execAdmissionDecision {sched : Nat} (h0 : s.Wf) : NextWf (execAdmissionDecision sched s) := by
  unfold execAdmissionDecision
  grind [wf_decideLevels, wf_beginDecision, wf_saveVictim, NextWf]

/-! ## SHFL -/

theorem wf_execShfl {f : FmtG} (h0 : s.Wf) : NextWf (execShfl f s) := wf_fireTok h0

/-! ## Lane instructions -/

theorem wf_execRed {f : FmtG} (h0 : s.Wf) : NextWf (execRed f s) := by
  unfold execRed
  grind [wf_fireTok]

theorem wf_execPfx {f : FmtG} (h0 : s.Wf) : NextWf (execPfx f s) := by
  unfold execPfx
  grind [wf_fireTok]

theorem wf_execLane {f : FmtG} (h0 : s.Wf) : NextWf (execLane f s) := wf_fireTok h0

theorem wf_execVins {f : FmtG} (h0 : s.Wf) : NextWf (execVins f s) := wf_fireTok h0

theorem wf_execVidx {f : FmtG} (h0 : s.Wf) : NextWf (execVidx f s) := wf_fireTok h0

/-! ## Every instruction and event -/

theorem wf_exec {i : Instr} (h0 : s.Wf) : NextWf (exec i s) := by
  -- `seal` and `unseal` are words of Lean, so their two cases are stated here and not named below.
  have hseal : ∀ n, NextWf (exec (.seal n) s) := fun _ => wf_execSeal h0
  have hunseal : ∀ n, NextWf (exec (.unseal n) s) := fun _ => wf_execUnseal h0
  cases i with
  | add | sub | mul | mulh | div | rem | min | max | and | or | xor | shl | shr | sra | rot | bext | lea | cmp | fadd | fsub
    | fmul | fdiv | fmin | fmax | fcmp => exact wf_lift2 h0
  | ld | st | ldv | stv | ldw | stf | clr | aadd | amin | amax | aand | aor | axor | aswp | acas | afadd | mwait | wback
    | inval | rput | rget | rfree | rstat => exact wf_fireMem h0
  | abs | neg | not | clz | popc | brev | addi | andi | ori | xori | cmpi | fsqrt | fabs | fneg | fclass | cvt | frint
    | faddi | fmuli => exact wf_lift1 h0
  | copy | batch | launch | splice | cancelLaunch | cancelCopies | csrw | resume | abort | chload | chact | preempt | cksave
    | ckrest | almw | reckWrbudget | sound | attest => exact wf_fireLate h0
  | dsrc | dsink | dadd | dsub | dmul | ddiv | dsqrt | dfma | drelu | dmax | dmin | dthr | dexp2 | dacc | dred | dscl => exact wf_fireDigit h0
  | scan | isect | unionS | repeatS | sacc | gather | scatter | scata => exact wf_fireStream h0
  | br | halt | yield | waypt | trap => exact wf_fireExit h0
  | bins | madd | ffma => exact wf_lift3 h0
  | tdir | tclass | tfill => exact wf_fireDir h0
  | barw | bara | bart => exact wf_fireSync h0
  | semw | sema | semr => exact wf_fireSem h0
  | mov => exact wf_execMov h0
  | movi => exact wf_execMovi h0
  | nullTok => exact wf_execNullTok h0
  | readReg => exact wf_execReadReg h0
  | sel => exact wf_execSel h0
  | inTok => exact wf_execInTok h0
  | stopTok => exact wf_execStopTok h0
  | tokt => exact wf_execTokt h0
  | color => exact wf_execColor h0
  | shfl => exact wf_execShfl h0
  | fscale => exact wf_execFscale h0
  | fexp2 => exact wf_execFexp2 h0
  | red => exact wf_execRed h0
  | pfx => exact wf_execPfx h0
  | lane => exact wf_execLane h0
  | vins => exact wf_execVins h0
  | vidx => exact wf_execVidx h0
  | tload => exact wf_execTload h0
  | tswap => exact wf_execTswap h0
  | mmrow => exact wf_execMmrow h0
  | mmout => exact wf_execMmout h0
  | mmzero => exact wf_execMmzero h0
  | shape => exact wf_execShape h0
  | shapeq => exact wf_execShapeq h0
  | sbind => exact wf_execSbind h0
  | sbar => exact wf_execSbar h0
  | fence => exact wf_execFence h0
  | pref => exact wf_execPref h0
  | bri => exact wf_execBri h0
  | call => exact wf_execCall h0
  | calli => exact wf_execCalli h0
  | ret => exact wf_execRet h0
  | spawn => exact wf_execSpawn h0
  | retc => exact wf_execRetc h0
  | brk => exact wf_execBrk h0
  | evt => exact wf_execEvt h0
  | waitb => exact wf_execWaitb h0
  | qstat => exact wf_execQstat h0
  | cstat => exact wf_execCstat h0
  | csrr => exact wf_execCsrr h0
  | mailr => exact wf_execMailr h0
  | tlbi => exact wf_execTlbi h0
  | almr => exact wf_execAlmr h0
  | reckRdbudget => exact wf_execReckRdbudget h0
  | reckRdctr => exact wf_execReckRdctr h0
  | idle => exact wf_execIdle h0
  | tokenArrivalActivate => exact wf_execTokenArrivalActivate h0
  | blockCommit => exact wf_tryCommit h0
  | circuitForward => exact wf_execCircuitForward h0
  | routerSteer => exact wf_execRouterSteer h0
  | routerMerge => exact wf_execRouterMerge h0
  | routerNdmerge => exact wf_execRouterNdmerge h0
  | routerCarry => exact wf_execRouterCarry h0
  | digitStep => exact wf_execDigitStep h0
  | killMessage => exact wf_execKillMessage h0
  | streamToken => exact wf_execStreamToken h0
  | streamCommandStart => exact wf_execStreamCommandStart h0
  | streamCommandElement => exact wf_execStreamCommandElement h0
  | helmSbindActivation => exact wf_execHelmSbindActivation h0
  | matrixRowAdd => exact wf_execMatrixRowAdd h0
  | tloadComplete => exact wf_execTloadComplete h0
  | homeAccess => exact wf_execHomeAccess h0
  | claimResolve => exact wf_execClaimResolve h0
  | heldReadRelease => exact wf_execHeldReadRelease h0
  | mwaitEvaluate => exact wf_execMwaitEvaluate h0
  | sliceRetry => exact wf_execSliceRetry h0
  | ringWaitResume => exact wf_execRingWaitResume h0
  | logHeldWrite => exact wf_execLogHeldWrite h0
  | bankFill => exact wf_execBankFill h0
  | rdcFill => exact wf_execRdcFill h0
  | walkComplete => exact wf_execWalkComplete h0
  | tlbiComplete => exact wf_execTlbiComplete h0
  | spawnGrant => exact wf_execSpawnGrant h0
  | barrierPhaseComplete => exact wf_execBarrierPhaseComplete h0
  | evtDeliver => exact wf_execEvtDeliver h0
  | queueRoomCapture => exact wf_execQueueRoomCapture h0
  | copyStart => exact wf_execCopyStart h0
  | copyChunk => exact wf_execCopyChunk h0
  | copyStamp => exact wf_execCopyStamp h0
  | conditionSatisfied => exact wf_execConditionSatisfied h0
  | admissionDecision => exact wf_execAdmissionDecision h0
  | gangReservation => exact wf_execGangReservation h0
  | loadCommit => exact wf_execLoadCommit h0
  | regionComplete => exact wf_execRegionComplete h0
  | regionStalled => exact wf_execRegionStalled h0
  | energyWindow => exact wf_execEnergyWindow h0
  | spliceSwitchover => exact wf_execSpliceSwitchover h0
  | gatedQuiescence => exact wf_execGatedQuiescence h0
  | qboundExpiry => exact wf_execQboundExpiry h0
  | waypointQuiescence => exact wf_execWaypointQuiescence h0
  | handlerNotify => exact wf_execHandlerNotify h0
  | cellClockGate => exact wf_execCellClockGate h0
  | cellWake => exact wf_execCellWake h0
  | reset => exact wf_reset
  | functionReady => exact wf_execFunctionReady h0
  | helmStart => exact wf_execHelmStart h0
  | functionFailure => exact wf_execFunctionFailure h0
  | almwDurable => exact wf_execAlmwDurable h0
  | hostMsgFrame => exact wf_execHostMsgFrame h0
  | sndreq => exact wf_execSndreq h0
  | dbgFrame => exact wf_execDbgFrame h0
  | dbgWaitOp => exact wf_execDbgWaitOp h0
  | irqFrame => exact wf_execIrqFrame h0
  | msgLaunch => exact wf_execMsgLaunch h0
  | msgCopy => exact wf_execMsgCopy h0
  | msgWaitb => exact wf_execMsgWaitb h0
  | msgWrite => exact wf_execMsgWrite h0
  | msgRead => exact wf_execMsgRead h0
  | keyload => exact wf_execKeyload h0
  | keyrel => exact wf_execKeyrel h0
  | podcfg => exact wf_execPodcfg h0
  | msgAttest => exact wf_execMsgAttest h0
  | podAccessReceive => exact wf_execPodAccessReceive h0
  | podAck => exact wf_execPodAck h0
  | planeTimeout => exact wf_execPlaneTimeout h0
  | ulcmdExtend => exact wf_execUlcmdExtend h0
  | ulcmdDiscard => exact wf_execUlcmdDiscard h0
  | accreg => exact wf_execAccreg h0
  | accmem => exact wf_execAccmem h0
  | haltr => exact wf_execHaltr h0
  | haltrQuiescent => exact wf_execHaltrQuiescent h0
  | fwd => exact wf_execFwd h0
  | fstep => exact wf_execFstep h0
  | back => exact wf_execBack h0
  | bstep => exact wf_execBstep h0
  | statr => exact wf_execStatr h0
  | cmderrClear => exact wf_execCmderrClear h0
  | debugRegisterWrite => exact wf_execDebugRegisterWrite h0
  | traceWindow => exact wf_execTraceWindow h0
  | traceSample => exact wf_execTraceSample h0
  | cellPowerGate => exact wf_execCellPowerGate h0
  | _ => simp only [hseal, hunseal]

/-! ## The step -/

theorem wf_happen {h : Happening} (h0 : s.Wf) : NextWf (happen h s) := by
  cases h with
  | tick => exact wf_clock h0
  | issue a =>
    have hp : (s.prepare a).Wf := wf_prepare h0
    unfold happen
    dsimp only
    split <;> rename_i hr <;> rw [hr] at hp
    · exact hp
    · trivial
    · exact wf_exec hp
  | event i => exact of_ite (wf_exec h0) h0
  | homeError pa corrected => exact of_ite (P := State.Wf) h0 (wf_homeError h0)
  | podArrival => exact wf_podArrive h0
  | helmFill => exact wf_helmFill h0
  | tileError => exact wf_tileError h0

theorem wf_step (h0 : s.Wf) : NextWf (step s) := by
  unfold step
  split
  · exact wf_happen h0
  · exact wf_happen h0

end

/-- Settles O59: a step runs one happening, and every function it goes through keeps memory canonical. -/
theorem memoryStaysCanonical : Obligations.MemoryStaysCanonical := by
  intro s t hs hst
  have ht : NextWf (step s) := wf_step hs
  rwa [hst] at ht

end Sys2Proof.Machine
